-- ==== Sys2Proof/Word.lean ====
section
/-! DEFINITION. The byte of the station lines, the backhaul and the stored image. -/

namespace Sys2Proof

/-- One byte of a frame, of a record image or of the stored image (11.7). -/
abbrev Byte := BitVec 8

end Sys2Proof
end

