-- ==== Sys2Proof/Syntax.lean ====
section
/-! DEFINITION. The commands of the RC-32: one constructor per row of spec/opcode_table.json. -/

namespace Sys2Proof

/-- The two station lines (chapter 1). -/
inductive Line where
  | a
  | b
  deriving DecidableEq, Repr

/-- The levels the part finds at a start: the FALLBACK_OPEN strap (R189), whether the flash port responds (R188), and
the backup supply pin (00, External connections; log 12). -/
structure StartLevels where
  strapInForce  : Bool
  flashResponds : Bool
  backupPresent : Bool
  deriving DecidableEq, Repr

/-- The commands: the operations and events of spec/opcode_table.json, each one whole, indivisible step of the part
(95_what_each_step_holds.md). The requests carry no operand of their own: each is the step in which the endpoint
handles the oldest frame of its receive buffer (R178), and the frame's bytes are its operands. -/
inductive Instr where
  /-- MAIN_POWER_UP (R187). -/
  | mainPowerUp (levels : StartLevels)
  /-- MAIN_POWER_LOST (R21, R187). -/
  | mainPowerLost
  /-- RESET_PIN_ASSERTED (R187). -/
  | resetPinAsserted
  /-- RESET_PIN_RELEASED (R187). -/
  | resetPinReleased (levels : StartLevels)
  /-- ENTER_RUNNING (R190). -/
  | enterRunning
  /-- REQUESTED_START (R191). -/
  | requestedStart (levels : StartLevels)
  /-- CLOCK_ADVANCE (R21, R22, R24). -/
  | clockAdvance
  /-- ROUND_DEADLINE_REACHED (R145), of a round 0-3. -/
  | roundDeadlineReached (round : Nat)
  /-- STANDING_RELEASE (R147), of a round 0-3. -/
  | standingRelease (round : Nat)
  /-- SAMPLE_COUNTDOWN_EXPIRY (R86), of a container 0-127. -/
  | sampleCountdownExpiry (container : Nat)
  /-- SAMPLE_OUTSTANDING_EXPIRY (R89), of a container 0-127. -/
  | sampleOutstandingExpiry (container : Nat)
  /-- GRANT_WINDOW_EXPIRY (R122), of a container 0-127. -/
  | grantWindowExpiry (container : Nat)
  /-- SERVICE_WINDOW_EXPIRY (R154), of a container 0-127. -/
  | serviceWindowExpiry (container : Nat)
  /-- LIFT_LIMIT_EXPIRY (R159), of a container 0-127. -/
  | liftLimitExpiry (container : Nat)
  /-- SETTLE_TIME_EXPIRY (R161), of a container 0-127. -/
  | settleTimeExpiry (container : Nat)
  /-- HOLD_TIMEOUT (R176). -/
  | holdTimeout
  /-- RESPONSE_WINDOW_EXPIRED (R8), on a line. -/
  | responseWindowExpired (line : Line)
  /-- LINE_FRAME_SENT (R8), on a line. -/
  | lineFrameSent (line : Line)
  /-- LINE_FRAME_RECEIVED (R1, R8): the bytes from the marker on, as far as they came, and whether the marker was seen
  within the response window of the exchange in progress. -/
  | lineFrameReceived (line : Line) (markerInWindow : Bool) (bytes : List Byte)
  /-- BACKHAUL_FRAME_RECEIVED (R177): the bytes from the marker on, as far as they came. -/
  | backhaulFrameReceived (bytes : List Byte)
  /-- BACKHAUL_TRANSMIT_BEGIN (R181). -/
  | backhaulTransmitBegin
  /-- BACKHAUL_TRANSMIT_DONE (R181). -/
  | backhaulTransmitDone
  /-- UNKNOWN_REQUEST (R178). -/
  | unknownRequest
  /-- RELAY_STATION_CMD (R180). -/
  | relayStationCmd
  /-- TABLE_WRITE (R182). -/
  | tableWrite
  /-- TABLE_READ (R183). -/
  | tableRead
  /-- JOURNAL_READ (R65). -/
  | journalRead
  /-- JOURNAL_RELEASE (R66). -/
  | journalRelease
  /-- NOTICE_FLAGS_READ (R32). -/
  | noticeFlagsRead
  /-- NOTICE_FLAGS_CLEAR (R33). -/
  | noticeFlagsClear
  /-- SET_TIME (R23). -/
  | setTime
  /-- STATUS_READ (R184). -/
  | statusRead
  /-- IMAGE_SAVE (R186). -/
  | imageSave
  /-- IMAGE_SAVE_COMPLETE (R186): whether all three steps of the save succeeded. -/
  | imageSaveComplete (success : Bool)
  /-- TABLES_CLEAR (R191). -/
  | tablesClear
  /-- RESTART (R191). -/
  | restart
  /-- ROUND_DRAFT (R138). -/
  | roundDraft
  /-- ROUND_RELEASE (R139). -/
  | roundRelease
  /-- ROUND_CLOSE (R139). -/
  | roundClose
  /-- ROUND_ABORT (R139). -/
  | roundAbort
  /-- CONTAINER_BAR (R126). -/
  | containerBar
  /-- CONTAINER_UNBAR (R126). -/
  | containerUnbar
  /-- SENSOR_CLEAR (R105). -/
  | sensorClear
  /-- FORCE_DUE (R133). -/
  | forceDue
  /-- WATCH_SET (R165). -/
  | watchSet
  /-- WATCH_RESUME_CONTINUE (R173). -/
  | watchResumeContinue
  /-- WATCH_RESUME_STEP (R174). -/
  | watchResumeStep
  /-- WATCH_RESUME_DISCARD (R173). -/
  | watchResumeDiscard
  /-- BACKUP_SUPPLY_LOST (R187). -/
  | backupSupplyLost
  deriving DecidableEq, Repr

end Sys2Proof
end

