-- ==== Sys2Proof/Machine/State.lean ====
section
/-! DEFINITION. The state of the RC-32 as plain data, block by block, and the state after a cold start. -/

namespace Sys2Proof.Machine

/-- No row of the command table stops the part for good: the manual names no such condition, so no reason is needed.
A step of this model never ends in a fault. -/
inductive Fault where
  deriving DecidableEq, Repr

/-- Why a command is turned away. -/
inductive Refusal where
  /-- Raised by exec alone, in the arm of a command that has no meaning yet. Safe: nothing is claimed of it. -/
  | notModelled (mnemonic : String)
  deriving DecidableEq, Repr

/-! ### Sparse tables -/

/-- A table of records by index, in one canonical form: indices strictly rising, and no entry equal to the record an
unlisted index holds (Machine/Tab.lean). -/
structure Tab (α : Type) where
  entries : List (Nat × α)
  deriving DecidableEq, Repr

/-! ### Names used by several blocks -/

/-- The six fractions, in code order (00, Terms). -/
inductive Fraction where
  | residual
  | paper
  | glass
  | packaging
  | organic
  | textile
  deriving DecidableEq, Repr, Inhabited

/-- One number for each of the six fractions. -/
structure PerFraction where
  residual  : Nat
  paper     : Nat
  glass     : Nat
  packaging : Nat
  organic   : Nat
  textile   : Nat
  deriving DecidableEq, Repr, Inhabited

/-- District time: day number 0-65535 and second of day 0-86399 (2.1). -/
structure Time where
  day : Nat
  sec : Nat
  deriving DecidableEq, Repr, Inhabited

/-- A good frame of a station line or of the backhaul, without marker, LEN and CRC (11.7). -/
structure Frame where
  dst     : Byte
  src     : Byte
  kind    : Byte
  tag     : Byte
  payload : List Byte
  deriving DecidableEq, Repr, Inhabited

/-! ### Power and start (R187 to R191) -/

/-- The supplies, the RESET pin and the retention marker (R187). -/
structure Power where
  main          : Bool
  backup        : Bool
  resetAsserted : Bool
  marker        : Bool
  deriving DecidableEq, Repr

/-- Whether the part is stopped (no main power, or RESET asserted), LOADING or RUNNING (R187). -/
inductive Phase where
  | stopped
  | loading
  | running
  deriving DecidableEq, Repr

/-- The two kinds of start (R187). -/
inductive StartKind where
  | cold
  | warm
  deriving DecidableEq, Repr

/-- The causes of a start, in code order (R190). -/
inductive StartCause where
  | power
  | resetPin
  | restart
  | tablesClear
  deriving DecidableEq, Repr

/-- What the image area was judged to hold at the start (R188), in code order (11.7). -/
inductive ImageState where
  | blank
  | valid
  | corrupt
  deriving DecidableEq, Repr

/-- The part's state and its last start (R184, R187 to R191). -/
structure Part where
  phase     : Phase
  kind      : StartKind
  cause     : StartCause
  image     : ImageState
  strap     : Bool
  openMode  : Bool
  /-- The cause of a start that a taken RESTART or TABLES_CLEAR asked for and that has not been made yet (R191). -/
  requested : Option StartCause
  /-- An image save is in progress (R186). -/
  saving    : Bool
  deriving DecidableEq, Repr

/-- The District Timebase (2.1). The quota period number is derived, not stored (R27). -/
structure Clock where
  time    : Time
  set     : Bool
  pending : Option Time
  deriving DecidableEq, Repr

/-! ### Notices (chapter 2) -/

/-- The subject (or none) and the value of a raise (2.5). -/
structure Raise where
  subject : Option Nat
  value   : Nat
  deriving DecidableEq, Repr

/-- What the endpoint keeps for one notice class (R28). -/
structure NoticeClass where
  priority : Nat
  flag     : Bool
  overrun  : Bool
  last     : Option Raise
  deriving DecidableEq, Repr

/-- A class after any start with a BLANK image (R28). -/
def NoticeClass.blank : NoticeClass := { priority := 1, flag := false, overrun := false, last := none }

/-- A frame of the notice queue with the priority of its class at the raise (R30, R31). -/
structure NoticeFrame where
  priority : Nat
  frame    : Frame
  deriving DecidableEq, Repr

/-! ### Management endpoint (chapter 11) -/

/-- Which queue the frame in the backhaul transmitter came from (R181). -/
inductive TxRank where
  | reply
  | notice
  | relay
  deriving DecidableEq, Repr

/-- The frame the backhaul transmitter is sending (R181). -/
structure Transmission where
  rank  : TxRank
  frame : Frame
  deriving DecidableEq, Repr

/-- The queues and the transmitter of the endpoint (R177, R181). -/
structure Endpoint where
  rx       : List Frame
  replies  : List Frame
  toCenter : List Frame
  notices  : List NoticeFrame
  tx       : Option Transmission
  deriving DecidableEq, Repr

/-- The endpoint after any start (R177, 2.7). -/
def Endpoint.empty : Endpoint := { rx := [], replies := [], toCenter := [], notices := [], tx := none }

/-! ### Station lines (chapter 1) -/

/-- The station states (R12), in code order. -/
inductive StationState where
  | unknown
  | online
  | silent
  | lost
  | disabled
  deriving DecidableEq, Repr

/-- The configuration of a station (R12, R128, R182). -/
structure StationCfg where
  enabled     : Bool
  bank        : Nat
  grantWindow : Nat
  slotCount   : Nat
  deriving DecidableEq, Repr, Inhabited

/-- A station after a BLANK image (R128, R182). -/
def StationCfg.blank : StationCfg := { enabled := false, bank := 0, grantWindow := 5, slotCount := 4 }

/-- The health flags of a station (R11). -/
structure Health where
  tamper    : Bool
  flood     : Bool
  supplyLow : Bool
  deriving DecidableEq, Repr

/-- No health flag set (R12). -/
def Health.clear : Health := { tamper := false, flood := false, supplyLow := false }

/-- A station record (R12). Fast-poll need, priority-turn request and held are computed from the inlets, the line's
priority list and the watch, each of which is the one home of its fact. -/
structure Station where
  cfg        : StationCfg
  state      : StationState
  missCount  : Nat
  seen       : Bool
  lastItem   : Option Nat
  acceptOwed : Bool
  health     : Health
  deriving DecidableEq, Repr

/-- The record of a station with a given configuration after any start, in a given state (R12). -/
def Station.start (cfg : StationCfg) (state : StationState) : Station :=
  { cfg := cfg, state := state, missCount := 0, seen := false, lastItem := none, acceptOwed := false,
    health := Health.clear }

/-- A station that is not enabled, once the part has entered RUNNING (R12). -/
def Station.blank : Station := Station.start StationCfg.blank .disabled

/-- A look of a turn: one place where the controller may find something to send (R5). -/
inductive Look where
  | inlet (slot : Nat)
  | sample (slot : Nat)
  | relay
  | poll
  deriving DecidableEq, Repr

/-- What a frame on a line was built from: the pending inlet command or sample request of a slot, a numbered entry of
the relay queue, or nothing (a POLL). -/
inductive Sent where
  | inlet (slot : Nat)
  | sample (slot : Nat)
  | relay (entry : Nat)
  | poll
  deriving DecidableEq, Repr

/-- The exchange in progress (R5, R8): the frame, whether its last byte has gone out and the answer is awaited, and
whether a HOLD_AFTER match holds the station at its end (R169). -/
structure Exchange where
  what      : Sent
  frame     : Frame
  waiting   : Bool
  holdAfter : Bool
  deriving DecidableEq, Repr

/-- The turn in progress (R5). -/
structure Turn where
  station  : Nat
  todo     : List Look
  exchange : Exchange
  deriving DecidableEq, Repr

/-- An entry of a relay queue toward the stations (1.6). The number names it for a pass (R175; log 23). -/
structure RelayEntry where
  number  : Nat
  station : Nat
  tag     : Byte
  payload : List Byte
  deriving DecidableEq, Repr

/-- The two rotations of a line's arbiter (R18, R19). -/
inductive Rotation where
  | fast
  | normal
  deriving DecidableEq, Repr

/-- A line controller's own state (1.6, R17, R19). Cursors are station indices. -/
structure LineState where
  relay        : List RelayEntry
  nextEntry    : Nat
  priority     : List Nat
  fastCursor   : Nat
  normalCursor : Nat
  mark         : Rotation
  turn         : Option Turn
  deriving DecidableEq, Repr

/-- The station index of a line's last drop. -/
def Line.lastStation : Line → Nat
  | .a => 15
  | .b => 31

/-- A line after any start (R12, R17, R19). -/
def LineState.start (l : Line) : LineState :=
  { relay := [], nextEntry := 0, priority := [], fastCursor := Line.lastStation l,
    normalCursor := Line.lastStation l, mark := .normal, turn := none }

/-! ### Configuration tables -/

/-- The parameters record (11.7). -/
structure Params where
  districtCode  : Nat
  cardLimit     : Nat
  periodLength  : Nat
  anchorDay     : Nat
  invalidLimit  : Nat
  serviceWindow : Nat
  settleTime    : Nat
  holdTimeout   : Nat
  deriving DecidableEq, Repr, Inhabited

/-- The parameters record after a BLANK image (R35, 2.4, R101, R148, R164). -/
def Params.blank : Params :=
  { districtCode := 0, cardLimit := 1, periodLength := 1, anchorDay := 0, invalidLimit := 6, serviceWindow := 300,
    settleTime := 120, holdTimeout := 120 }

/-- A bank record (R128). -/
structure Bank where
  residentialOnly : Bool
  displayNumber   : Nat
  deriving DecidableEq, Repr, Inhabited

/-- A bank after a BLANK image (R128). -/
def Bank.blank : Bank := { residentialOnly := false, displayNumber := 0 }

/-- A fraction record (4.4). -/
structure FractionRec where
  nominal : Nat
  metered : Bool
  deriving DecidableEq, Repr, Inhabited

/-- A fraction after a BLANK image (R57). -/
def FractionRec.blank : FractionRec := { nominal := 0, metered := false }

/-- A shape record: nine points in per mille (R83). -/
structure Shape where
  points : List Nat
  deriving DecidableEq, Repr, Inhabited

/-- A shape after a BLANK image: the straight line (R83). -/
def Shape.blank : Shape := { points := [0, 125, 250, 375, 500, 625, 750, 875, 1000] }

/-! ### Cards and households (chapters 3, 4) -/

/-- The card classes, in code order (3.2). -/
inductive CardClass where
  | resident
  | business
  | crew
  deriving DecidableEq, Repr

/-- The card statuses, in code order (3.2). -/
inductive CardStatus where
  | active
  | suspended
  | lost
  deriving DecidableEq, Repr

/-- The configuration of a card record (3.2). A fraction or bank is in its set when its bit is set (11.7). -/
structure CardCfg where
  generation : Nat
  cls        : CardClass
  status     : CardStatus
  household  : Option Nat
  fractions  : BitVec 6
  banks      : BitVec 16
  deriving DecidableEq, Repr

/-- A blank card record (R35). -/
def CardCfg.blank : CardCfg :=
  { generation := 0, cls := .resident, status := .suspended, household := none, fractions := 0#6, banks := 0#16 }

/-- The display and decision codes, in code order (R111). -/
inductive DisplayCode where
  | ready
  | granted
  | serviceGranted
  | closed
  | outOfService
  | servicing
  | inletBusy
  | full
  | bank
  | fraction
  | quota
  | journalFull
  | noAccount
  | stale
  | noSlot
  | wrongReader
  | nullCard
  | foreign
  | unknownCard
  | revoked
  | suspended
  | lostCard
  deriving DecidableEq, Repr

/-- A card's last seen (R45). -/
structure LastSeen where
  time      : Time
  container : Nat
  code      : DisplayCode
  deriving DecidableEq, Repr

/-- A card record (3.2). -/
structure Card where
  cfg      : CardCfg
  lastSeen : Option LastSeen
  deriving DecidableEq, Repr

/-- A blank card record with its last seen absent (R35). -/
def Card.blank : Card := { cfg := CardCfg.blank, lastSeen := none }

/-- The configuration of a household record (4.1). -/
structure HouseholdCfg where
  metered   : Bool
  allowance : PerFraction
  deriving DecidableEq, Repr

/-- Zero for every fraction. -/
def PerFraction.zero : PerFraction :=
  { residual := 0, paper := 0, glass := 0, packaging := 0, organic := 0, textile := 0 }

/-- A blank household: FLAT with allowance 0 (R50). -/
def HouseholdCfg.blank : HouseholdCfg := { metered := false, allowance := PerFraction.zero }

/-- A household record (4.1): used and epoch are retained, held is not. -/
structure Household where
  cfg   : HouseholdCfg
  used  : PerFraction
  epoch : Option Nat
  held  : PerFraction
  deriving DecidableEq, Repr

/-- A household after a cold start with a BLANK image (R50). -/
def Household.blank : Household :=
  { cfg := HouseholdCfg.blank, used := PerFraction.zero, epoch := none, held := PerFraction.zero }

/-! ### Deposit Journal (chapter 4) -/

/-- The two kinds of journal record, in code order (R58). -/
inductive RecordKind where
  | deposit
  | lift
  deriving DecidableEq, Repr

/-- A journal record (R58). -/
structure JournalRecord where
  serial    : Nat
  kind      : RecordKind
  time      : Time
  container : Nat
  card      : Option Nat
  household : Option Nat
  fraction  : Fraction
  period    : Option Nat
  late      : Bool
  openMode  : Bool
  deriving DecidableEq, Repr

/-- The Deposit Journal (4.5). Records oldest first. -/
structure Journal where
  records  : List JournalRecord
  serial   : Nat
  reserved : Nat
  deriving DecidableEq, Repr

/-- The journal after a cold start (R67). -/
def Journal.empty : Journal := { records := [], serial := 0, reserved := 0 }

/-! ### Containers (chapters 5 to 9) -/

/-- The configuration of a container (R84, 6.1, R128). -/
structure ContainerCfg where
  present        : Bool
  fraction       : Fraction
  capacity       : Nat
  height         : Nat
  deadZone       : Nat
  shape          : Nat
  weight         : Nat
  tolerance      : Nat
  sinkStep       : Nat
  qMin           : Nat
  sampleInterval : Nat
  extraEvery     : Nat
  alertLevel     : Nat
  fullLevel      : Nat
  confirmCount   : Nat
  residueLimit   : Nat
  alternate      : Option Nat
  deriving DecidableEq, Repr, Inhabited

/-- A container after a BLANK image (R84, 6.1, R128). -/
def ContainerCfg.blank : ContainerCfg :=
  { present := false, fraction := .residual, capacity := 500, height := 300, deadZone := 0, shape := 0, weight := 1,
    tolerance := 0, sinkStep := 0, qMin := 0, sampleInterval := 1, extraEvery := 0, alertLevel := 100,
    fullLevel := 1000, confirmCount := 1, residueLimit := 0, alternate := none }

/-- The state of a container's sample request (5.7), in code order; the age counts second events (R89). -/
inductive SampleRequest where
  | idle
  | deferred
  | pending
  | outstanding (age : Nat)
  deriving DecidableEq, Repr

/-- The fill statuses, in code order (6.1). -/
inductive FillStatus where
  | unknown
  | normal
  | high
  | fullPending
  | full
  | overfull
  deriving DecidableEq, Repr

/-- The sensor states, in code order (6.1). -/
inductive SensorState where
  | good
  | degraded
  | failed
  deriving DecidableEq, Repr

/-- The Fill Estimator's fields of a container (5.1, 6.1). A countdown of 0 is one whose expiry is due (log 2). -/
structure Fill where
  estimate    : Option Nat
  risePending : Bool
  postLift    : Bool
  lastTof     : Option Nat
  deposits    : Nat
  countdown   : Option Nat
  request     : SampleRequest
  status      : FillStatus
  fullCount   : Nat
  sensor      : SensorState
  streak      : Nat
  stuck       : Nat
  deriving DecidableEq, Repr

/-- The fill fields after any start, with a given countdown (R69, R91). -/
def Fill.start (countdown : Option Nat) : Fill :=
  { estimate := none, risePending := false, postLift := false, lastTof := none, deposits := 0, countdown := countdown,
    request := .idle, status := .unknown, fullCount := 0, sensor := .good, streak := 0, stuck := 0 }

/-- The inlet states, in code order (7.1). -/
inductive InletState where
  | locked
  | opened
  | service
  | lifting
  | settling
  | barred
  deriving DecidableEq, Repr

/-- The bar reasons, in code order (7.1). -/
inductive BarReason where
  | center
  | stationLost
  | stationDisabled
  | notSeen
  | notPresent
  | liftOpen
  deriving DecidableEq, Repr

/-- A container's set of bar reasons (7.1). -/
structure BarSet where
  center          : Bool
  stationLost     : Bool
  stationDisabled : Bool
  notSeen         : Bool
  notPresent      : Bool
  liftOpen        : Bool
  deriving DecidableEq, Repr

/-- The empty set of bar reasons. -/
def BarSet.empty : BarSet :=
  { center := false, stationLost := false, stationDisabled := false, notSeen := false, notPresent := false,
    liftOpen := false }

/-- A grant record (R117). windowLeft counts the second events left; 0 means the expiry is due (log 2). -/
structure Grant where
  card       : Nat
  household  : Option Nat
  fraction   : Fraction
  period     : Nat
  reserved   : Bool
  windowLeft : Nat
  deriving DecidableEq, Repr

/-- A service record (9.1). The stop is the place of the container's stop in the round's list, from 0 (log 21). A window
or limit is none while stopped and 0 while its expiry is due (log 2). -/
structure Service where
  crew       : Option Nat
  round      : Option Nat
  stop       : Option Nat
  reserved   : Bool
  windowLeft : Option Nat
  limitLeft  : Option Nat
  deriving DecidableEq, Repr

/-- The actions of an inlet command, in code order (11.7). -/
inductive InletAction where
  | unlock
  | lock
  | serviceUnlock
  | showCode
  deriving DecidableEq, Repr

/-- A pending inlet command (7.2). sent: no new command has been set since this one was last sent (R7). -/
structure InletCommand where
  action : InletAction
  window : Nat
  code   : DisplayCode
  value  : Nat
  sent   : Bool
  deriving DecidableEq, Repr

/-- Inlet Control's fields of a container (7.1), with the running settle time (R161). -/
structure Inlet where
  state        : InletState
  bars         : BarSet
  grant        : Option Grant
  service      : Option Service
  command      : Option InletCommand
  lastDrum     : Option Nat
  unattributed : Nat
  settleLeft   : Option Nat
  deriving DecidableEq, Repr

/-- The inlet fields after any start, with given bar reasons (R107). -/
def Inlet.start (bars : BarSet) : Inlet :=
  { state := .barred, bars := bars, grant := none, service := none, command := none, lastDrum := none,
    unattributed := 0, settleLeft := none }

/-- A container record: configuration, the Fill Estimator's and Inlet Control's fields, and the Round Planner's two
marks (8.1). -/
structure Container where
  cfg    : ContainerCfg
  fill   : Fill
  inlet  : Inlet
  forced : Bool
  missed : Bool
  deriving DecidableEq, Repr

/-- The container of a not enabled station after a start with a BLANK image, once RUNNING (R69, R107). -/
def Container.blank : Container :=
  { cfg := ContainerCfg.blank, fill := Fill.start none,
    inlet := Inlet.start { BarSet.empty with stationDisabled := true, notSeen := true, notPresent := true },
    forced := false, missed := false }

/-! ### Round Planner (chapter 8) -/

/-- The due classes, most urgent first, which is also code order (8.1). -/
inductive DueClass where
  | overfull
  | full
  | missed
  | forced
  | high
  deriving DecidableEq, Repr

/-- An entry of the due list (8.1). Its assigned round is computed from the rounds (R132). -/
structure DueEntry where
  container : Nat
  cls       : DueClass
  since     : Time
  deriving DecidableEq, Repr

/-- The states of a stop, in code order (8.3); an absent state is none. -/
inductive StopState where
  | pending
  | servicing
  | done
  | skipped
  | missed
  deriving DecidableEq, Repr

/-- The origins of a stop, in code order (8.3). -/
inductive StopOrigin where
  | planned
  | drafted
  | unplanned
  deriving DecidableEq, Repr

/-- A stop of a round (8.3). -/
structure Stop where
  container : Nat
  state     : Option StopState
  origin    : StopOrigin
  doneTime  : Option Time
  deriving DecidableEq, Repr

/-- The round states, in code order (8.3). -/
inductive RoundState where
  | free
  | loaded
  | active
  | closing
  | closed
  deriving DecidableEq, Repr

/-- The round commands, in code order (8.3). -/
inductive RoundCommand where
  | release
  | close
  | abort
  deriving DecidableEq, Repr

/-- The closing causes, in code order (8.3). -/
inductive ClosingCause where
  | close
  | deadline
  deriving DecidableEq, Repr

/-- The configuration of a round apart from its stops (8.3). -/
structure RoundCfg where
  fraction    : Fraction
  crew        : Option Nat
  standing    : Bool
  releaseTime : Nat
  deadlineLen : Nat
  deriving DecidableEq, Repr, Inhabited

/-- A round after a BLANK image (R135). -/
def RoundCfg.blank : RoundCfg :=
  { fraction := .residual, crew := none, standing := false, releaseTime := 0, deadlineLen := 10 }

/-- A round record (8.3). The stops that are configuration are those of origin PLANNED or DRAFTED (R135). -/
structure Round where
  cfg       : RoundCfg
  stops     : List Stop
  state     : RoundState
  requested : Option RoundCommand
  deadline  : Option Time
  closing   : Option ClosingCause
  deriving DecidableEq, Repr

/-- A round after a start with a BLANK image (R135). -/
def Round.blank : Round :=
  { cfg := RoundCfg.blank, stops := [], state := .free, requested := none, deadline := none, closing := none }

/-- The steps of a planner tick, one round after another (R140). -/
inductive TickStage where
  | command (round : Nat)
  | check (round : Nat)
  | closing (round : Nat)
  | standing (round : Nat)
  deriving DecidableEq, Repr

/-- The Round Planner's state apart from the round table: the due list, the previous tick time (R147), and what is left
of a tick that waits for a due deadline or standing release to be taken (log 3). -/
structure Planner where
  due      : List DueEntry
  prevTick : Time
  tickTodo : List TickStage
  deriving DecidableEq, Repr

/-! ### Match Watch (chapter 10) -/

/-- The key kinds, in code order (10.1). -/
inductive KeyKind where
  | cardNumber
  | cardRecord
  | container
  | station
  deriving DecidableEq, Repr

/-- The classes of the kind filter, in bit order (10.1). -/
inductive FilterClass where
  | card
  | deposit
  | sample
  | lift
  | status
  | maint
  | toStation
  deriving DecidableEq, Repr

/-- The watch actions, in code order (10.1). -/
inductive WatchAction where
  | off
  | capture
  | holdAfter
  | holdBefore
  deriving DecidableEq, Repr

/-- The watch states, in code order (10.1). -/
inductive WatchState where
  | off
  | armed
  | held
  deriving DecidableEq, Repr

/-- Whether a parked frame was received or was about to be sent, and then what it was built from (R170). -/
inductive ParkedAs where
  | received
  | toSend (what : Sent)
  deriving DecidableEq, Repr

/-- A parked frame with its reception time and its age in second events (R170, R175, R25). -/
structure Parked where
  station  : Nat
  frame    : Frame
  how      : ParkedAs
  received : Time
  age      : Nat
  deriving DecidableEq, Repr

/-- A pass: the next frame built from this at this station is sent without comparison (R175). -/
structure Pass where
  station : Nat
  what    : Sent
  deriving DecidableEq, Repr

/-- The frame fields and the time of the capture record (R168). -/
structure CapturedFrame where
  kind    : Byte
  tag     : Byte
  src     : Byte
  dst     : Byte
  station : Nat
  length  : Nat
  bytes   : List Byte
  time    : Time
  deriving DecidableEq, Repr

/-- The Match Watch (10.1, R168). -/
structure Watch where
  keyKind     : KeyKind
  keyValue    : Nat
  filter      : BitVec 7
  action      : WatchAction
  state       : WatchState
  held        : Option Nat
  parked      : Option Parked
  timeoutLeft : Option Nat
  stepMark    : Option Nat
  pass        : Option Pass
  captured    : Option CapturedFrame
  matchCount  : Nat
  deriving DecidableEq, Repr

/-- The watch after any start (10.1, R164). -/
def Watch.start : Watch :=
  { keyKind := .station, keyValue := 0, filter := 0#7, action := .off, state := .off, held := none, parked := none,
    timeoutLeft := none, stepMark := none, pass := none, captured := none, matchCount := 0 }

/-! ### The whole part -/

/-- The state of the part. The flash is the stored image area as (address, byte) cells in canonical form
(Machine/Image.lean); draws counts the free values taken (log 7); pending is the queue of commands that wait. -/
structure State where
  power      : Power
  part       : Part
  clock      : Clock
  classes    : Tab NoticeClass
  link       : Endpoint
  lineA      : LineState
  lineB      : LineState
  params     : Params
  stations   : Tab Station
  banks      : Tab Bank
  fractions  : Tab FractionRec
  shapes     : Tab Shape
  containers : Tab Container
  cards      : Tab Card
  households : Tab Household
  rounds     : Tab Round
  journal    : Journal
  planner    : Planner
  watch      : Watch
  flash      : List Host.Cell
  draws      : Nat
  pending    : List Instr
  deriving DecidableEq, Repr

/-- The part right after reset: a cold start with a BLANK image has entered RUNNING and raised RESTARTED (R190), and
nothing else has happened (log 5). Every table is blank: an unlisted record holds its start values. -/
def State.reset : State :=
  { power := { main := true, backup := true, resetAsserted := false, marker := true }
    part := { phase := .running, kind := .cold, cause := .power, image := .blank, strap := false, openMode := false,
              requested := none, saving := false }
    clock := { time := { day := 0, sec := 0 }, set := false, pending := none }
    classes := { entries := [(1, { NoticeClass.blank with flag := true, last := some { subject := some 0, value := 0 } })] }
    link := { Endpoint.empty with
      notices := [{ priority := 1,
                    frame := { dst := 0x7F#8, src := 0x00#8, kind := 0x23#8, tag := 0x00#8,
                               payload := [1#8, 1#8, 4#8, 0#8, 0#8, 0#8, 0#8, 0#8, 0#8, 0#8, 0#8, 0#8] } }] }
    lineA := LineState.start .a
    lineB := LineState.start .b
    params := Params.blank
    stations := { entries := [] }
    banks := { entries := [] }
    fractions := { entries := [] }
    shapes := { entries := [] }
    containers := { entries := [] }
    cards := { entries := [] }
    households := { entries := [] }
    rounds := { entries := [] }
    journal := Journal.empty
    planner := { due := [], prevTick := { day := 0, sec := 0 }, tickTodo := [] }
    watch := Watch.start
    flash := []
    draws := 0
    pending := [] }

end Sys2Proof.Machine
end

