-- ==== Sys2Proof/Machine/Codes.lean ====
section
/-! DEFINITION. How names and numbers are coded in bytes: positions in the manual's lists, sets, high byte first (11.7). -/

namespace Sys2Proof.Machine

/-- The n low bytes of a number, high byte first (11.7). -/
def be : Nat → Nat → List Byte
  | 0, _ => []
  | n + 1, v => BitVec.ofNat 8 (v / 256 ^ n) :: be n v

/-- The number that bytes spell, high byte first (11.7). -/
def ofBe (bytes : List Byte) : Nat := bytes.foldl (fun acc b => acc * 256 + b.toNat) 0

/-- The number in n bytes from an offset of a byte list. -/
def field (bytes : List Byte) (offset n : Nat) : Nat := ofBe ((bytes.drop offset).take n)

/-- The byte at an offset of a byte list. -/
def byteAt (bytes : List Byte) (offset : Nat) : Byte := (bytes[offset]?).getD 0#8

/-- One bit as a number, worth 2 ^ n when set. -/
def bit (b : Bool) (n : Nat) : Nat := if b then 2 ^ n else 0

/-- Yes is 1 and no is 0 (DEDUCED from tipped in 11.7; log 10). -/
def ofYesNo (b : Bool) : Byte := if b then 1#8 else 0#8

/-- A one-byte index, FFh for none (11.7). -/
def index1 (i : Option Nat) : List Byte := be 1 (i.getD 0xFF)

/-- A two-byte index, FFFFh for none (11.7). -/
def index2 (i : Option Nat) : List Byte := be 2 (i.getD 0xFFFF)

/-- A district time in five bytes (11.7). -/
def timeBytes (t : Time) : List Byte := be 2 t.day ++ be 3 t.sec

def Fraction.code : Fraction → Nat
  | .residual => 0
  | .paper => 1
  | .glass => 2
  | .packaging => 3
  | .organic => 4
  | .textile => 5

def Fraction.ofCode : Nat → Option Fraction
  | 0 => some .residual
  | 1 => some .paper
  | 2 => some .glass
  | 3 => some .packaging
  | 4 => some .organic
  | 5 => some .textile
  | _ => none

def CardClass.code : CardClass → Nat
  | .resident => 0
  | .business => 1
  | .crew => 2

def CardClass.ofCode : Nat → Option CardClass
  | 0 => some .resident
  | 1 => some .business
  | 2 => some .crew
  | _ => none

def CardStatus.code : CardStatus → Nat
  | .active => 0
  | .suspended => 1
  | .lost => 2

def CardStatus.ofCode : Nat → Option CardStatus
  | 0 => some .active
  | 1 => some .suspended
  | 2 => some .lost
  | _ => none

/-- The display codes of R111. -/
def DisplayCode.code : DisplayCode → Nat
  | .ready => 0x00
  | .granted => 0x01
  | .serviceGranted => 0x02
  | .closed => 0x03
  | .outOfService => 0x04
  | .servicing => 0x05
  | .inletBusy => 0x06
  | .full => 0x07
  | .bank => 0x08
  | .fraction => 0x09
  | .quota => 0x0A
  | .journalFull => 0x0B
  | .noAccount => 0x0C
  | .stale => 0x0D
  | .noSlot => 0x0E
  | .wrongReader => 0x0F
  | .nullCard => 0x10
  | .foreign => 0x11
  | .unknownCard => 0x12
  | .revoked => 0x13
  | .suspended => 0x14
  | .lostCard => 0x15

def InletAction.code : InletAction → Nat
  | .unlock => 0
  | .lock => 1
  | .serviceUnlock => 2
  | .showCode => 3

def InletState.code : InletState → Nat
  | .locked => 0
  | .opened => 1
  | .service => 2
  | .lifting => 3
  | .settling => 4
  | .barred => 5

/-- The bar set as a byte, member n at bit n (11.7). -/
def BarSet.code (b : BarSet) : Nat :=
  bit b.center 0 + bit b.stationLost 1 + bit b.stationDisabled 2 + bit b.notSeen 3 + bit b.notPresent 4 +
    bit b.liftOpen 5

def FillStatus.code : FillStatus → Nat
  | .unknown => 0
  | .normal => 1
  | .high => 2
  | .fullPending => 3
  | .full => 4
  | .overfull => 5

def SensorState.code : SensorState → Nat
  | .good => 0
  | .degraded => 1
  | .failed => 2

def SampleRequest.code : SampleRequest → Nat
  | .idle => 0
  | .deferred => 1
  | .pending => 2
  | .outstanding _ => 3

def StationState.code : StationState → Nat
  | .unknown => 0
  | .online => 1
  | .silent => 2
  | .lost => 3
  | .disabled => 4

/-- The health flags as bits 0 to 2 (11.7). -/
def Health.code (h : Health) : Nat := bit h.tamper 0 + bit h.flood 1 + bit h.supplyLow 2

def StartCause.code : StartCause → Nat
  | .power => 0
  | .resetPin => 1
  | .restart => 2
  | .tablesClear => 3

def ImageState.code : ImageState → Nat
  | .blank => 0
  | .valid => 1
  | .corrupt => 2

def RecordKind.code : RecordKind → Nat
  | .deposit => 0
  | .lift => 1

def DueClass.code : DueClass → Nat
  | .overfull => 0
  | .full => 1
  | .missed => 2
  | .forced => 3
  | .high => 4

/-- A stop's state; an absent one is 7 (11.7). -/
def StopState.code : Option StopState → Nat
  | some .pending => 0
  | some .servicing => 1
  | some .done => 2
  | some .skipped => 3
  | some .missed => 4
  | none => 7

def StopOrigin.code : StopOrigin → Nat
  | .planned => 0
  | .drafted => 1
  | .unplanned => 2

def RoundState.code : RoundState → Nat
  | .free => 0
  | .loaded => 1
  | .active => 2
  | .closing => 3
  | .closed => 4

/-- A requested command; absent is FFh (DEDUCED; log 22). -/
def RoundCommand.code : Option RoundCommand → Nat
  | some .release => 0
  | some .close => 1
  | some .abort => 2
  | none => 0xFF

/-- A closing cause; absent is FFh (DEDUCED; log 22). -/
def ClosingCause.code : Option ClosingCause → Nat
  | some .close => 0
  | some .deadline => 1
  | none => 0xFF

def KeyKind.code : KeyKind → Nat
  | .cardNumber => 0
  | .cardRecord => 1
  | .container => 2
  | .station => 3

def KeyKind.ofCode : Nat → Option KeyKind
  | 0 => some .cardNumber
  | 1 => some .cardRecord
  | 2 => some .container
  | 3 => some .station
  | _ => none

/-- The bit of a class in the kind filter (10.1, 11.7). -/
def FilterClass.code : FilterClass → Nat
  | .card => 0
  | .deposit => 1
  | .sample => 2
  | .lift => 3
  | .status => 4
  | .maint => 5
  | .toStation => 6

def WatchAction.code : WatchAction → Nat
  | .off => 0
  | .capture => 1
  | .holdAfter => 2
  | .holdBefore => 3

def WatchAction.ofCode : Nat → Option WatchAction
  | 0 => some .off
  | 1 => some .capture
  | 2 => some .holdAfter
  | 3 => some .holdBefore
  | _ => none

def WatchState.code : WatchState → Nat
  | .off => 0
  | .armed => 1
  | .held => 2

/-- The result codes (R179). -/
inductive Result where
  | ok
  | okClamped
  | busy
  | badKind
  | badTable
  | badIndex
  | badLength
  | badValue
  | badState
  | queueFull
  | mismatch
  deriving DecidableEq, Repr

def Result.code : Result → Nat
  | .ok => 0x00
  | .okClamped => 0x01
  | .busy => 0x02
  | .badKind => 0x03
  | .badTable => 0x04
  | .badIndex => 0x05
  | .badLength => 0x06
  | .badValue => 0x07
  | .badState => 0x08
  | .queueFull => 0x09
  | .mismatch => 0x0A

/-- The 24 notice classes (2.5). -/
inductive Notice where
  | restarted
  | imageFault
  | imageSaved
  | imageSaveFailed
  | clockSet
  | periodRollover
  | stationLost
  | stationBack
  | fillHigh
  | fillFull
  | fillOverfull
  | sensorDegraded
  | sensorFailed
  | liftResidue
  | unplannedLift
  | liftTimeout
  | roundClosed
  | stopMissed
  | cardLostSeen
  | drumExtra
  | journalHigh
  | journalFull
  | watchHeld
  | holdTimeout
  deriving DecidableEq, Repr

/-- The class number (2.5). -/
def Notice.number : Notice → Nat
  | .restarted => 1
  | .imageFault => 2
  | .imageSaved => 3
  | .imageSaveFailed => 4
  | .clockSet => 5
  | .periodRollover => 6
  | .stationLost => 7
  | .stationBack => 8
  | .fillHigh => 9
  | .fillFull => 10
  | .fillOverfull => 11
  | .sensorDegraded => 12
  | .sensorFailed => 13
  | .liftResidue => 14
  | .unplannedLift => 15
  | .liftTimeout => 16
  | .roundClosed => 17
  | .stopMissed => 18
  | .cardLostSeen => 19
  | .drumExtra => 20
  | .journalHigh => 21
  | .journalFull => 22
  | .watchHeld => 23
  | .holdTimeout => 24

/-- The KIND byte of each frame (11.7). -/
def kindPoll : Byte := 0x01#8
def kindInletCommand : Byte := 0x02#8
def kindSampleRequest : Byte := 0x03#8
def kindStationCmd : Byte := 0x04#8
def kindAck : Byte := 0x05#8
def kindCardShown : Byte := 0x11#8
def kindDepositDone : Byte := 0x12#8
def kindEchoSample : Byte := 0x13#8
def kindLiftBegun : Byte := 0x14#8
def kindLiftEnded : Byte := 0x15#8
def kindStationStatus : Byte := 0x16#8
def kindStationMaint : Byte := 0x17#8
def kindRequest : Byte := 0x21#8
def kindReply : Byte := 0x22#8
def kindNotice : Byte := 0x23#8
def kindJournalData : Byte := 0x24#8

/-- The center's address (00, Terms: center side). -/
def centerAddress : Byte := 0x7F#8

/-- The part's own address (1.1). -/
def ownAddress : Byte := 0x00#8

/-- The address of a station on its line (1.1). -/
def stationAddress (i : Nat) : Byte := if i < 16 then BitVec.ofNat 8 (i + 1) else BitVec.ofNat 8 (i - 16 + 0x21)

/-- The station index of a drop address (1.1). -/
def stationOfAddress (a : Byte) : Option Nat :=
  if 0x01 ≤ a.toNat ∧ a.toNat ≤ 0x10 then some (a.toNat - 0x01)
  else if 0x21 ≤ a.toNat ∧ a.toNat ≤ 0x30 then some (a.toNat - 0x21 + 16)
  else none

end Sys2Proof.Machine
end

