-- ==== Sys2Proof/Machine/Tab.lean ====
section
/-! DEFINITION. Sparse tables: reading, writing and mapping records by index, in one canonical form. -/

namespace Sys2Proof.Machine

/-- The record listed for an index, if any. -/
def Tab.find {α : Type} : List (Nat × α) → Nat → Option α
  | [], _ => none
  | (j, w) :: rest, k => if j = k then some w else Tab.find rest k

/-- The record of an index; an unlisted index holds d. -/
def Tab.get {α : Type} (d : α) (t : Tab α) (k : Nat) : α := (Tab.find t.entries k).getD d

/-- The entries without those of an index. -/
def Tab.without {α : Type} : List (Nat × α) → Nat → List (Nat × α)
  | [], _ => []
  | (j, w) :: rest, k => if j = k then Tab.without rest k else (j, w) :: Tab.without rest k

/-- The entries with one put in ahead of the first higher index. -/
def Tab.insert {α : Type} : List (Nat × α) → Nat → α → List (Nat × α)
  | [], k, v => [(k, v)]
  | (j, w) :: rest, k, v => if k < j then (k, v) :: (j, w) :: rest else (j, w) :: Tab.insert rest k v

/-- The table with the record of an index replaced; the record d is not listed. -/
def Tab.set {α : Type} [DecidableEq α] (d : α) (t : Tab α) (k : Nat) (v : α) : Tab α :=
  { entries := if v = d then Tab.without t.entries k else Tab.insert (Tab.without t.entries k) k v }

/-- The entries that list the records of f other than d. -/
def Tab.keep {α : Type} [DecidableEq α] (d : α) (f : Nat → α) : List Nat → List (Nat × α)
  | [] => []
  | k :: ks => if f k = d then Tab.keep d f ks else (k, f k) :: Tab.keep d f ks

/-- The table of the records f 0, ..., f (n - 1), every other index holding d. -/
def Tab.ofFn {α : Type} [DecidableEq α] (d : α) (n : Nat) (f : Nat → α) : Tab α :=
  { entries := Tab.keep d f (List.range n) }

/-- The entries with f applied to each record; f k d is d for every k. -/
def Tab.mapList {α : Type} [DecidableEq α] (d : α) (f : Nat → α → α) : List (Nat × α) → List (Nat × α)
  | [] => []
  | (k, v) :: rest =>
    if f k v = d then Tab.mapList d f rest else (k, f k v) :: Tab.mapList d f rest

/-- The table with f applied to each record; f k d is d for every k. -/
def Tab.map {α : Type} [DecidableEq α] (d : α) (f : Nat → α → α) (t : Tab α) : Tab α :=
  { entries := Tab.mapList d f t.entries }

/-- Indices rise strictly, from a lower bound on, and no entry is d. -/
def Tab.wfFrom {α : Type} [DecidableEq α] (d : α) : Nat → List (Nat × α) → Bool
  | _, [] => true
  | lo, (k, v) :: rest => decide (lo ≤ k) && decide (v ≠ d) && Tab.wfFrom d (k + 1) rest

/-- The canonical form of a table. -/
def Tab.wf {α : Type} [DecidableEq α] (d : α) (t : Tab α) : Bool := Tab.wfFrom d 0 t.entries

end Sys2Proof.Machine
end

