-- ==== Sys2Proof/Machine/Ops.lean ====
section
/-! DEFINITION. The named operations over the registers, tables and counts of the part, shared by the meanings. -/

namespace Sys2Proof.Machine

/-! ### Places -/

/-- The container index of a slot 1-4 of a station (00, Terms). -/
def containerOf (station slot : Nat) : Nat := station * 4 + (slot - 1)

/-- The station that owns a container (1.1). -/
def stationOf (container : Nat) : Nat := container / 4

/-- The slot 1-4 of a container. -/
def slotOf (container : Nat) : Nat := container % 4 + 1

/-- The four containers of a station, in slot order. -/
def containersOf (station : Nat) : List Nat := [station * 4, station * 4 + 1, station * 4 + 2, station * 4 + 3]

/-- The line of a station (1.1). -/
def lineOf (station : Nat) : Line := if station < 16 then .a else .b

/-! ### Records by index -/

/-- The record of a container. -/
def State.container (s : State) (c : Nat) : Container := Tab.get Container.blank s.containers c

/-- The state with a container's record changed. -/
def State.updContainer (s : State) (c : Nat) (f : Container → Container) : State :=
  { s with containers := Tab.set Container.blank s.containers c (f (s.container c)) }

/-- The state with a container's fill fields changed. -/
def State.updFill (s : State) (c : Nat) (f : Fill → Fill) : State :=
  s.updContainer c (fun k => { k with fill := f k.fill })

/-- The state with a container's inlet fields changed. -/
def State.updInlet (s : State) (c : Nat) (f : Inlet → Inlet) : State :=
  s.updContainer c (fun k => { k with inlet := f k.inlet })

/-- The record of a station. -/
def State.station (s : State) (i : Nat) : Station := Tab.get Station.blank s.stations i

/-- The state with a station's record changed. -/
def State.updStation (s : State) (i : Nat) (f : Station → Station) : State :=
  { s with stations := Tab.set Station.blank s.stations i (f (s.station i)) }

/-- The record of a card. -/
def State.card (s : State) (i : Nat) : Card := Tab.get Card.blank s.cards i

/-- The state with a card's record changed. -/
def State.updCard (s : State) (i : Nat) (f : Card → Card) : State :=
  { s with cards := Tab.set Card.blank s.cards i (f (s.card i)) }

/-- The record of a household. -/
def State.household (s : State) (h : Nat) : Household := Tab.get Household.blank s.households h

/-- The state with a household's record changed. -/
def State.updHousehold (s : State) (h : Nat) (f : Household → Household) : State :=
  { s with households := Tab.set Household.blank s.households h (f (s.household h)) }

/-- The record of a round. -/
def State.round (s : State) (r : Nat) : Round := Tab.get Round.blank s.rounds r

/-- The state with a round's record changed. -/
def State.updRound (s : State) (r : Nat) (f : Round → Round) : State :=
  { s with rounds := Tab.set Round.blank s.rounds r (f (s.round r)) }

/-- The record of a bank. -/
def State.bank (s : State) (i : Nat) : Bank := Tab.get Bank.blank s.banks i

/-- The record of a fraction. -/
def State.fraction (s : State) (f : Fraction) : FractionRec := Tab.get FractionRec.blank s.fractions f.code

/-- The record of a shape. -/
def State.shape (s : State) (i : Nat) : Shape := Tab.get Shape.blank s.shapes i

/-- What the endpoint keeps for a notice class. -/
def State.noticeClass (s : State) (n : Nat) : NoticeClass := Tab.get NoticeClass.blank s.classes n

/-- The state with a notice class changed. -/
def State.updClass (s : State) (n : Nat) (f : NoticeClass → NoticeClass) : State :=
  { s with classes := Tab.set NoticeClass.blank s.classes n (f (s.noticeClass n)) }

/-- The state of a line's controller. -/
def State.line (s : State) : Line → LineState
  | .a => s.lineA
  | .b => s.lineB

/-- The state with a line's controller changed. -/
def State.updLine (s : State) (l : Line) (f : LineState → LineState) : State :=
  match l with
  | .a => { s with lineA := f s.lineA }
  | .b => { s with lineB := f s.lineB }

/-- The state with the round planner's own fields changed. -/
def State.updPlanner (s : State) (f : Planner → Planner) : State := { s with planner := f s.planner }

/-- The state with the watch changed. -/
def State.updWatch (s : State) (f : Watch → Watch) : State := { s with watch := f s.watch }

/-- The state with the endpoint's queues changed. -/
def State.updLink (s : State) (f : Endpoint → Endpoint) : State := { s with link := f s.link }

/-- The state with the part's own fields changed. -/
def State.updPart (s : State) (f : Part → Part) : State := { s with part := f s.part }

/-- The part is RUNNING. -/
def State.running (s : State) : Bool := s.part.phase == .running

/-- The container is present. -/
def State.present (s : State) (c : Nat) : Bool := (s.container c).cfg.present

/-! ### A number for each fraction -/

/-- The number for one fraction. -/
def PerFraction.get (p : PerFraction) : Fraction → Nat
  | .residual => p.residual
  | .paper => p.paper
  | .glass => p.glass
  | .packaging => p.packaging
  | .organic => p.organic
  | .textile => p.textile

/-- The numbers with the one of a fraction replaced. -/
def PerFraction.set (p : PerFraction) (f : Fraction) (n : Nat) : PerFraction :=
  match f with
  | .residual => { p with residual := n }
  | .paper => { p with paper := n }
  | .glass => { p with glass := n }
  | .packaging => { p with packaging := n }
  | .organic => { p with organic := n }
  | .textile => { p with textile := n }

/-- The six numbers in fraction order. -/
def PerFraction.toList (p : PerFraction) : List Nat :=
  [p.residual, p.paper, p.glass, p.packaging, p.organic, p.textile]

/-! ### District time (R21, R26, R27) -/

/-- Order of district times: by day, then by second (R26). -/
def Time.before (t u : Time) : Bool := decide (t.day < u.day) || (decide (t.day = u.day) && decide (t.sec < u.sec))

/-- An absolute time is reached when now is equal to it or later (R26). -/
def Time.reached (t now : Time) : Bool := !(now.before t)

/-- The time one second later, wrapping days and the day number (R21). -/
def Time.next (t : Time) : Time :=
  if t.sec < 86399 then { day := t.day, sec := t.sec + 1 }
  else if t.day < 65535 then { day := t.day + 1, sec := 0 }
  else { day := 0, sec := 0 }

/-- A time plus minutes, carried into the day number and capped at the last second of day 65535 (R26). -/
def Time.plusMinutes (t : Time) (minutes : Nat) : Time :=
  let total := t.day * 86400 + t.sec + minutes * 60
  if 65535 * 86400 + 86399 < total then { day := 65535, sec := 86399 }
  else { day := total / 86400, sec := total % 86400 }

/-- The current district time. -/
def State.now (s : State) : Time := s.clock.time

/-- The quota period number p (R27). -/
def State.period (s : State) : Nat :=
  if !s.clock.set then 0
  else if s.params.anchorDay ≤ s.clock.time.day then (s.clock.time.day - s.params.anchorDay) / s.params.periodLength
  else 0

/-! ### Household counts (R52 to R56) -/

/-- The lazy period reset of a household for the period p (R52). -/
def Household.lazyReset (h : Household) (p : Nat) : Household :=
  if h.epoch = some p then h else { h with used := PerFraction.zero, epoch := some p }

/-- The lazy period reset (R52). -/
def State.lazyReset (s : State) (h : Nat) : State := s.updHousehold h (fun r => r.lazyReset s.period)

/-- The quota check on the counts as they stand after the reset (R53). -/
def Household.quotaPasses (h : Household) (f : Fraction) : Bool :=
  decide (h.cfg.allowance.get f = 255) || decide (h.used.get f + h.held.get f < h.cfg.allowance.get f)

/-- The remaining allowance (R53). -/
def Household.remaining (h : Household) (f : Fraction) : Nat :=
  if h.cfg.allowance.get f = 255 then 255 else h.cfg.allowance.get f - (h.used.get f + h.held.get f)

/-- One more grant held (R54). -/
def Household.hold (h : Household) (f : Fraction) : Household := { h with held := h.held.set f (h.held.get f + 1) }

/-- One grant held less (R55, R56). -/
def Household.unhold (h : Household) (f : Fraction) : Household := { h with held := h.held.set f (h.held.get f - 1) }

/-- The household, if any, holds one grant less (R56); household none holds nothing. -/
def State.unhold (s : State) (h : Option Nat) (f : Fraction) : State :=
  match h with
  | some i => s.updHousehold i (fun r => r.unhold f)
  | none => s

/-- A deposit closing a grant of the period p, at current period now: the reset, one hold less, and one more use when
the household's epoch equals the grant's period (R55). -/
def Household.countDeposit (h : Household) (f : Fraction) (now p : Nat) : Household :=
  let r := (h.lazyReset now).unhold f
  if r.epoch = some p then { r with used := r.used.set f (min 255 (r.used.get f + 1)) } else r

/-! ### The Deposit Journal (R58 to R66) -/

/-- The state with the journal changed. -/
def State.updJournal (s : State) (f : Journal → Journal) : State := { s with journal := f s.journal }

/-- Records plus reservations. -/
def Journal.places (j : Journal) : Nat := j.records.length + j.reserved

/-- One place set aside (R60). -/
def Journal.reserve (j : Journal) : Journal := { j with reserved := j.reserved + 1 }

/-- One reservation released (R64). -/
def Journal.unreserve (j : Journal) : Journal := { j with reserved := j.reserved - 1 }

/-- A record written at the tail with the next serial (R59). The serial of the record given is ignored. -/
def Journal.append (j : Journal) (r : JournalRecord) : Journal :=
  { j with records := j.records ++ [{ r with serial := j.serial }], serial := (j.serial + 1) % 65536 }

/-- The serial of the oldest record, absent when the journal is empty (R65). -/
def Journal.oldest (j : Journal) : Option Nat := j.records.head?.map JournalRecord.serial

/-- A reservation, if there was one, is released (R64). -/
def State.unreserveIf (s : State) (reserved : Bool) : State := if reserved then s.updJournal Journal.unreserve else s

end Sys2Proof.Machine
end

