-- ==== Sys2Proof/Machine/Flags.lean ====
section
/-! DEFINITION. The notice flags: what a raise does (R29, R30), and the flag and mark sets that requests read and clear. -/

namespace Sys2Proof.Machine

/-- The NOTICE frame of a raise (R30, 11.7). A subject of none is sent as 0000h with its flag clear (log 26). -/
def noticeFrame (n : Notice) (c : NoticeClass) (r : Raise) (clockSet : Bool) (t : Time) : Frame :=
  { dst := centerAddress, src := ownAddress, kind := kindNotice, tag := 0#8
    payload := be 1 n.number ++ be 1 c.priority ++
      be 1 (bit clockSet 0 + bit c.overrun 1 + bit r.subject.isSome 2) ++
      be 2 (r.subject.getD 0) ++ be 2 r.value ++ timeBytes t }

/-- The class after a raise that finds the notice queue holding n frames: the flag is set, the last raise replaced, and
the overrun mark set when a class of priority 1-3 finds 16 frames (R29). -/
def NoticeClass.raised (c : NoticeClass) (r : Raise) (n : Nat) : NoticeClass :=
  { c with flag := true, last := some r, overrun := c.overrun || (decide (c.priority ≠ 0) && decide (16 ≤ n)) }

/-- A raise of a class with a subject (or none) and a value (R29). -/
def State.raise (s : State) (n : Notice) (subject : Option Nat) (value : Nat) : State :=
  let old := s.noticeClass n.number
  let r : Raise := { subject := subject, value := value }
  let s' := s.updClass n.number (fun c => c.raised r s.link.notices.length)
  if old.priority = 0 then s'
  else if s.link.notices.length < 16 then
    s'.updLink (fun e => { e with notices := e.notices ++
      [{ priority := old.priority, frame := noticeFrame n (old.raised r s.link.notices.length) r s.clock.set s.now }] })
  else s'

/-- The set of the classes 1-24 that satisfy p, class n at bit n (11.7). -/
def classSet (p : Nat → Bool) : Nat := (List.range 24).foldl (fun acc k => acc + bit (p (k + 1)) (k + 1)) 0

/-- Whether class n is in a class set. -/
def inClassSet (set n : Nat) : Bool := decide (set / 2 ^ n % 2 = 1)

/-- Flag and overrun mark cleared; the last raise stays (R33). -/
def NoticeClass.cleared (c : NoticeClass) : NoticeClass := { c with flag := false, overrun := false }

/-- The flags and marks of the classes of a set are cleared (R33). -/
def State.clearFlags (s : State) (set : Nat) : State :=
  { s with classes := Tab.map NoticeClass.blank (fun n c => if inClassSet set n then c.cleared else c) s.classes }

/-- A change of the quota period number from an old value raises PERIOD_ROLLOVER (R27). -/
def State.rollover (s : State) (old : Nat) : State :=
  if s.period = old then s else s.raise .periodRollover (some s.period) old

/-- A record is written at the journal's tail; the write that brings the records from 767 to 768 raises JOURNAL_HIGH
(R59). -/
def State.writeRecord (s : State) (r : JournalRecord) : State :=
  let s' := s.updJournal (fun j => j.append r)
  if s.journal.records.length = 767 then s'.raise .journalHigh none 768 else s'

/-- A reservation becomes a record (R64). -/
def State.writeReserved (s : State) (r : JournalRecord) : State := (s.updJournal Journal.unreserve).writeRecord r

end Sys2Proof.Machine
end

