-- ==== Sys2Proof/Machine/Due.lean ====
section
/-! DEFINITION. The due list, the two marks, and what happens to the stops of the rounds (chapter 8). -/

namespace Sys2Proof.Machine

/-! ### The due list (R129 to R132) -/

/-- The most urgent class that applies to a container, none when it is no member (R130). -/
def Container.dueClass (k : Container) : Option DueClass :=
  if !k.cfg.present then none
  else if k.fill.status = .overfull then some .overfull
  else if k.fill.status = .full then some .full
  else if k.missed then some .missed
  else if k.forced then some .forced
  else if k.fill.status = .high ∨ k.fill.status = .fullPending then some .high
  else none

/-- Whether an entry stands ahead of another: by class, then since, then container index (R131). -/
def DueEntry.ahead (a b : DueEntry) : Bool :=
  decide (a.cls.code < b.cls.code) ||
    (decide (a.cls.code = b.cls.code) &&
      (a.since.before b.since || (decide (a.since = b.since) && decide (a.container < b.container))))

/-- The list with an entry put in its place (R131). -/
def insertDue (e : DueEntry) : List DueEntry → List DueEntry
  | [] => [e]
  | x :: rest => if e.ahead x then e :: x :: rest else x :: insertDue e rest

/-- A container's entry (R129). -/
def dueEntry (due : List DueEntry) (c : Nat) : Option DueEntry := due.find? (fun e => e.container == c)

/-- The list re-derived for a container whose class is given: it joins with since now, keeps its entry and takes the
class, or loses its entry (R130). -/
def rederiveDue (due : List DueEntry) (c : Nat) (cls : Option DueClass) (now : Time) : List DueEntry :=
  let rest := due.filter (fun e => !(e.container == c))
  match cls with
  | none => rest
  | some k =>
    let since := match dueEntry due c with
      | some e => e.since
      | none => now
    insertDue { container := c, cls := k, since := since } rest

/-- The Round Planner re-derives a container's membership and class (R130). -/
def State.rederive (s : State) (c : Nat) : State :=
  s.updPlanner (fun p => { p with due := rederiveDue p.due c (s.container c).dueClass s.now })

/-- The place of a container in the list, 1 for the head (8.1). -/
def duePlace : List DueEntry → Nat → Nat → Option Nat
  | [], _, _ => none
  | e :: rest, c, n => if e.container = c then some n else duePlace rest c (n + 1)

/-- The forced mark set or cleared, with membership following (R133). -/
def State.setForced (s : State) (c : Nat) (b : Bool) : State :=
  (s.updContainer c (fun k => { k with forced := b })).rederive c

/-- The missed mark is set, with membership following (R134). -/
def State.setMissed (s : State) (c : Nat) : State := (s.updContainer c (fun k => { k with missed := true })).rederive c

/-- Both marks are cleared, with membership following (R134, R157). -/
def State.clearMarks (s : State) (c : Nat) : State :=
  (s.updContainer c (fun k => { k with forced := false, missed := false })).rederive c

/-! ### Stops -/

/-- The four rounds. -/
def rounds4 : List Nat := [0, 1, 2, 3]

/-- The stop is PENDING. -/
def Stop.isPending (p : Stop) : Bool := p.state == some .pending

/-- The stop is SERVICING. -/
def Stop.isServicing (p : Stop) : Bool := p.state == some .servicing

/-- The stop is PENDING or SERVICING. -/
def Stop.isOpen (p : Stop) : Bool := p.isPending || p.isServicing

/-- The round holds a stop for a container that satisfies q. -/
def Round.holds (d : Round) (c : Nat) (q : Stop → Bool) : Bool := d.stops.any (fun p => p.container == c && q p)

/-- The round to which a container's due entry is assigned (R132): the ACTIVE round that holds a PENDING or SERVICING stop
for it. -/
def State.assignedRound (s : State) (c : Nat) : Option Nat :=
  rounds4.find? (fun r => (s.round r).state == .active && (s.round r).holds c Stop.isOpen)

/-- The stops with the one at a place changed. -/
def modifyStop (f : Stop → Stop) : List Stop → Nat → List Stop
  | [], _ => []
  | p :: rest, 0 => f p :: rest
  | p :: rest, n + 1 => p :: modifyStop f rest n

/-- The state of a stop of a round becomes the given one. -/
def State.setStop (s : State) (r i : Nat) (st : StopState) : State :=
  s.updRound r (fun d => { d with stops := modifyStop (fun p => { p with state := some st }) d.stops i })

/-- A stop of a round becomes DONE now (R157). -/
def State.doneStop (s : State) (r i : Nat) : State :=
  s.updRound r (fun d =>
    { d with stops := modifyStop (fun p => { p with state := some .done, doneTime := some s.now }) d.stops i })

/-- A stop becomes MISSED: the missed mark of its container is set and STOP_MISSED raised (R134, R145, R146). -/
def State.reportMissed (s : State) (r c : Nat) : State := (s.setMissed c).raise .stopMissed (some c) r

/-- What ends the work at a stop without a tip (R146). -/
inductive WorkEnd where
  | untipped
  | absent
  deriving DecidableEq, Repr

/-- The stop of a service that ends without a tip. In an ACTIVE round it becomes PENDING, and then SKIPPED when present
was cleared (R154, R158, R159, R162). In a CLOSING round it becomes SKIPPED, or MISSED when the closing cause is DEADLINE
and present was not cleared (R146). -/
def State.returnStop (s : State) (c : Nat) (place : Option (Nat × Nat)) (why : WorkEnd) : State :=
  match place with
  | none => s
  | some (r, i) =>
    match (s.round r).state with
    | .active => s.setStop r i (if why = .absent then .skipped else .pending)
    | .closing =>
      if why = .untipped ∧ (s.round r).closing = some .deadline then (s.setStop r i .missed).reportMissed r c
      else s.setStop r i .skipped
    | _ => s

/-- The place of the first stop of a list for a container that satisfies q. -/
def stopPlace (c : Nat) (q : Stop → Bool) : List Stop → Nat → Option Nat
  | [], _ => none
  | p :: rest, n => if p.container = c ∧ q p then some n else stopPlace c q rest (n + 1)

/-- The first ACTIVE round, of those that satisfy ok, with a PENDING stop for a container, and the stop's place. -/
def State.pendingStop (s : State) (c : Nat) (ok : Round → Bool) : Option (Nat × Nat) :=
  rounds4.findSome? (fun r =>
    if (s.round r).state = .active ∧ ok (s.round r) then
      (stopPlace c Stop.isPending (s.round r).stops 0).map (fun i => (r, i))
    else none)

/-- The stop that a tipped lift completes becomes DONE: the record's own, or else a PENDING stop of the container in an
ACTIVE round (R157, R160). -/
def State.completeStop (s : State) (c : Nat) (place : Option (Nat × Nat)) : State :=
  match place with
  | some (r, i) =>
    if (s.round r).state = .active ∨ (s.round r).state = .closing then s.doneStop r i else s
  | none =>
    match s.pendingStop c (fun _ => true) with
    | some (r, i) => s.doneStop r i
    | none => s

/-- The round's stops with every PENDING stop of a container made SKIPPED (R134, R137). -/
def Round.skipPendingOf (d : Round) (c : Nat) : Round :=
  { d with stops := d.stops.map (fun p => if p.container = c ∧ p.isPending then { p with state := some .skipped } else p) }

/-- Every PENDING stop of a container, in any round, becomes SKIPPED (R134, R137). -/
def State.skipPendingOf (s : State) (c : Nat) : State :=
  { s with rounds := Tab.map Round.blank (fun _ d => d.skipPendingOf c) s.rounds }

/-- The place a service record names (9.1). -/
def Service.place (v : Service) : Option (Nat × Nat) :=
  match v.round, v.stop with
  | some r, some i => some (r, i)
  | _, _ => none

end Sys2Proof.Machine
end

