-- ==== Sys2Proof/Machine/Fill.lean ====
section
/-! DEFINITION. The Fill Estimator: sample requests, evaluation, sensor health and the fill computation (chapters 5, 6). -/

namespace Sys2Proof.Machine

/-! ### Sample requests (R85 to R90) -/

/-- The inlet states that defer sample requests (R88). -/
def InletState.defers : InletState → Bool
  | .opened => true
  | .settling => true
  | _ => false

/-- The request of a container that holds one already, or takes a new one: from IDLE it becomes PENDING, or DEFERRED while
the inlet is OPEN or SETTLING (R85). -/
def SampleRequest.due (q : SampleRequest) (inlet : InletState) : SampleRequest :=
  match q with
  | .idle => if inlet.defers then .deferred else .pending
  | other => other

/-- A sample request falls due; it is dropped at a container that is not present or whose sensor is FAILED (R85). -/
def State.requestDue (s : State) (c : Nat) : State :=
  let k := s.container c
  if !k.cfg.present ∨ k.fill.sensor = .failed then s
  else s.updFill c (fun f => { f with request := f.request.due k.inlet.state })

/-- The request after an inlet state report: OPEN and SETTLING defer a PENDING request, and leaving them makes a DEFERRED
one PENDING (R88). -/
def SampleRequest.report (q : SampleRequest) (old new : InletState) : SampleRequest :=
  match q with
  | .pending => if new.defers then .deferred else .pending
  | .deferred => if old.defers && !new.defers then .pending else .deferred
  | other => other

/-- The end of an OUTSTANDING request whose sample was acted on: IDLE, or DEFERRED when the sample is discarded because the
inlet is OPEN or SETTLING, at a present container whose sensor is not FAILED (R70, R89). -/
def SampleRequest.answered (q : SampleRequest) (present : Bool) (sensor : SensorState) (inlet : InletState) :
    SampleRequest :=
  match q with
  | .outstanding _ => if present && decide (sensor ≠ .failed) && inlet.defers then .deferred else .idle
  | other => other

/-- The end of an OUTSTANDING request whose station became LOST or DISABLED (R89). -/
def SampleRequest.stationGone (q : SampleRequest) (present : Bool) (sensor : SensorState) : SampleRequest :=
  match q with
  | .outstanding _ => if present && decide (sensor ≠ .failed) then .pending else .idle
  | other => other

/-- The OUTSTANDING requests of a station that became LOST or DISABLED end (R89). -/
def State.endOutstanding (s : State) (station : Nat) : State :=
  (containersOf station).foldl (fun t c =>
    t.updContainer c (fun k =>
      { k with fill := { k.fill with request := k.fill.request.stationGone k.cfg.present k.fill.sensor } })) s

/-- The acknowledged request is OUTSTANDING with age 0, whatever state it held (R89). -/
def State.acknowledgeSample (s : State) (c : Nat) : State := s.updFill c (fun f => { f with request := .outstanding 0 })

/-! ### Fill per mille and evaluation (R82, R92 to R97) -/

/-- The cap of the estimate (R81). -/
def ContainerCfg.cap (g : ContainerCfg) : Nat := g.capacity * 5 / 4

/-- The fill per mille of a known estimate (R82). -/
def ContainerCfg.perMille (g : ContainerCfg) (e : Nat) : Nat := e * 1000 / g.capacity

/-- HIGH or NORMAL, with the alert level's hysteresis of 50 per mille (R93, R95, R96). -/
def highOrNormal (F alert : Nat) : FillStatus := if alert ≤ F + 50 then .high else .normal

/-- The status and full-pending count after an evaluation that finds F per mille, in the order overfull, full, alert
band (R93 to R96). -/
def evaluated (old : FillStatus) (count F alert full confirm : Nat) : FillStatus × Nat :=
  if 1100 ≤ F then (.overfull, 0)
  else match old with
    | .overfull =>
      if 1050 ≤ F then (.overfull, 0)
      else if full ≤ F + 50 then (.full, 0)
      else (highOrNormal F alert, 0)
    | .full =>
      if full ≤ F + 50 then (.full, 0) else (highOrNormal F alert, 0)
    | .fullPending =>
      if full ≤ F then (if confirm ≤ count + 1 then (.full, 0) else (.fullPending, count + 1))
      else (highOrNormal F alert, 0)
    | .high =>
      if full ≤ F then (if confirm = 1 then (.full, 0) else (.fullPending, 1))
      else (highOrNormal F alert, 0)
    | _ =>
      if full ≤ F then (if confirm = 1 then (.full, 0) else (.fullPending, 1))
      else if alert ≤ F then (.high, 0)
      else (.normal, 0)

/-- The notice of a change of status made by evaluation (R97). -/
def fillNotice (old new : FillStatus) : Option Notice :=
  match new with
  | .overfull => if old = .overfull then none else some .fillOverfull
  | .full => if old = .full ∨ old = .overfull then none else some .fillFull
  | .fullPending => if old = .unknown ∨ old = .normal then some .fillHigh else none
  | .high => if old = .unknown ∨ old = .normal then some .fillHigh else none
  | _ => none

/-- The status and full-pending count are set, and a change of status is handed to the Round Planner (R92, R98). -/
def State.setStatus (s : State) (c : Nat) (st : FillStatus) (count : Nat) : State :=
  let s' := s.updFill c (fun f => { f with status := st, fullCount := count })
  if (s.container c).fill.status = st then s' else s'.rederive c

/-- A raise, if there is one. -/
def State.raiseIf (s : State) (n : Option Notice) (subject : Option Nat) (value : Nat) : State :=
  match n with
  | some k => s.raise k subject value
  | none => s

/-- Evaluation (R92, R97). -/
def State.evaluate (s : State) (c : Nat) : State :=
  let k := s.container c
  match k.fill.estimate with
  | none => s.setStatus c .unknown 0
  | some e =>
    let F := k.cfg.perMille e
    let r := evaluated k.fill.status k.fill.fullCount F k.cfg.alertLevel k.cfg.fullLevel k.cfg.confirmCount
    (s.setStatus c r.1 r.2).raiseIf (fillNotice k.fill.status r.1) (some c) F

/-- E becomes unknown: the rise-pending flag is cleared, the status becomes UNKNOWN and a sample request falls due (R82,
R90; log 20). -/
def State.makeUnknown (s : State) (c : Nat) : State :=
  ((s.updFill c (fun f => { f with estimate := none, risePending := false })).evaluate c).requestDue c

/-- The Fill Estimator is told of a tipped lift (R82, R90, R98). -/
def State.tippedFill (s : State) (c : Nat) : State :=
  ((s.updFill c (fun f =>
      { f with estimate := some 0, risePending := false, postLift := true, deposits := 0 })).setStatus c .normal 0).requestDue c

/-! ### Deposits (R81, R87) -/

/-- The extra-sample test (R87). -/
def extraSample (K before after : Nat) : Bool := decide (1 ≤ K) && decide (before / K < after / K)

/-- Inlet Control reports n turns of the drum (R81). -/
def State.reportTurns (s : State) (c n : Nat) : State :=
  let k := s.container c
  if !k.cfg.present then s
  else
    let after := min 65535 (k.fill.deposits + n)
    let s1 := s.updFill c (fun f => { f with deposits := after })
    let s2 := match k.fill.estimate with
      | none => s1
      | some e =>
        (s1.updFill c (fun f =>
          { f with estimate := some (min (e + n * (s.fraction k.cfg.fraction).nominal) k.cfg.cap) })).evaluate c
    if extraSample k.cfg.extraEvery k.fill.deposits after then s2.requestDue c else s2

/-! ### Sensor health (R101 to R105) -/

/-- One invalid sample is counted (R102). -/
def State.invalidSample (s : State) (c : Nat) : State :=
  let k := s.container c
  let streak := min 255 (k.fill.streak + 1)
  if k.fill.sensor = .good ∧ s.params.invalidLimit ≤ streak then
    (s.updFill c (fun f => { f with streak := streak, sensor := .degraded })).raise .sensorDegraded (some c) streak
  else s.updFill c (fun f => { f with streak := streak })

/-- The stuck test passes (R103). -/
def Fill.stuckTest (f : Fill) (tof : Nat) : Bool := decide (f.lastTof = some tof) && decide (2 ≤ f.deposits)

/-- At the moment the sensor becomes FAILED, a DEFERRED or PENDING request becomes IDLE (R90). -/
def SampleRequest.withdrawn : SampleRequest → SampleRequest
  | .deferred => .idle
  | .pending => .idle
  | other => other

/-! ### The fill computation (R72 to R79) -/

/-- Stage 2: the distance in millimetres from time of flight and temperature (R72). -/
def distance (tof : Nat) (temperature : Int) : Nat :=
  let t := max (-40) (min 60 temperature)
  (tof * (3313 + 6 * t).toNat + 10000) / 20000

/-- Stage 3: the level in millimetres and whether the sample is saturated (R73). -/
def level (d height deadZone : Nat) : Nat × Bool :=
  if d < deadZone then (height - deadZone, true) else (height - d, false)

/-- A point of a shape. -/
def Shape.point (p : Shape) (k : Nat) : Nat := (p.points[k]?).getD 0

/-- Stage 4: the measured volume per mille of a level (R74). -/
def volumePerMille (p : Shape) (lvl height : Nat) : Nat :=
  let x := lvl * 8
  let k := min 7 (x / height)
  let r := x - k * height
  p.point k + (p.point (k + 1) - p.point k) * r / height

/-- What a valid sample measures: per mille, litres, and whether it is saturated (stages 2 to 4). -/
structure Measured where
  perMille  : Nat
  volume    : Nat
  saturated : Bool
  deriving DecidableEq, Repr

/-- Stages 2 to 4 (R72 to R74). -/
def measure (g : ContainerCfg) (p : Shape) (tof : Nat) (temperature : Int) : Measured :=
  let lv := level (distance tof temperature) g.height g.deadZone
  let pm := volumePerMille p lv.1 g.height
  { perMille := pm, volume := pm * g.capacity / 1000, saturated := lv.2 }

/-- Stage 5: the estimate and the rise-pending flag after a measurement (R75 to R79). -/
def fuse (g : ContainerCfg) (f : Fill) (m : Measured) : Nat × Bool :=
  match f.estimate with
  | none => (m.volume, false)
  | some e =>
    if f.postLift then (m.volume, false)
    else if m.saturated then (max e m.volume, f.risePending)
    else if m.volume ≤ e + g.tolerance ∧ e ≤ m.volume + g.tolerance then
      ((e * (8 - g.weight) + m.volume * g.weight + 4) / 8, false)
    else if e + g.tolerance < m.volume then
      (if f.risePending then (m.volume, false) else (e, true))
    else (max m.volume (e - g.sinkStep), false)

/-- A valid sample that reached stage 5 (R75 to R80): the estimate, LIFT_RESIDUE under the post-lift check, the updates of
R80 and the evaluation. The countdown is reloaded as it stands, also one that has reached 0 and whose expiry no step has taken
yet, so that its request does not fall due: the model's choice (log 39). -/
def State.fuseSample (s : State) (c tof : Nat) (temperature : Int) : State :=
  let k := s.container c
  let m := measure k.cfg (s.shape k.cfg.shape) tof temperature
  let r := fuse k.cfg k.fill m
  let s1 := s.updFill c (fun f => { f with estimate := some r.1, risePending := r.2, postLift := false })
  let s2 := if k.fill.postLift ∧ k.cfg.residueLimit < m.perMille then
      s1.raise .liftResidue (some c) m.perMille
    else s1
  (s2.updFill c (fun f =>
    { f with lastTof := some tof, deposits := 0, countdown := some k.cfg.sampleInterval })).evaluate c

/-- A valid sample (R71, R103): the stuck test, then, unless the sensor has become FAILED, stages 2 to 5. -/
def State.validSample (s : State) (c tof : Nat) (temperature : Int) : State :=
  let k := s.container c
  let evidence := if k.fill.stuckTest tof then k.fill.stuck + 1 else 0
  if 3 ≤ evidence then
    (s.updFill c (fun f =>
      { f with stuck := 3, sensor := .failed, request := f.request.withdrawn })).raise .sensorFailed (some c) 3
  else
    (s.updFill c (fun f => { f with stuck := evidence, streak := 0, sensor := .good })).fuseSample c tof temperature

/-- An ECHO_SAMPLE is acted on (R70, R71). -/
def State.echoSample (s : State) (c tof quality : Nat) (temperature : Int) : State :=
  let k := s.container c
  let s1 := s.updFill c (fun f =>
    { f with request := f.request.answered k.cfg.present k.fill.sensor k.inlet.state })
  if !k.cfg.present then s1
  else if k.inlet.state.defers then s1
  else if k.fill.sensor = .failed then s1
  else if tof = 0 ∨ 25000 ≤ tof ∨ quality < k.cfg.qMin then s1.invalidSample c
  else s1.validSample c tof temperature

end Sys2Proof.Machine
end

