-- ==== Sys2Proof/Machine/Inlet.lean ====
section
/-! DEFINITION. Inlet Control: states and reports, pending commands, bar reasons, and how a grant or a crew's work ends
(7.1, 7.2, 7.6, 9.8). -/

namespace Sys2Proof.Machine

/-! ### State and its report (R110) -/

/-- The inlet state becomes the given one, and the change is reported to the Fill Estimator (R88, R110). The fast-poll need
is computed from the state (R18). -/
def State.setInlet (s : State) (c : Nat) (st : InletState) : State :=
  s.updContainer c (fun k =>
    { k with inlet := { k.inlet with state := st }
             fill := { k.fill with request := k.fill.request.report k.inlet.state st } })

/-! ### Pending inlet commands (R17, R111) -/

/-- The station's line puts it on its priority list, unless it is DISABLED or already there (R17). -/
def State.requestTurn (s : State) (station : Nat) : State :=
  if (s.station station).state = .disabled then s
  else s.updLine (lineOf station) (fun l =>
    if l.priority.contains station then l else { l with priority := l.priority ++ [station] })

/-- A pending inlet command is set, replacing the one in place; it counts as a new command (R7) and requests a priority
turn (R111). -/
def State.setCommand (s : State) (c : Nat) (action : InletAction) (window : Nat) (code : DisplayCode) (value : Nat) :
    State :=
  (s.updInlet c (fun n =>
    { n with command := some { action := action, window := window, code := code, value := value, sent := false } })).requestTurn
      (stationOf c)

/-- LOCK with display code CLOSED and value 0. -/
def State.lockClosed (s : State) (c : Nat) : State := s.setCommand c .lock 0 .closed 0

/-- A refusal sets SHOW, unless an UNLOCK, LOCK or SERVICE_UNLOCK is pending (R111). -/
def State.show (s : State) (c : Nat) (code : DisplayCode) (value : Nat) : State :=
  match (s.container c).inlet.command with
  | some cmd => if cmd.action = .showCode then s.setCommand c .showCode 0 code value else s
  | none => s.setCommand c .showCode 0 code value

/-! ### The end of a grant without a deposit (R56, R64, R123) -/

/-- The grant record is removed and its window stopped; the hold is taken out and a reservation released (R56, R64). The
inlet state is not touched. -/
def State.dropGrant (s : State) (c : Nat) : State :=
  match (s.container c).inlet.grant with
  | none => s
  | some g =>
    ((s.updInlet c (fun n => { n with grant := none })).unhold g.household g.fraction).unreserveIf g.reserved

/-- A grant ends LOST: BARRED, with LOCK CLOSED set (R108, R123). -/
def State.grantLost (s : State) (c : Nat) : State := ((s.dropGrant c).setInlet c .barred).lockClosed c

/-! ### The end of a crew's work -/

/-- A service or lift ends without a tip: its stop is dealt with, a reservation is released and the record, with its
running window and limit, is removed (R154, R158, R159, R162). -/
def State.endWork (s : State) (c : Nat) (why : WorkEnd) : State :=
  match (s.container c).inlet.service with
  | none => s
  | some v =>
    ((s.returnStop c v.place why).unreserveIf v.reserved).updInlet c (fun n => { n with service := none })

/-- The loss of the station or of the container during SERVICE or LIFTING (R162). -/
def State.crewLost (s : State) (c : Nat) (why : WorkEnd) : State :=
  ((((s.endWork c why).setInlet c .barred).lockClosed c)).makeUnknown c

/-! ### Bar reasons (R108, R109) -/

/-- A reason is in the set. -/
def BarSet.has (b : BarSet) : BarReason → Bool
  | .center => b.center
  | .stationLost => b.stationLost
  | .stationDisabled => b.stationDisabled
  | .notSeen => b.notSeen
  | .notPresent => b.notPresent
  | .liftOpen => b.liftOpen

/-- The set with a reason put in or taken out. -/
def BarSet.put (b : BarSet) (r : BarReason) (v : Bool) : BarSet :=
  match r with
  | .center => { b with center := v }
  | .stationLost => { b with stationLost := v }
  | .stationDisabled => { b with stationDisabled := v }
  | .notSeen => { b with notSeen := v }
  | .notPresent => { b with notPresent := v }
  | .liftOpen => { b with liftOpen := v }

/-- The reasons that end crew work and settling (R108). -/
def BarReason.endsWork : BarReason → Bool
  | .stationLost => true
  | .stationDisabled => true
  | .notPresent => true
  | _ => false

/-- A reason put in or taken out of a container's set, and nothing else. -/
def State.putBar (s : State) (c : Nat) (r : BarReason) (v : Bool) : State :=
  s.updInlet c (fun n => { n with bars := n.bars.put r v })

/-- A bar reason is added (R108). -/
def State.addBar (s : State) (c : Nat) (r : BarReason) : State :=
  let n := (s.container c).inlet
  if n.bars.has r then s
  else
    let s' := s.putBar c r true
    match n.state with
    | .locked => s'.setInlet c .barred
    | .opened => s'.grantLost c
    | .barred => s'
    | .service => if r.endsWork then s'.crewLost c (if r = .notPresent then .absent else .untipped) else s'
    | .lifting => if r.endsWork then s'.crewLost c (if r = .notPresent then .absent else .untipped) else s'
    | .settling =>
      if r.endsWork then (s'.updInlet c (fun m => { m with settleLeft := none })).setInlet c .barred else s'

/-- A bar reason is removed; a BARRED inlet whose set becomes empty is LOCKED (R109). -/
def State.removeBar (s : State) (c : Nat) (r : BarReason) : State :=
  let n := (s.container c).inlet
  if !n.bars.has r then s
  else
    let s' := s.putBar c r false
    if n.bars.put r false = BarSet.empty ∧ n.state = .barred then s'.setInlet c .locked else s'

/-- The inlet returns to rest: LOCKED if the set is empty and BARRED if not (R109). -/
def State.toRest (s : State) (c : Nat) : State :=
  s.setInlet c (if (s.container c).inlet.bars = BarSet.empty then .locked else .barred)

/-- A reason is added to the four containers of a station (1.5), in ascending container order (log 33). -/
def State.addBars (s : State) (station : Nat) (r : BarReason) : State :=
  (containersOf station).foldl (fun t c => t.addBar c r) s

/-- A reason is removed from the four containers of a station (1.5), in ascending container order (log 33). -/
def State.removeBars (s : State) (station : Nat) (r : BarReason) : State :=
  (containersOf station).foldl (fun t c => t.removeBar c r) s

end Sys2Proof.Machine
end

