-- ==== Sys2Proof/Machine/Rounds.lean ====
section
/-! DEFINITION. Round commands and the planner tick (8.5 to 8.7). -/

namespace Sys2Proof.Machine

/-- A stop is PENDING or SERVICING for a container in a round other than r (R141). -/
def State.takenElsewhere (s : State) (r c : Nat) : Bool :=
  rounds4.any (fun q => q != r && (s.round q).holds c Stop.isOpen)

/-- The state of a stop at its round's release (R141). -/
def State.releaseStop (s : State) (r : Nat) (p : Stop) : Stop :=
  let k := (s.container p.container).cfg
  let skip := !k.present || decide (k.fraction ≠ (s.round r).cfg.fraction) || s.takenElsewhere r p.container
  { p with state := some (if skip then .skipped else .pending), doneTime := none }

/-- The round is released, if it is LOADED or CLOSED and has a stop (R141). -/
def State.releaseRound (s : State) (r : Nat) : State :=
  let d := s.round r
  if (d.state = .loaded ∨ d.state = .closed) ∧ d.stops ≠ [] then
    s.updRound r (fun d =>
      { d with stops := (d.stops.filter (fun p => decide (p.origin ≠ .unplanned))).map (s.releaseStop r)
               state := .active
               deadline := some (s.now.plusMinutes d.cfg.deadlineLen)
               closing := none })
  else s

/-- The number of DONE stops (R144). -/
def Round.doneCount (d : Round) : Nat := (d.stops.filter (fun p => p.state == some .done)).length

/-- The round enters CLOSED: the closing cause becomes absent and ROUND_CLOSED is raised (R144). -/
def State.closeRound (s : State) (r : Nat) : State :=
  (s.updRound r (fun d => { d with state := .closed, closing := none })).raise .roundClosed (some r) (s.round r).doneCount

/-- The round leaves ACTIVE under a cause: CLOSING while a stop is SERVICING, else CLOSED (R142, R145). -/
def State.leaveActive (s : State) (r : Nat) (cause : ClosingCause) : State :=
  if (s.round r).stops.any Stop.isServicing then
    s.updRound r (fun d => { d with state := .closing, closing := some cause })
  else s.closeRound r

/-- The stops with every one that satisfies q put into a state. -/
def setStops (q : Stop → Bool) (st : StopState) (stops : List Stop) : List Stop :=
  stops.map (fun p => if q p then { p with state := some st } else p)

/-- CLOSE is taken (R142). -/
def State.takeClose (s : State) (r : Nat) : State :=
  if (s.round r).state = .active then
    (s.updRound r (fun d => { d with stops := setStops Stop.isPending .skipped d.stops })).leaveActive r .close
  else s

/-- The service records that name a round lose their round and their stop (R143). -/
def State.freeServices (s : State) (r : Nat) : State :=
  { s with containers := Tab.map Container.blank (fun _ k =>
      match k.inlet.service with
      | some v =>
        if v.round = some r then
          { k with inlet := { k.inlet with service := some { v with round := none, stop := none } } }
        else k
      | none => k) s.containers }

/-- ABORT is taken (R143). -/
def State.takeAbort (s : State) (r : Nat) : State :=
  if (s.round r).state = .active ∨ (s.round r).state = .closing then
    ((s.updRound r (fun d => { d with stops := setStops Stop.isOpen .skipped d.stops })).freeServices r).closeRound r
  else s

/-- The requested command, if any, is taken and becomes absent (R139, R140 step 1). -/
def State.takeCommand (s : State) (r : Nat) : State :=
  let s1 := s.updRound r (fun d => { d with requested := none })
  match (s.round r).requested with
  | some .release => s1.releaseRound r
  | some .close => s1.takeClose r
  | some .abort => s1.takeAbort r
  | none => s1

/-- No stop is PENDING or SERVICING (R144). -/
def Round.complete (d : Round) : Bool := !d.stops.any Stop.isOpen

/-- The deadline of an ACTIVE round that is not complete has been reached (R145). -/
def State.deadlineDue (s : State) (r : Nat) : Bool :=
  let d := s.round r
  d.state == .active && !d.complete &&
    (match d.deadline with
     | some t => t.reached s.now
     | none => false)

/-- The containers of the PENDING stops, in list order. -/
def Round.pendingContainers (d : Round) : List Nat := (d.stops.filter Stop.isPending).map Stop.container

/-- The deadline is reached: every PENDING stop becomes MISSED and the round closes or goes CLOSING (R145). -/
def State.takeDeadline (s : State) (r : Nat) : State :=
  let missed := (s.round r).pendingContainers
  let s1 := s.updRound r (fun d => { d with stops := setStops Stop.isPending .missed d.stops })
  (missed.foldl (fun t c => t.reportMissed r c) s1).leaveActive r .deadline

/-- Step 2 of the tick: completion, then the deadline (R140, R144, R145). -/
def State.checkRound (s : State) (r : Nat) : State :=
  if (s.round r).state = .active ∧ (s.round r).complete then s.closeRound r
  else if s.deadlineDue r then s.takeDeadline r
  else s

/-- Step 3 of the tick: a CLOSING round with no SERVICING stop becomes CLOSED (R146). -/
def State.checkClosing (s : State) (r : Nat) : State :=
  if (s.round r).state = .closing ∧ !(s.round r).stops.any Stop.isServicing then s.closeRound r else s

/-- The release moment of a release time of day: the latest time at or before now with that second of day (R147). -/
def releaseMoment (now : Time) (release : Nat) : Option Time :=
  if release ≤ now.sec then some { day := now.day, sec := release }
  else if now.day = 0 then none
  else some { day := now.day - 1, sec := release }

/-- A standing round in LOADED or CLOSED whose release moment is later than the previous tick time (R147). -/
def State.standingDue (s : State) (r : Nat) : Bool :=
  let d := s.round r
  d.cfg.standing && (d.state == .loaded || d.state == .closed) &&
    (match releaseMoment s.now d.cfg.releaseTime with
     | some t => s.planner.prevTick.before t
     | none => false)

/-- Step 4 of the tick: the standing release (R147). -/
def State.checkStanding (s : State) (r : Nat) : State := if s.standingDue r then s.releaseRound r else s

/-- The command taken in step 1 passes step 4 over (R140). -/
def State.commandPassesStanding (s : State) (r : Nat) : Bool :=
  (s.round r).requested == some .close || (s.round r).requested == some .abort

/-- A stage waits for a step of its own: a deadline that is reached, and no completion before it, or a standing release
that is due (log 3). -/
def State.stageWaits (s : State) : TickStage → Bool
  | .check r => s.deadlineDue r
  | .standing r => s.standingDue r
  | _ => false

/-- One stage of the tick (R140). -/
def State.runStage (s : State) : TickStage → State
  | .command r => s.takeCommand r
  | .check r => s.checkRound r
  | .closing r => s.checkClosing r
  | .standing r => s.checkStanding r

/-- The stages that remain to be run after a stage: a CLOSE or ABORT taken in step 1 takes step 4 of its round out
(R140). -/
def State.stagesAfter (s : State) (stage : TickStage) (rest : List TickStage) : List TickStage :=
  match stage with
  | .command r => if s.commandPassesStanding r then rest.filter (fun g => decide (g ≠ .standing r)) else rest
  | _ => rest

/-- The tick is over: the previous tick time becomes its district time (R147). -/
def State.endTick (s : State) : State := s.updPlanner (fun p => { p with prevTick := s.now, tickTodo := [] })

/-- The stages of a tick run in order. With auto the tick runs to its end. Without it, the tick waits at a stage that has
a step of its own (log 3). The first argument bounds the stages and is their number. -/
def State.runTick (auto : Bool) : Nat → List TickStage → State → State
  | 0, _, s => s.endTick
  | _, [], s => s.endTick
  | n + 1, g :: rest, s =>
    if !auto && s.stageWaits g then s.updPlanner (fun p => { p with tickTodo := g :: rest })
    else State.runTick auto n (s.stagesAfter g rest) (s.runStage g)

/-- The stages of a whole tick (R140). -/
def tickStages : List TickStage :=
  [.command 0, .check 0, .closing 0, .standing 0, .command 1, .check 1, .closing 1, .standing 1,
   .command 2, .check 2, .closing 2, .standing 2, .command 3, .check 3, .closing 3, .standing 3]

/-- A tick is taken as far as it goes without a step of its own (R140). -/
def State.beginTick (s : State) : State := State.runTick false tickStages.length tickStages s

/-- What is left of a tick is finished, its due deadlines and standing releases taken (log 2, log 3). -/
def State.finishTick (s : State) : State :=
  match s.planner.tickTodo with
  | [] => s
  | todo => State.runTick true todo.length todo s

/-- The stage at which the tick waits is taken, and the tick goes on (log 3). -/
def State.takeStage (s : State) (stage : TickStage) : State :=
  match s.planner.tickTodo with
  | g :: rest =>
    if g = stage then State.runTick false rest.length rest ((s.updPlanner (fun p => { p with tickTodo := [] })).runStage g)
    else s
  | [] => s

end Sys2Proof.Machine
end

