-- ==== Sys2Proof/Config.lean ====
section
/-! DEFINITION. The free values: what the manual leaves open. None has a body, so no proof can see what it is. -/

namespace Sys2Proof.Config

/-- The bytes an image save that did not succeed leaves in the image area (R186), for the n-th such save (log 7). -/
opaque unfinishedImage : Nat → List Byte

/-- The bytes that stand for the configuration positions of a record (table code, index, stored bytes) when the stored
bytes hold a code the manual's lists do not have (log 8). -/
opaque unlistedRecord : Nat → Nat → List Byte → List Byte

/-- The byte shown at an offset of a layout position whose field is absent, where no rule gives one (log 9). The first
argument names the position. -/
opaque absentByte : Nat → Nat → Byte

/-- The request code byte of a reply to a frame that carries no request code (log 11), by the frame's TAG. -/
opaque absentRequestCode : Byte → Byte

/-- The value of WATCH_HELD when a step mark holds a station again and the action is no hold action (log 34). -/
opaque reholdValue : Nat

end Sys2Proof.Config
end

