-- ==== Sys2Proof/Machine/Access.lean ====
section
/-! DEFINITION. Card validation, the inlet-reader decision, the service path and the drum (chapters 3, 7, 9). -/

namespace Sys2Proof.Machine

/-! ### Card numbers and validation (R34, R38, R49) -/

/-- The district code of a card number (R34). -/
def cardDistrict (n : Nat) : Nat := n / 65536

/-- The record index of a card number (R34). -/
def cardIndex (n : Nat) : Nat := n % 65536 / 16

/-- The generation of a card number (R34). -/
def cardGeneration (n : Nat) : Nat := n % 16

/-- The refusal of a card number, none when it passes validation (R38); in open mode step 1 alone runs (R49). -/
def State.validate (s : State) (n : Nat) : Option DisplayCode :=
  let r := (s.card (cardIndex n)).cfg
  if cardIndex n = 0 then some .nullCard
  else if s.part.openMode then none
  else if cardDistrict n ≠ s.params.districtCode then some .foreign
  else if s.params.cardLimit ≤ cardIndex n then some .unknownCard
  else if cardGeneration n ≠ r.generation then some .revoked
  else if r.status = .suspended then some .suspended
  else if r.status = .lost then some .lostCard
  else none

/-- The card record's last seen is written, but in open mode (R45, R49). -/
def State.see (s : State) (idx c : Nat) (code : DisplayCode) : State :=
  if s.part.openMode then s
  else s.updCard idx (fun k => { k with lastSeen := some { time := s.now, container := c, code := code } })

/-- A refusal of a validated card: last seen and SHOW (R118, R149). -/
def State.refuseSeen (s : State) (idx c : Nat) (code : DisplayCode) (value : Nat) : State :=
  (s.see idx c code).show c code value

/-! ### The inlet-reader decision (R113 to R118, R127) -/

/-- The alternate hint (R115). -/
def State.alternateHint (s : State) (c : Nat) : Nat :=
  match (s.container c).cfg.alternate with
  | none => 0
  | some a =>
    let k := s.container a
    if !k.cfg.present ∨ k.fill.status = .full ∨ k.fill.status = .overfull ∨ k.inlet.state = .barred then 0
    else (s.bank (s.station (stationOf a)).cfg.bank).displayNumber

/-- Step 6: the refusal at an inlet that is not LOCKED (R115). -/
def InletState.inletRefusal : InletState → Option DisplayCode
  | .locked => none
  | .barred => some .outOfService
  | .opened => some .inletBusy
  | _ => some .servicing

/-- Steps 6 and 7: the refusal and its display value (R115). -/
def State.inletCheck (s : State) (c : Nat) : Option (DisplayCode × Nat) :=
  let k := s.container c
  match k.inlet.state.inletRefusal with
  | some code => some (code, 0)
  | none =>
    if k.fill.status = .full ∨ k.fill.status = .overfull then some (.full, s.alternateHint c) else none

/-- Steps 8 and 9: the refusal for the bank or the fraction (R116). -/
def State.setsCheck (s : State) (c : Nat) (card : CardCfg) : Option DisplayCode :=
  let b := (s.station (stationOf c)).cfg.bank
  if !card.banks.getLsbD b then some .bank
  else if card.cls = .business ∧ (s.bank b).residentialOnly then some .bank
  else if !card.fractions.getLsbD (s.container c).cfg.fraction.code then some .fraction
  else none

/-- The grant reserves: the household is METERED and the container's fraction is metered (R60, R116). -/
def State.grantReserves (s : State) (c h : Nat) : Bool :=
  (s.household h).cfg.metered && (s.fraction (s.container c).cfg.fraction).metered

/-- A grant is made: the record, OPEN and UNLOCK GRANTED with a display value (R117, R127). -/
def State.openGrant (s : State) (c idx : Nat) (h : Option Nat) (reserved : Bool) (value : Nat) : State :=
  let w := (s.station (stationOf c)).cfg.grantWindow
  let g : Grant := { card := idx, household := h, fraction := (s.container c).cfg.fraction, period := s.period,
                     reserved := reserved, windowLeft := w }
  ((s.updInlet c (fun n => { n with grant := some g })).setInlet c .opened).setCommand c .unlock w .granted value

/-- Step 12 outside open mode: the reservation if any, the hold, the record, and last seen (R61, R117). -/
def State.grant (s : State) (c idx h : Nat) : State :=
  let f := (s.container c).cfg.fraction
  let reserves := s.grantReserves c h
  let s1 := if reserves then s.updJournal Journal.reserve else s
  let s2 := s1.updHousehold h (fun r => r.hold f)
  (s2.openGrant c idx (some h) reserves ((s2.household h).remaining f)).see idx c .granted

/-- Steps 10 to 12: the reset and the quota check, the room test where the grant reserves, and the grant (R116, R117). -/
def State.quotaAndRoom (s : State) (c idx h : Nat) : State :=
  let s1 := s.lazyReset h
  if !(s1.household h).quotaPasses (s1.container c).cfg.fraction then s1.refuseSeen idx c .quota 0
  else if s1.grantReserves c h ∧ 991 < s1.journal.places then
    (s1.refuseSeen idx c .journalFull 0).raise .journalFull (some s1.journal.places) c
  else s1.grant c idx h

/-- Steps 5 to 12 of the decision for a card that is no CREW card (R113). -/
def State.residentDecision (s : State) (c idx : Nat) : State :=
  let card := (s.card idx).cfg
  match card.household with
  | none => s.refuseSeen idx c .noAccount 0
  | some h =>
    match s.inletCheck c with
    | some (code, value) => s.refuseSeen idx c code value
    | none =>
      match s.setsCheck c card with
      | some code => s.refuseSeen idx c code 0
      | none => s.quotaAndRoom c idx h

/-- Steps 6, 7 and 12 of the decision in open mode (R127). -/
def State.openDecision (s : State) (c idx : Nat) : State :=
  match s.inletCheck c with
  | some (code, value) => s.refuseSeen idx c code value
  | none => s.openGrant c idx none false 255

/-! ### The service path (R149 to R153, R163) -/

/-- A card to which a round is open: its crew card is none or this card (R153). -/
def Round.openTo (d : Round) (idx : Nat) : Bool := decide (d.cfg.crew = none) || decide (d.cfg.crew = some idx)

/-- The round to which an UNPLANNED stop for a container is appended (R153, second case). -/
def State.appendRound (s : State) (c idx : Nat) : Option Nat :=
  if rounds4.any (fun r => (s.round r).holds c Stop.isOpen) then none
  else rounds4.find? (fun r =>
    let d := s.round r
    d.state == .active && decide (d.cfg.crew = some idx) && decide (d.cfg.fraction = (s.container c).cfg.fraction) &&
      decide (d.stops.length < 24) && !d.holds c (fun _ => true))

/-- Round matching: the round and stop of a new service, with the stop SERVICING (R153). -/
def State.matchRound (s : State) (c idx : Nat) : State × Option (Nat × Nat) :=
  match s.pendingStop c (fun d => d.openTo idx) with
  | some (r, i) => (s.setStop r i .servicing, some (r, i))
  | none =>
    match s.appendRound c idx with
    | some r =>
      (s.updRound r (fun d => { d with stops := d.stops ++
        [{ container := c, state := some .servicing, origin := .unplanned, doneTime := none }] }),
       some (r, (s.round r).stops.length))
    | none => (s, none)

/-- The display value of SERVICE_GRANTED: the round plus 1, or 0 for free service (R152). -/
def serviceValue : Option Nat → Nat
  | some r => r + 1
  | none => 0

/-- Step 8: the service record with its window running, SERVICE and SERVICE_UNLOCK (R152). -/
def State.openService (s : State) (c idx : Nat) (place : Option (Nat × Nat)) (reserved : Bool) : State :=
  let w := s.params.serviceWindow
  let v : Service := { crew := some idx, round := place.map Prod.fst, stop := place.map Prod.snd, reserved := reserved,
                       windowLeft := some w, limitLeft := none }
  ((s.updInlet c (fun n => { n with service := some v })).setInlet c .service).setCommand c .serviceUnlock w
    .serviceGranted (serviceValue v.round)

/-- Steps 7 and 8: the room test, skipped in open mode, after a grant was cut or not (R151, R152, R163). -/
def State.serviceRoom (s : State) (c idx : Nat) (cut : Bool) : State :=
  if s.part.openMode then s.openService c idx none false
  else if 1023 < s.journal.places then
    let s1 := (s.see idx c .journalFull).raise .journalFull (some 1024) c
    if cut then (s1.setInlet c .locked).lockClosed c else s1.show c .journalFull 0
  else
    let m := (s.updJournal Journal.reserve).matchRound c idx
    (m.1.openService c idx m.2 true).see idx c .serviceGranted

/-- A crew card shown again to its own service: the window starts again, and SERVICE_UNLOCK is set again (R150). -/
def State.restartService (s : State) (c idx : Nat) (v : Service) : State :=
  let w := s.params.serviceWindow
  ((s.updInlet c (fun n => { n with service := some { v with windowLeft := some w } })).setCommand c .serviceUnlock w
    .serviceGranted (serviceValue v.round)).see idx c .serviceGranted

/-- The service path from step 5 on (R149). -/
def State.crewDecision (s : State) (c idx : Nat) : State :=
  let n := (s.container c).inlet
  match n.state with
  | .barred => s.refuseSeen idx c .outOfService 0
  | .lifting => s.refuseSeen idx c .servicing 0
  | .settling => s.refuseSeen idx c .servicing 0
  | .service =>
    match n.service with
    | some v => if v.crew = some idx then s.restartService c idx v else s.refuseSeen idx c .servicing 0
    | none => s.refuseSeen idx c .servicing 0
  | .locked => s.serviceRoom c idx false
  | .opened => (s.dropGrant c).serviceRoom c idx true

/-! ### A card item (R112) -/

/-- A CARD_SHOWN is acted on at an age in second events: the container, validation, the stale limit, then the path that
reader kind and class choose (R112 to R114, R127, R149, R163). -/
def State.cardShown (s : State) (station c : Nat) (serviceReader : Bool) (number age : Nat) : State :=
  let idx := cardIndex number
  if !s.present c then s.show c .noSlot 0
  else
    match s.validate number with
    | some code =>
      let s1 := if code = .lostCard then s.raise .cardLostSeen (some idx) station else s
      s1.show c code 0
    | none =>
      if 10 < age then s.refuseSeen idx c .stale 0
      else if s.part.openMode then (if serviceReader then s.crewDecision c idx else s.openDecision c idx)
      else if (s.card idx).cfg.cls = .crew then s.crewDecision c idx
      else if serviceReader then s.refuseSeen idx c .wrongReader 0
      else s.residentDecision c idx

/-! ### The drum (R119 to R121) -/

/-- The turns that a drum count shows since the last one (R119). -/
def drumTurns (last : Option Nat) (count : Nat) : Nat :=
  match last with
  | none => 1
  | some d => (count + 65536 - d) % 65536

/-- The record of a deposit (R58). The serial is given at the write (R59). -/
def State.depositRecord (s : State) (c : Nat) (g : Grant) (late : Bool) : JournalRecord :=
  { serial := 0, kind := .deposit, time := s.now, container := c, card := some g.card, household := g.household,
    fraction := g.fraction, period := some g.period, late := late, openMode := s.part.openMode }

/-- One turn is attributed to the open grant: it is counted, recorded if reserved, and the grant closes with LOCK READY
(R55, R120). -/
def State.closeGrant (s : State) (c : Nat) (g : Grant) : State :=
  let s1 := match g.household with
    | some h => s.updHousehold h (fun r => r.countDeposit g.fraction s.period g.period)
    | none => s
  let late := g.household.isSome && decide (s.period ≠ g.period)
  let s2 := if g.reserved then s1.writeReserved (s1.depositRecord c g late) else s1
  ((s2.updInlet c (fun n => { n with grant := none })).setInlet c .locked).setCommand c .lock 0 .ready 0

/-- Unattributed turns are counted and reported (R121). -/
def State.unattributedTurns (s : State) (c u : Nat) : State :=
  if u = 0 then s
  else (s.updInlet c (fun n => { n with unattributed := min 65535 (n.unattributed + u) })).raise .drumExtra (some c) u

/-- The turns of a present container are shared out: one to an open grant, the rest unattributed, all to the Fill
Estimator (R119). -/
def State.shareTurns (s : State) (c n : Nat) : State :=
  let k := (s.container c).inlet
  match (if k.state = .opened then k.grant else none) with
  | some g => (((s.closeGrant c g).unattributedTurns c (n - 1))).reportTurns c n
  | none => (s.unattributedTurns c n).reportTurns c n

/-- A DEPOSIT_DONE is acted on (R119). -/
def State.depositDone (s : State) (c count : Nat) : State :=
  let n := drumTurns (s.container c).inlet.lastDrum count
  let s1 := s.updInlet c (fun k => { k with lastDrum := some count })
  if !s.present c then s1
  else if n = 0 then s1
  else s1.shareTurns c n

end Sys2Proof.Machine
end

