-- ==== Sys2Proof/Machine/Lifts.lean ====
section
/-! DEFINITION. Lifts: their begin, their end, and settling (9.5 to 9.7). -/

namespace Sys2Proof.Machine

/-- A lift item is discarded when its container is not present or its station is UNKNOWN, LOST or DISABLED (R112). -/
def State.discardsLift (s : State) (station c : Nat) : Bool :=
  !s.present c ||
    (match (s.station station).state with
     | .unknown => true
     | .lost => true
     | .disabled => true
     | _ => false)

/-- The inlet becomes SETTLING and the settle time is started (R161). -/
def State.startSettling (s : State) (c : Nat) : State :=
  (s.updInlet c (fun n => { n with settleLeft := some s.params.settleTime })).setInlet c .settling

/-- An authorized lift begins: the window is stopped and the lift limit started (R155). -/
def State.authorizedLift (s : State) (c : Nat) (v : Service) : State :=
  (s.updInlet c (fun n =>
    { n with service := some { v with windowLeft := none, limitLeft := some 900 } })).setInlet c .lifting

/-- An unauthorized lift begins: the unowned record with its reservation if there is room, the lift limit, LIFTING and
UNPLANNED_LIFT (R63, R156). -/
def State.unplannedLift (s : State) (c : Nat) : State :=
  let room : Bool := decide (s.journal.places < 1024)
  let s1 := if room then s.updJournal Journal.reserve else s.raise .journalFull (some 1024) c
  let v : Service := { crew := none, round := none, stop := none, reserved := room, windowLeft := none,
                       limitLeft := some 900 }
  ((s1.updInlet c (fun n => { n with service := some v, settleLeft := none })).setInlet c .lifting).raise .unplannedLift
    (some c) 0

/-- A LIFT_BEGUN is acted on (R155, R156). -/
def State.liftBegun (s : State) (station c : Nat) : State :=
  if s.discardsLift station c then s
  else match (s.container c).inlet.state with
    | .service =>
      match (s.container c).inlet.service with
      | some v => s.authorizedLift c v
      | none => s
    | .lifting => s
    | .opened => ((s.dropGrant c).lockClosed c).unplannedLift c
    | .locked => s.unplannedLift c
    | .barred => s.unplannedLift c
    | .settling => s.unplannedLift c

/-- The record of a lift (R58). -/
def State.liftRecord (s : State) (c : Nat) (crew : Option Nat) : JournalRecord :=
  { serial := 0, kind := .lift, time := s.now, container := c, card := crew, household := none,
    fraction := (s.container c).cfg.fraction, period := none, late := false, openMode := s.part.openMode }

/-- What a tipped lift does to estimate and marks (R157, steps 5 and 6). -/
def State.emptied (s : State) (c : Nat) : State := (s.tippedFill c).clearMarks c

/-- A lift ends tipped (R157). -/
def State.liftTipped (s : State) (c : Nat) (v : Service) : State :=
  let s1 := s.completeStop c v.place
  let s2 := if v.reserved then s1.writeReserved (s1.liftRecord c v.crew) else s1
  let s3 := (s2.updInlet c (fun n => { n with service := none })).putBar c .liftOpen false
  ((s3.startSettling c).lockClosed c).emptied c

/-- A lift ends not tipped (R158). -/
def State.liftUntipped (s : State) (c : Nat) : State :=
  (((s.endWork c .untipped).putBar c .liftOpen false).startSettling c).lockClosed c

/-- The late end of a lift whose limit expired (R160). -/
def State.lateEnd (s : State) (c : Nat) (tipped : Bool) : State :=
  let s1 := s.putBar c .liftOpen false
  if tipped then
    let s2 := s1.completeStop c none
    let s3 := if s2.journal.places < 1024 then s2.writeRecord (s2.liftRecord c none)
      else s2.raise .journalFull (some 1024) c
    (s3.startSettling c).emptied c
  else s1.startSettling c

/-- A LIFT_ENDED is acted on (R157, R158, R160). -/
def State.liftEnded (s : State) (station c : Nat) (tipped : Bool) : State :=
  if s.discardsLift station c then s
  else match (s.container c).inlet.state with
    | .lifting =>
      match (s.container c).inlet.service with
      | some v => if tipped then s.liftTipped c v else s.liftUntipped c
      | none => s
    | .barred => if (s.container c).inlet.bars.liftOpen then s.lateEnd c tipped else s
    | _ => s

/-- The service window expires in SERVICE (R154). -/
def State.serviceExpired (s : State) (c : Nat) : State := ((s.endWork c .untipped).toRest c).lockClosed c

/-- The lift limit expires (R159). -/
def State.liftExpired (s : State) (c : Nat) : State :=
  let s1 := ((s.raise .liftTimeout (some c) 0).endWork c .untipped).putBar c .liftOpen true
  ((s1.setInlet c .barred).lockClosed c).makeUnknown c

/-- Settling ends (R161). -/
def State.settled (s : State) (c : Nat) : State := (s.updInlet c (fun n => { n with settleLeft := none })).toRest c

end Sys2Proof.Machine
end

