-- ==== Sys2Proof/Machine/Envelope.lean ====
section
/-! DEFINITION. The frame envelope and its CRC-16 (R1, 11.7), and the CRC-32 of the stored image (R185). -/

namespace Sys2Proof.Machine

/-- One bit step of the CRC-16: polynomial 1021h, most significant bit first (R1). -/
def crc16Bit (c : BitVec 16) : BitVec 16 := if c.msb then (c <<< 1) ^^^ 0x1021#16 else c <<< 1

/-- The CRC-16 register after one more byte. -/
def crc16Byte (c : BitVec 16) (b : Byte) : BitVec 16 :=
  (List.range 8).foldl (fun r _ => crc16Bit r) (c ^^^ (b.setWidth 16 <<< 8))

/-- The CRC-16 of bytes: initial value FFFFh, not inverted at the end (R1). -/
def crc16 (bytes : List Byte) : BitVec 16 := bytes.foldl crc16Byte 0xFFFF#16

/-- One bit step of the CRC-32: polynomial 04C11DB7h, most significant bit first (R185). -/
def crc32Bit (c : BitVec 32) : BitVec 32 := if c.msb then (c <<< 1) ^^^ 0x04C11DB7#32 else c <<< 1

/-- The CRC-32 register after one more byte. -/
def crc32Byte (c : BitVec 32) (b : Byte) : BitVec 32 :=
  (List.range 8).foldl (fun r _ => crc32Bit r) (c ^^^ (b.setWidth 32 <<< 24))

/-- The CRC-32 of bytes: initial value FFFFFFFFh, inverted at the end (R185). -/
def crc32 (bytes : List Byte) : BitVec 32 := ~~~ (bytes.foldl crc32Byte 0xFFFFFFFF#32)

/-- What a receiver makes of the bytes that follow an idle gap (R1): no marker, a frame that is not good, or a good
frame. -/
inductive Reception where
  | nothing
  | bad
  | good (f : Frame)
  deriving DecidableEq, Repr

/-- LEN, DST, SRC, KIND, TAG and payload of a frame: what the CRC-16 covers (R1). -/
def Frame.covered (f : Frame) : List Byte :=
  BitVec.ofNat 8 f.payload.length :: f.dst :: f.src :: f.kind :: f.tag :: f.payload

/-- The bytes of a frame on a line or on the backhaul (11.7). -/
def Frame.bytes (f : Frame) : List Byte := 0x5B#8 :: f.covered ++ be 2 (crc16 f.covered).toNat

/-- The frame whose bytes after LEN and before the CRC are given. -/
def Frame.ofBody (body : List Byte) : Frame :=
  { dst := byteAt body 0, src := byteAt body 1, kind := byteAt body 2, tag := byteAt body 3, payload := body.drop 4 }

/-- Reception of a frame (R1): a marker, LEN 0-112, the rest of the header, the payload and a CRC-16 that matches. Bytes
that end early are a line that went idle before the frame was complete. -/
def receive : List Byte → Reception
  | [] => .nothing
  | m :: rest =>
    if m ≠ 0x5B#8 then .nothing
    else match rest with
      | [] => .bad
      | len :: tail =>
        let body := tail.take (4 + len.toNat)
        let crc := (tail.drop (4 + len.toNat)).take 2
        if 112 < len.toNat then .bad
        else if crc.length = 2 ∧ ofBe crc = (crc16 (len :: body)).toNat then .good (Frame.ofBody body)
        else .bad

end Sys2Proof.Machine
end

