-- ==== Sys2Proof/Machine/Operands.lean ====
section
/-! DEFINITION. What frames carry: the items of the stations (R3, R11), and the requests and their operand bytes (R178,
11.7). -/

namespace Sys2Proof.Machine

/-! ### Items (R3) -/

/-- The contents of an item, as its consumer takes them (R3). -/
inductive Item where
  | card (serviceReader : Bool) (slot number : Nat)
  | deposit (slot count : Nat)
  | echo (slot tof quality : Nat) (temperature : Int)
  | liftBegun (slot : Nat)
  | liftEnded (slot : Nat) (tipped : Bool)
  | maint (payload : List Byte)
  deriving DecidableEq, Repr

/-- A KIND is that of an item (R3). -/
def isItemKind (k : Byte) : Bool := decide (0x11 ≤ k.toNat) && decide (k.toNat ≤ 0x17) && decide (k ≠ kindStationStatus)

/-- The slot field of a payload, none when it is missing or outside 1-4 (R3). -/
def slotAt (payload : List Byte) (offset : Nat) : Option Nat :=
  if offset < payload.length ∧ 1 ≤ (byteAt payload offset).toNat ∧ (byteAt payload offset).toNat ≤ 4 then
    some (byteAt payload offset).toNat
  else none

/-- A yes or no code, none outside its list. -/
def yesNo (b : Byte) : Option Bool :=
  if b = 0#8 then some false else if b = 1#8 then some true else none

/-- A CARD_SHOWN: reader kind, slot, card number (11.7). -/
def parseCard (p : List Byte) : Option Item :=
  match slotAt p 1, yesNo (byteAt p 0) with
  | some slot, some service => if 6 ≤ p.length then some (.card service slot (field p 2 4)) else none
  | _, _ => none

/-- An ECHO_SAMPLE: slot, time of flight, quality, temperature; a time over 25000 counts as 25000 (R3, 11.7). -/
def parseEcho (p : List Byte) : Option Item :=
  match slotAt p 0 with
  | some slot =>
    if 5 ≤ p.length ∧ field p 3 1 ≤ 15 then some (.echo slot (min 25000 (field p 1 2)) (field p 3 1) (byteAt p 4).toInt)
    else none
  | none => none

/-- The item of a kind and payload, none when it is malformed (R3). -/
def parseItem (kind : Byte) (p : List Byte) : Option Item :=
  match kind.toNat with
  | 0x11 => parseCard p
  | 0x12 =>
    match slotAt p 0 with
    | some slot => if 3 ≤ p.length then some (.deposit slot (field p 1 2)) else none
    | none => none
  | 0x13 => parseEcho p
  | 0x14 => (slotAt p 0).map .liftBegun
  | 0x15 =>
    match slotAt p 0, yesNo (byteAt p 1) with
    | some slot, some tipped => if 2 ≤ p.length then some (.liftEnded slot tipped) else none
    | _, _ => none
  | 0x17 => some (.maint p)
  | _ => none

/-- The health flags of a STATION_STATUS (11.7). -/
def parseHealth (b : Byte) : Health := { tamper := b.getLsbD 0, flood := b.getLsbD 1, supplyLow := b.getLsbD 2 }

/-! ### Requests (R178, R179) -/

/-- The rows of the command table that handle a frame of the receive buffer. -/
inductive Request where
  | unknown
  | relay
  | tableWrite
  | tableRead
  | journalRead
  | journalRelease
  | noticeFlagsRead
  | noticeFlagsClear
  | setTime
  | statusRead
  | imageSave
  | tablesClear
  | restart
  | roundDraft
  | roundRelease
  | roundClose
  | roundAbort
  | containerBar
  | containerUnbar
  | sensorClear
  | forceDue
  | watchSet
  | watchResume
  deriving DecidableEq, Repr

/-- The request of a request code (11.7); a code outside 01h-15h is outside the request set. -/
def Request.ofCode : Nat → Request
  | 0x01 => .tableWrite
  | 0x02 => .tableRead
  | 0x03 => .journalRead
  | 0x04 => .journalRelease
  | 0x05 => .noticeFlagsRead
  | 0x06 => .noticeFlagsClear
  | 0x07 => .setTime
  | 0x08 => .statusRead
  | 0x09 => .imageSave
  | 0x0A => .tablesClear
  | 0x0B => .restart
  | 0x0C => .roundDraft
  | 0x0D => .roundRelease
  | 0x0E => .roundClose
  | 0x0F => .roundAbort
  | 0x10 => .containerBar
  | 0x11 => .containerUnbar
  | 0x12 => .sensorClear
  | 0x13 => .forceDue
  | 0x14 => .watchSet
  | 0x15 => .watchResume
  | _ => .unknown

/-- What a frame of the receive buffer asks for (R178). -/
def requestOf (f : Frame) : Request :=
  if f.dst = ownAddress then
    if f.kind ≠ kindRequest then .unknown
    else match f.payload with
      | [] => .unknown
      | code :: _ => Request.ofCode code.toNat
  else if f.kind = kindStationCmd then .relay
  else .unknown

/-- The operand bytes of a REQUEST: those after the request code (11.7). -/
def operandsOf (f : Frame) : List Byte := f.payload.drop 1

/-- The request code byte of the reply to a frame (R178); a REQUEST frame with no payload, or a frame that is no REQUEST,
carries none (log 11). -/
def replyCode (f : Frame) : Byte :=
  if f.dst = ownAddress then
    if f.kind = kindRequest then
      match f.payload with
      | [] => Config.absentRequestCode f.tag
      | code :: _ => code
    else Config.absentRequestCode f.tag
  else 0#8

/-- The three modes of WATCH_RESUME, in code order (11.7). -/
inductive ResumeMode where
  | continue
  | step
  | discard
  deriving DecidableEq, Repr

def ResumeMode.ofCode : Nat → Option ResumeMode
  | 0 => some .continue
  | 1 => some .step
  | 2 => some .discard
  | _ => none

end Sys2Proof.Machine
end

