-- ==== Sys2Proof/Machine/Watch.lean ====
section
/-! DEFINITION. The Match Watch: what it compares and captures, how a hold begins and ends, and the consumers to which an
item passes (chapter 10, R3, R11). -/

namespace Sys2Proof.Machine

/-! ### Consumers (R3, R112) -/

/-- A STATION_MAINT item is appended to the relay queue to the center (R11). -/
def State.relayMaint (s : State) (station : Nat) (f : Frame) : State :=
  s.updLink (fun e => { e with toCenter := e.toCenter ++ [{ f with dst := centerAddress, src := stationAddress station }] })

/-- An item frame of a station is passed to its consumer at an age in second events; a malformed one is dropped (R3). -/
def State.passItem (s : State) (station : Nat) (f : Frame) (age : Nat) : State :=
  match parseItem f.kind f.payload with
  | none => s
  | some (.card service slot number) => s.cardShown station (containerOf station slot) service number age
  | some (.deposit slot count) => s.depositDone (containerOf station slot) count
  | some (.echo slot tof quality temperature) => s.echoSample (containerOf station slot) tof quality temperature
  | some (.liftBegun slot) => s.liftBegun station (containerOf station slot)
  | some (.liftEnded slot tipped) => s.liftEnded station (containerOf station slot) tipped
  | some (.maint _) => s.relayMaint station f

/-- A STATION_STATUS replaces the station's health flags (R11); one without its flags byte changes none (log 19). -/
def State.passStatus (s : State) (station : Nat) (f : Frame) : State :=
  match f.payload with
  | [] => s
  | b :: _ => s.updStation station (fun t => { t with health := parseHealth b })

/-- A received frame that may go on, an item or a STATION_STATUS, reaches its consumer. -/
def State.passFrame (s : State) (station : Nat) (f : Frame) (age : Nat) : State :=
  if f.kind = kindStationStatus then s.passStatus station f else s.passItem station f age

/-! ### Matching (R166, R167) -/

/-- The class of a compared frame's kind (R167). -/
def watchClass (kind : Byte) : Option FilterClass :=
  match kind.toNat with
  | 0x02 => some .toStation
  | 0x03 => some .toStation
  | 0x04 => some .toStation
  | 0x11 => some .card
  | 0x12 => some .deposit
  | 0x13 => some .sample
  | 0x14 => some .lift
  | 0x15 => some .lift
  | 0x16 => some .status
  | 0x17 => some .maint
  | _ => none

/-- Where the payload of a kind holds its slot, for the kinds that have a CONTAINER key (R167, 11.7). -/
def slotOffset (kind : Byte) : Option Nat :=
  match kind.toNat with
  | 0x02 => some 0
  | 0x03 => some 0
  | 0x11 => some 1
  | 0x12 => some 0
  | 0x13 => some 0
  | 0x14 => some 0
  | 0x15 => some 0
  | _ => none

/-- The card number of a CARD_SHOWN whose payload holds it whole (R166). -/
def frameCard (f : Frame) : Option Nat :=
  if f.kind = kindCardShown ∧ 6 ≤ f.payload.length then some (field f.payload 2 4) else none

/-- The key of a frame under a key kind, none when it has no such key (R166, R167). -/
def watchKey (k : KeyKind) (station : Nat) (f : Frame) : Option Nat :=
  match k with
  | .cardNumber => frameCard f
  | .cardRecord => (frameCard f).map cardIndex
  | .container =>
    match slotOffset f.kind with
    | none => none
    | some o => (slotAt f.payload o).map (containerOf station)
  | .station => some station

/-- A compared frame matches the specification; nothing is compared while the watch is OFF (R166, R167). -/
def Watch.matches (w : Watch) (station : Nat) (f : Frame) : Bool :=
  decide (w.state ≠ .off) &&
    (match watchClass f.kind with
     | none => false
     | some c => w.filter.getLsbD c.code) &&
    decide (watchKey w.keyKind station f = some w.keyValue)

/-- A match replaces the frame fields and the time of the capture record and is counted (R168). -/
def Watch.capture (w : Watch) (station : Nat) (f : Frame) (now : Time) : Watch :=
  { w with captured := some { kind := f.kind, tag := f.tag, src := f.src, dst := f.dst, station := station,
                              length := f.payload.length, bytes := f.payload.take 24, time := now }
           matchCount := min 65535 (w.matchCount + 1) }

/-- An exchange on a line holds its station when it ends (R169). -/
def LineState.claimsHold (l : LineState) : Bool :=
  match l.turn with
  | some t => t.exchange.holdAfter
  | none => false

/-- A hold action may begin a hold: the watch is ARMED and no match waits for the end of its exchange (R171; log 16). -/
def State.holdFree (s : State) : Bool := s.watch.state == .armed && !s.lineA.claimsHold && !s.lineB.claimsHold

/-- What the watch lets happen to a compared frame (R167). -/
inductive Verdict where
  | goOn
  | holdAfter
  | holdBefore
  deriving DecidableEq, Repr

/-- The verdict on a compared frame (R167). -/
def State.verdict (s : State) (station : Nat) (f : Frame) : Verdict :=
  if s.watch.matches station f && s.holdFree then
    (match s.watch.action with
     | .holdAfter => .holdAfter
     | .holdBefore => .holdBefore
     | _ => .goOn)
  else .goOn

/-- The capture of a compared frame, if it matches (R168). -/
def State.captureIf (s : State) (station : Nat) (f : Frame) : State :=
  if s.watch.matches station f then s.updWatch (fun w => w.capture station f s.now) else s

/-! ### Holds (R169, R170, R174) -/

/-- A hold of a station begins: HELD, the step mark and the pass removed, the hold timeout started, WATCH_HELD raised with
a value (R169, R170, R174). -/
def State.beginHold (s : State) (station : Nat) (parked : Option Parked) (value : Nat) : State :=
  (s.updWatch (fun w =>
    { w with state := .held, held := some station, parked := parked, stepMark := none, pass := none,
             timeoutLeft := some s.params.holdTimeout })).raise .watchHeld (some station) value

/-- A received STATION_MAINT, which keeps a place in the relay queue to the center while it is parked (R11). -/
def Parked.keepsPlace (p : Parked) : Bool := decide (p.how = .received) && decide (p.frame.kind = kindStationMaint)

/-- The places kept in the relay queue to the center (R11). -/
def Watch.keptPlaces (w : Watch) : Nat := if w.parked.any Parked.keepsPlace then 1 else 0

/-- The held station. -/
def State.isHeld (s : State) (station : Nat) : Bool := s.watch.held == some station

/-- A received frame is parked with its reception time, now (R170). -/
def State.parkReceived (s : State) (station : Nat) (f : Frame) : Parked :=
  { station := station, frame := f, how := .received, received := s.now, age := 0 }

/-- The value of WATCH_HELD when a step mark holds its station again (R174; log 34). -/
def rehold : WatchAction → Nat
  | .holdAfter => 1
  | .holdBefore => 2
  | _ => Config.reholdValue

/-! ### Resuming (R173 to R176) -/

/-- What became of the parked frame, in code order (11.7). -/
inductive ResumeOutcome where
  | noFrame
  | actedOn
  | passGiven
  | dropped
  | removed
  deriving DecidableEq, Repr

def ResumeOutcome.code : ResumeOutcome → Nat
  | .noFrame => 0
  | .actedOn => 1
  | .passGiven => 2
  | .dropped => 3
  | .removed => 4

/-- A pass for a frame to be sent (R175). -/
def State.givePass (s : State) (p : Parked) (what : Sent) : State :=
  s.updWatch (fun w => { w with pass := some { station := p.station, what := what } })

/-- The parked frame is dealt with as CONTINUE and STEP give (R173, R175). A parked received item that is malformed, which no
consumer receives (R3), is answered as acted on: the model's choice (log 40). -/
def State.resumeParked (s : State) (p : Parked) : State × ResumeOutcome :=
  match p.how with
  | .received => (s.passFrame p.station p.frame p.age, .actedOn)
  | .toSend what => (s.givePass p what, .passGiven)

/-- The parked frame is dealt with as DISCARD gives (R173). A STATION_CMD entry that is no longer in the queue counts as
removed (log 30). -/
def State.discardParked (s : State) (p : Parked) : State × ResumeOutcome :=
  match p.how with
  | .received => (s, .dropped)
  | .toSend (.relay n) =>
    (s.updLine (lineOf p.station) (fun l => { l with relay := l.relay.filter (fun e => !(e.number == n)) }), .removed)
  | .toSend what => (s.givePass p what, .passGiven)

/-- The parked frame, if there is one, is taken out of the watch and dealt with. -/
def State.dealParked (s : State) (mode : ResumeMode) : State × ResumeOutcome :=
  let s1 := s.updWatch (fun w => { w with parked := none })
  match s.watch.parked with
  | none => (s1, .noFrame)
  | some p => if mode = .discard then s1.discardParked p else s1.resumeParked p

/-- The held station is released: ARMED, and the step mark set by STEP (R173, R174). -/
def State.release (s : State) (mark : Option Nat) : State :=
  s.updWatch (fun w => { w with state := .armed, held := none, timeoutLeft := none, stepMark := mark })

end Sys2Proof.Machine
end

