-- ==== Sys2Proof/Machine/Lines.lean ====
section
/-! DEFINITION. The station line controllers: the turn, its exchanges, the arbiter and the station states (chapter 1). -/

namespace Sys2Proof.Machine

/-! ### Station states (R13 to R16) -/

/-- The relay entries of a station are discarded (R15, R16). -/
def State.dropRelay (s : State) (station : Nat) : State :=
  s.updLine (lineOf station) (fun l => { l with relay := l.relay.filter (fun e => !(e.station == station)) })

/-- A station becomes LOST: the report, its relay entries, its OUTSTANDING requests, the notice (R13, R16, R89). -/
def State.becomeLost (s : State) (station : Nat) : State :=
  let s1 := s.updStation station (fun t => { t with state := .lost, missCount := 8 })
  (((s1.addBars station .stationLost).dropRelay station).endOutstanding station).raise .stationLost (some station) 0

/-- A miss (R13). -/
def State.miss (s : State) (station : Nat) : State :=
  let t := s.station station
  match t.state with
  | .online => s.updStation station (fun t => { t with state := .silent, missCount := 1 })
  | .lost => s
  | .disabled => s
  | _ =>
    if 8 ≤ t.missCount + 1 then s.becomeLost station
    else s.updStation station (fun t => { t with missCount := t.missCount + 1 })

/-- A good frame from the waited-on station (R14). -/
def State.goodFrame (s : State) (station : Nat) : State :=
  let t := s.station station
  let s1 := s.updStation station (fun t => { t with state := .online, missCount := 0, seen := true })
  let s2 := if t.state = .lost then (s1.removeBars station .stationLost).raise .stationBack (some station) 0 else s1
  if t.seen then s2 else s2.removeBars station .notSeen

/-- The accept flag owed of a station (R9). -/
def State.oweAccept (s : State) (station : Nat) (b : Bool) : State :=
  s.updStation station (fun t => { t with acceptOwed := b })

/-! ### Rotations and the arbiter (R18, R19) -/

/-- The stations of a line, from its first drop. -/
def firstStation : Line → Nat
  | .a => 0
  | .b => 16

/-- A station has fast-poll need (R18). -/
def State.fastNeed (s : State) (station : Nat) : Bool :=
  (containersOf station).any (fun c =>
    match (s.container c).inlet.state with
    | .opened => true
    | .service => true
    | .lifting => true
    | _ => false)

/-- A station may get turns: it is enabled and not held (R18, R20). -/
def State.eligible (s : State) (station : Nat) : Bool := (s.station station).cfg.enabled && !s.isHeld station

/-- A station belongs to a rotation of its line (R18). -/
def State.inRotation (s : State) (rot : Rotation) (station : Nat) : Bool :=
  match rot with
  | .normal => s.eligible station
  | .fast => s.eligible station && s.fastNeed station

/-- The stations of a line in ascending order after a cursor, wrapping from the last drop to the first (R19). -/
def stationsAfter (l : Line) (cursor : Nat) : List Nat :=
  (List.range 16).map (fun k => firstStation l + (cursor - firstStation l + 1 + k) % 16)

/-- A rotation's cursor. -/
def LineState.cursor (d : LineState) : Rotation → Nat
  | .fast => d.fastCursor
  | .normal => d.normalCursor

/-- The other rotation. -/
def Rotation.other : Rotation → Rotation
  | .fast => .normal
  | .normal => .fast

/-- The line after a rotation has given the turn to a station: its cursor moves there and the mark names the other rotation
(R19). -/
def LineState.rotated (d : LineState) (rot : Rotation) (station : Nat) : LineState :=
  match rot with
  | .fast => { d with fastCursor := station, mark := .normal }
  | .normal => { d with normalCursor := station, mark := .fast }

/-- The next station of a rotation (R19). -/
def State.nextInRotation (s : State) (l : Line) (rot : Rotation) : Option Nat :=
  (stationsAfter l ((s.line l).cursor rot)).find? (s.inRotation rot)

/-- What the arbiter chooses: a station and the rotation used, none for a priority turn (R19). -/
def State.choose (s : State) (l : Line) : Option (Nat × Option Rotation) :=
  match (s.line l).priority.find? (fun i => !s.isHeld i) with
  | some i => some (i, none)
  | none =>
    let rot := (s.line l).mark
    match s.nextInRotation l rot with
    | some i => some (i, some rot)
    | none => (s.nextInRotation l rot.other).map (fun i => (i, some rot.other))

/-! ### Building and sending (R2, R4, R5) -/

/-- A frame of the part to a station (R2). -/
def toStation (station : Nat) (kind tag : Byte) (payload : List Byte) : Frame :=
  { dst := stationAddress station, src := ownAddress, kind := kind, tag := tag, payload := payload }

/-- The window field of an INLET_COMMAND: 0 for LOCK and SHOW (R4). -/
def InletCommand.windowField (c : InletCommand) : Nat :=
  match c.action with
  | .unlock => c.window
  | .serviceUnlock => c.window
  | _ => 0

/-- The payload of an INLET_COMMAND (R4, 11.7). -/
def InletCommand.payload (c : InletCommand) (slot : Nat) : List Byte :=
  be 1 slot ++ be 1 c.action.code ++ be 2 c.windowField ++ be 1 c.code.code ++ be 1 c.value

/-- The frame a look finds to send, if any (R5). -/
def State.look (s : State) (station : Nat) : Look → Option (Sent × Frame)
  | .inlet slot =>
    match (s.container (containerOf station slot)).inlet.command with
    | some c => some (.inlet slot, toStation station kindInletCommand 0#8 (c.payload slot))
    | none => none
  | .sample slot =>
    if (s.container (containerOf station slot)).fill.request = .pending then
      some (.sample slot, toStation station kindSampleRequest 0#8 (be 1 slot))
    else none
  | .relay =>
    match (s.line (lineOf station)).relay.find? (fun e => e.station == station) with
    | some e => some (.relay e.number, toStation station kindStationCmd e.tag e.payload)
    | none => none
  | .poll => some (.poll, toStation station kindPoll 0#8 [ofYesNo (s.station station).acceptOwed])

/-- The looks of a turn, in order (R5). -/
def turnLooks : List Look :=
  [.inlet 1, .inlet 2, .inlet 3, .inlet 4, .sample 1, .sample 2, .sample 3, .sample 4, .relay, .poll]

/-- The command has been sent as it stands (R7). -/
def InletCommand.markSent (c : InletCommand) : InletCommand := { c with sent := true }

/-- A frame goes onto the line: the exchange begins, and a sent inlet command is no new command any more (R5, R7). -/
def State.send (s : State) (l : Line) (station : Nat) (todo : List Look) (what : Sent) (f : Frame) (holdAfter : Bool) :
    State :=
  let s1 := match what with
    | .inlet slot => s.updInlet (containerOf station slot) (fun n =>
        { n with command := n.command.map InletCommand.markSent })
    | _ => s
  let e : Exchange := { what := what, frame := f, waiting := false, holdAfter := holdAfter }
  s1.updLine l (fun d => { d with turn := some { station := station, todo := todo, exchange := e } })

/-- A frame about to be sent is presented to the watch (R2): it is sent under a pass, sent, or parked with its station held
(R166, R167, R170, R175). A frame parked so is aged from its parking (log 38). The Bool says whether the frame was sent. -/
def State.presentFrame (s : State) (l : Line) (station : Nat) (todo : List Look) (what : Sent) (f : Frame) : State × Bool :=
  if what = .poll then (s.send l station todo what f false, true)
  else if s.watch.pass = some { station := station, what := what } then
    ((s.updWatch (fun w => { w with pass := none })).send l station todo what f false, true)
  else
    let s1 := s.captureIf station f
    match s.verdict station f with
    | .goOn => (s1.send l station todo what f false, true)
    | .holdAfter => (s1.send l station todo what f true, true)
    | .holdBefore =>
      (s1.beginHold station
        (some { station := station, frame := f, how := .toSend what, received := s.now, age := 0 }) 2, false)

/-- The turn goes on at the first look that finds a frame to send (R5). The Bool says whether a frame was sent. -/
def State.sendNext (l : Line) (station : Nat) : List Look → State → State × Bool
  | [], s => (s, false)
  | k :: rest, s =>
    match s.look station k with
    | none => State.sendNext l station rest s
    | some (what, f) => s.presentFrame l station rest what f

/-- A turn begins for a station, which leaves the priority list (R5, R17). -/
def State.beginTurn (s : State) (l : Line) (station : Nat) (rot : Option Rotation) : State × Bool :=
  let s1 := s.updLine l (fun d =>
    let d := { d with priority := d.priority.filter (fun i => !(i == station)) }
    match rot with
    | some r => d.rotated r station
    | none => d)
  State.sendNext l station turnLooks s1

/-- The arbiter gives the line to a station, if one is eligible; a turn that the watch ends at its first frame is followed
by another choice, up to a number of times (R19, R20; log 25). -/
def State.arbitrate (l : Line) : Nat → State → State
  | 0, s => s
  | n + 1, s =>
    match s.choose l with
    | none => s
    | some (i, rot) =>
      let r := s.beginTurn l i rot
      if r.2 then r.1 else State.arbitrate l n r.1

/-- An idle line of a RUNNING part chooses its next station (R12, R19). Two choices are enough: only the first can begin a
hold, and the turn of another station sends at least its POLL. -/
def State.kick (s : State) (l : Line) : State :=
  if s.running && (s.line l).turn.isNone then State.arbitrate l 2 s else s

/-- Both lines choose, A before B. -/
def State.kickBoth (s : State) : State := (s.kick .a).kick .b

/-! ### The end of a turn and of an exchange (R5 to R9, R169, R174) -/

/-- The line has no turn. -/
def State.clearTurn (s : State) (l : Line) : State := s.updLine l (fun d => { d with turn := none })

/-- A step mark that still names the station holds it again (R174). -/
def State.stepRehold (s : State) (station : Nat) : State :=
  if s.watch.stepMark = some station then s.beginHold station none (rehold s.watch.action) else s

/-- The turn ends, and the arbiter chooses the next station (R5, R19, R174). -/
def State.endTurn (s : State) (l : Line) (station : Nat) : State :=
  ((s.clearTurn l).stepRehold station).kick l

/-- A HOLD_AFTER match holds its station at the end of the exchange, unless the watch holds a station already (R169;
log 16). A WATCH_SET taken during the exchange does not undo the match (log 36). -/
def State.holdIf (s : State) (station : Nat) (b : Bool) : State :=
  if b ∧ s.watch.state ≠ .held then s.beginHold station none 1 else s

/-- The exchange has failed: a miss, and the end of the turn; a failed POLL exchange leaves the accept flag owed 0 (R6, R8,
R9, R13). -/
def State.exchangeFailed (s : State) (l : Line) (t : Turn) : State :=
  let s1 := if t.exchange.what = .poll then s.oweAccept t.station false else s
  ((s1.miss t.station).holdIf t.station t.exchange.holdAfter).endTurn l t.station

/-- A non-answer ends the turn without a miss; one to a POLL leaves the accept flag owed 0 (R8, R9). -/
def State.nonAnswer (s : State) (l : Line) (t : Turn) : State :=
  let s1 := if t.exchange.what = .poll then s.oweAccept t.station false else s
  (s1.holdIf t.station t.exchange.holdAfter).endTurn l t.station

/-- What an ACK does: it clears the inlet command unless a new one was set, makes the sample request OUTSTANDING, or removes
the relay entry (R6, R7). -/
def State.acked (s : State) (station : Nat) : Sent → State
  | .inlet slot => s.updInlet (containerOf station slot) (fun n =>
      match n.command with
      | some c => if c.sent then { n with command := none } else n
      | none => n)
  | .sample slot => s.acknowledgeSample (containerOf station slot)
  | .relay k => s.updLine (lineOf station) (fun d => { d with relay := d.relay.filter (fun e => !(e.number == k)) })
  | .poll => s

/-- The turn goes on after an ACK (R6). -/
def State.continueTurn (s : State) (l : Line) (t : Turn) : State :=
  let r := State.sendNext l t.station t.todo (s.clearTurn l)
  if r.2 then r.1 else r.1.endTurn l t.station

/-- An ACK completes a command exchange; the turn goes on, or ends where a HOLD_AFTER match holds the station (R6, R169;
log 16, log 36). -/
def State.ackReceived (s : State) (l : Line) (t : Turn) : State :=
  let s1 := s.acked t.station t.exchange.what
  if t.exchange.holdAfter ∧ s1.watch.state ≠ .held then (s1.beginHold t.station none 1).endTurn l t.station
  else s1.continueTurn l t

/-! ### The answer to a POLL (R9 to R11) -/

/-- The places taken in the relay queue to the center, a place kept for a parked STATION_MAINT counting as one (R11). -/
def State.centerPlaces (s : State) : Nat := s.link.toCenter.length + s.watch.keptPlaces

/-- A received frame passes the watch: it goes to its consumer, then its station is held, or it is parked (R166 to R170). -/
def State.passWatch (s : State) (station : Nat) (f : Frame) : State :=
  let s1 := s.captureIf station f
  match s.verdict station f with
  | .goOn => s1.passFrame station f 0
  | .holdAfter => (s1.passFrame station f 0).beginHold station none 1
  | .holdBefore => s1.beginHold station (some (s.parkReceived station f)) 2

/-- A STATION_MAINT refused for room passes the watch: it is captured and may hold its station, with nothing parked (R170). -/
def State.refusedPassesWatch (s : State) (station : Nat) (f : Frame) : State :=
  let s1 := s.captureIf station f
  match s.verdict station f with
  | .goOn => s1
  | .holdAfter => s1.beginHold station none 1
  | .holdBefore => s1.beginHold station none 2

/-- An item answers a POLL: a repeat, a STATION_MAINT refused for room, or a taken item (R10, R11). -/
def State.itemAnswer (s : State) (station : Nat) (f : Frame) : State :=
  if (s.station station).lastItem = some f.tag.toNat then s.oweAccept station true
  else if f.kind = kindStationMaint ∧ 8 ≤ s.centerPlaces then
    (s.oweAccept station false).refusedPassesWatch station f
  else
    (s.updStation station (fun t => { t with lastItem := some f.tag.toNat, acceptOwed := true })).passWatch station f

/-- The answer to a POLL: STATION_STATUS, an item, or a non-answer (R8 to R11). -/
def State.pollAnswer (s : State) (l : Line) (t : Turn) (f : Frame) : State :=
  if f.kind = kindStationStatus then
    ((s.oweAccept t.station true).passWatch t.station f).endTurn l t.station
  else if isItemKind f.kind then (s.itemAnswer t.station f).endTurn l t.station
  else s.nonAnswer l t

/-- A good frame answers the exchange in progress (R6, R8, R14). -/
def State.takeAnswer (s : State) (l : Line) (t : Turn) (f : Frame) : State :=
  let s1 := s.goodFrame t.station
  if t.exchange.what = .poll then s1.pollAnswer l t f
  else if f.kind = kindAck then s1.ackReceived l t
  else s1.nonAnswer l t

/-- The bytes of a frame whose marker was seen within the window of the exchange in progress (R1, R8). -/
def State.frameArrives (s : State) (l : Line) (t : Turn) (bytes : List Byte) : State :=
  match receive bytes with
  | .nothing => s
  | .bad => s.exchangeFailed l t
  | .good f => if f.dst = ownAddress ∧ f.src = stationAddress t.station then s.takeAnswer l t f else s

/-- The turn of a line that waits for an answer. -/
def State.waitingTurn (s : State) (l : Line) : Option Turn :=
  match (s.line l).turn with
  | some t => if t.exchange.waiting then some t else none
  | none => none

/-! ### Enabling and disabling (R15, R89) -/

/-- A station's turn ends at once, with no hold again and no hold to follow (R15; log 17, log 18). -/
def State.dropTurn (s : State) (station : Nat) : State :=
  s.updLine (lineOf station) (fun d =>
    match d.turn with
    | some t => if t.station = station then { d with turn := none } else d
    | none => d)

/-- A station is disabled (R15). -/
def State.disableStation (s : State) (station : Nat) : State :=
  let lost := (s.station station).state = .lost
  let s1 := (s.updStation station (fun t => { t with state := .disabled })).addBars station .stationDisabled
  let s2 := if lost then s1.removeBars station .stationLost else s1
  let s3 := s2.updLine (lineOf station) (fun d => { d with priority := d.priority.filter (fun i => !(i == station)) })
  (((s3.dropRelay station).dropTurn station).endOutstanding station)

/-- A station is enabled (R15). -/
def State.enableStation (s : State) (station : Nat) : State :=
  ((s.updStation station (fun t => { t with state := .unknown, missCount := 0, seen := false })).addBars station
    .notSeen).removeBars station .stationDisabled

/-! ### The meanings of the line events -/

/-- The frame has gone out and the answer is awaited (R8). -/
def Turn.awaitAnswer (t : Turn) : Turn := { t with exchange := { t.exchange with waiting := true } }

/-- LINE_FRAME_SENT: the response window of the exchange opens (R8). -/
def execLineFrameSent (l : Line) (s : State) : Host.Outcome State Fault Refusal :=
  .next (s.updLine l (fun d => { d with turn := d.turn.map Turn.awaitAnswer }))

/-- RESPONSE_WINDOW_EXPIRED: the exchange in progress has failed (R8). -/
def execResponseWindowExpired (l : Line) (s : State) : Host.Outcome State Fault Refusal :=
  .next (match s.waitingTurn l with
    | some t => s.exchangeFailed l t
    | none => s)

/-- LINE_FRAME_RECEIVED: a frame is checked and discarded, or treated as the answer (R1, R8). -/
def execLineFrameReceived (l : Line) (markerInWindow : Bool) (bytes : List Byte) (s : State) :
    Host.Outcome State Fault Refusal :=
  .next (match s.waitingTurn l with
    | some t => if markerInWindow then s.frameArrives l t bytes else s
    | none => s)

end Sys2Proof.Machine
end

