-- ==== Sys2Proof/Machine/Records.lean ====
section
/-! DEFINITION. The tables and their record images: layouts, ranges, checks, and what a read shows (11.3, 11.7). -/

namespace Sys2Proof.Machine

/-! ### Tables -/

/-- The ten tables, in table-code order (11.3). -/
inductive Table where
  | parameters
  | station
  | bank
  | fraction
  | shape
  | container
  | card
  | household
  | round
  | noticeClass
  deriving DecidableEq, Repr

def Table.ofCode : Nat → Option Table
  | 0 => some .parameters
  | 1 => some .station
  | 2 => some .bank
  | 3 => some .fraction
  | 4 => some .shape
  | 5 => some .container
  | 6 => some .card
  | 7 => some .household
  | 8 => some .round
  | 9 => some .noticeClass
  | _ => none

def Table.code : Table → Nat
  | .parameters => 0
  | .station => 1
  | .bank => 2
  | .fraction => 3
  | .shape => 4
  | .container => 5
  | .card => 6
  | .household => 7
  | .round => 8
  | .noticeClass => 9

/-- The first and last write index (11.3). -/
def Table.writeRange : Table → Nat × Nat
  | .parameters => (0, 0)
  | .station => (0, 31)
  | .bank => (0, 15)
  | .fraction => (0, 5)
  | .shape => (0, 7)
  | .container => (0, 127)
  | .card => (1, 4095)
  | .household => (0, 2047)
  | .round => (0, 3)
  | .noticeClass => (1, 24)

/-- The first and last read index (11.3). -/
def Table.readRange : Table → Nat × Nat
  | .card => (0, 4095)
  | .round => (0, 11)
  | t => t.writeRange

/-- An index lies in a range. -/
def inRange (r : Nat × Nat) (i : Nat) : Bool := decide (r.1 ≤ i) && decide (i ≤ r.2)

/-- The length of a record image (11.7). -/
def Table.imageLength : Table → Nat
  | .parameters => 14
  | .station => 9
  | .bank => 2
  | .fraction => 2
  | .shape => 18
  | .container => 75
  | .card => 15
  | .household => 22
  | .round => 66
  | .noticeClass => 6

/-- The length of the image a read of an index shows: 60 for the done times of a round (11.3, 11.7). -/
def Table.readLength (t : Table) (i : Nat) : Nat := if t = .round ∧ 4 ≤ i then 60 else t.imageLength

/-- The number of mask bytes of a write (R182). -/
def Table.maskLength (t : Table) : Nat := (t.imageLength + 7) / 8

/-! ### Configuration positions (11.7) -/

def Params.bytes (p : Params) : List Byte :=
  be 2 p.districtCode ++ be 2 p.cardLimit ++ be 1 p.periodLength ++ be 2 p.anchorDay ++ be 1 p.invalidLimit ++
    be 2 p.serviceWindow ++ be 2 p.settleTime ++ be 2 p.holdTimeout

def StationCfg.bytes (p : StationCfg) : List Byte :=
  [ofYesNo p.enabled] ++ be 1 p.bank ++ be 1 p.grantWindow ++ be 1 p.slotCount

def Bank.bytes (p : Bank) : List Byte := [ofYesNo p.residentialOnly] ++ be 1 p.displayNumber

def FractionRec.bytes (p : FractionRec) : List Byte := be 1 p.nominal ++ [ofYesNo p.metered]

/-- Nine points of two bytes each. -/
def Shape.bytes (p : Shape) : List Byte := (List.range 9).flatMap (fun k => be 2 (p.point k))

def ContainerCfg.bytes (p : ContainerCfg) : List Byte :=
  [ofYesNo p.present] ++ be 1 p.fraction.code ++ be 2 p.capacity ++ be 2 p.height ++ be 2 p.deadZone ++ be 1 p.shape ++
    be 1 p.weight ++ be 2 p.tolerance ++ be 1 p.sinkStep ++ be 1 p.qMin ++ be 1 p.sampleInterval ++ be 1 p.extraEvery ++
    be 2 p.alertLevel ++ be 2 p.fullLevel ++ be 1 p.confirmCount ++ be 2 p.residueLimit ++ index1 p.alternate

def CardCfg.bytes (p : CardCfg) : List Byte :=
  be 1 p.generation ++ be 1 p.cls.code ++ be 1 p.status.code ++ index2 p.household ++ be 1 p.fractions.toNat ++
    be 2 p.banks.toNat

def HouseholdCfg.bytes (p : HouseholdCfg) : List Byte :=
  [ofYesNo p.metered] ++ p.allowance.toList.flatMap (be 1)

/-- Twenty-four entries of one byte, FFh beyond the stop count (11.7). -/
def stopEntries (entries : List Byte) : List Byte := (entries ++ List.replicate 24 0xFF#8).take 24

/-- A round's configuration with a list of stop containers; a crew card of none is 0000h (11.7). -/
def RoundCfg.bytes (p : RoundCfg) (stops : List Nat) : List Byte :=
  be 1 p.fraction.code ++ be 2 (p.crew.getD 0) ++ [ofYesNo p.standing] ++ be 3 p.releaseTime ++ be 2 p.deadlineLen ++
    be 1 stops.length ++ stopEntries (stops.flatMap (be 1))

/-- The stops that are configuration: those not UNPLANNED (R135). -/
def Round.cfgStops (d : Round) : List Nat := (d.stops.filter (fun p => decide (p.origin ≠ .unplanned))).map Stop.container

/-- The configuration positions of a record as they stand, UNPLANNED stops left out. -/
def State.configBytes (s : State) (t : Table) (i : Nat) : List Byte :=
  match t with
  | .parameters => s.params.bytes
  | .station => (s.station i).cfg.bytes
  | .bank => (s.bank i).bytes
  | .fraction => (Tab.get FractionRec.blank s.fractions i).bytes
  | .shape => (s.shape i).bytes
  | .container => (s.container i).cfg.bytes
  | .card => (s.card i).cfg.bytes
  | .household => (s.household i).cfg.bytes
  | .round => (s.round i).cfg.bytes (s.round i).cfgStops
  | .noticeClass => be 1 (s.noticeClass i).priority

/-! ### Numeric quantities and their ranges (R182 step 7) -/

/-- A numeric quantity of a record: its place, its length and its range. -/
structure NumField where
  offset : Nat
  len    : Nat
  lo     : Nat
  hi     : Nat
  deriving DecidableEq, Repr

/-- The numeric quantities of a table that have a range of their own (R36, R48, R84, R99, R101, R128, R136, R148, R164,
R182, 2.4, 2.5). -/
def Table.numeric : Table → List NumField
  | .parameters => [⟨2, 2, 1, 4096⟩, ⟨4, 1, 1, 31⟩, ⟨7, 1, 2, 15⟩, ⟨8, 2, 60, 900⟩, ⟨10, 2, 30, 600⟩, ⟨12, 2, 10, 600⟩]
  | .station => [⟨2, 1, 5, 60⟩, ⟨3, 1, 1, 4⟩]
  | .container =>
    [⟨2, 2, 500, 5000⟩, ⟨4, 2, 300, 3000⟩, ⟨6, 2, 0, 400⟩, ⟨9, 1, 1, 8⟩, ⟨10, 2, 0, 500⟩, ⟨12, 1, 0, 200⟩,
     ⟨13, 1, 0, 15⟩, ⟨14, 1, 1, 240⟩, ⟨15, 1, 0, 15⟩, ⟨16, 2, 100, 1000⟩, ⟨18, 2, 100, 1000⟩, ⟨20, 1, 1, 8⟩,
     ⟨21, 2, 0, 500⟩]
  | .card => [⟨0, 1, 0, 15⟩]
  | .round => [⟨4, 3, 0, 86399⟩, ⟨7, 2, 10, 1440⟩]
  | .noticeClass => [⟨0, 1, 0, 3⟩]
  | _ => []

/-- A value replaced by the nearer bound of its range when it falls outside (00, Conventions). -/
def clamp (lo hi v : Nat) : Nat := max lo (min hi v)

/-- One numeric quantity of the bytes clamped to its range. -/
def clampField (bytes : List Byte) (n : NumField) : List Byte :=
  bytes.take n.offset ++ be n.len (clamp n.lo n.hi (field bytes n.offset n.len)) ++ bytes.drop (n.offset + n.len)

/-- Every numeric quantity of a table clamped (R182 step 7). -/
def Table.clampBytes (t : Table) (bytes : List Byte) : List Byte := t.numeric.foldl clampField bytes

/-! ### Reading a record's configuration (R182 step 8) -/

/-- A one-byte index below a bound, or none as FFh. -/
def indexOrNone (v ofNone bound : Nat) : Option (Option Nat) :=
  if v = ofNone then some none else if v < bound then some (some v) else none

def parseParams (b : List Byte) : Params :=
  { districtCode := field b 0 2, cardLimit := field b 2 2, periodLength := field b 4 1, anchorDay := field b 5 2,
    invalidLimit := field b 7 1, serviceWindow := field b 8 2, settleTime := field b 10 2, holdTimeout := field b 12 2 }

/-- A bank is 0-15 (R128). -/
def parseStation (b : List Byte) : Option StationCfg :=
  match yesNo (byteAt b 0) with
  | some e =>
    if field b 1 1 < 16 then
      some { enabled := e, bank := field b 1 1, grantWindow := field b 2 1, slotCount := field b 3 1 }
    else none
  | none => none

def parseBank (b : List Byte) : Option Bank :=
  (yesNo (byteAt b 0)).map (fun r => { residentialOnly := r, displayNumber := field b 1 1 })

def parseFraction (b : List Byte) : Option FractionRec :=
  (yesNo (byteAt b 1)).map (fun m => { nominal := field b 0 1, metered := m })

/-- No number is less than the one before it. -/
def nonDecreasing : List Nat → Bool
  | a :: b :: rest => decide (a ≤ b) && nonDecreasing (b :: rest)
  | _ => true

/-- A curve starts at 0, ends at 1000 and does not decrease (R83). -/
def parseShape (b : List Byte) : Option Shape :=
  let p := (List.range 9).map (fun k => field b (2 * k) 2)
  if p.head? = some 0 ∧ p.getLast? = some 1000 ∧ nonDecreasing p then some { points := p } else none

/-- A shape is 0-7, an alternate none or 0-127, and the full level is above the alert level (R84, R99, R128). -/
def parseContainer (b : List Byte) : Option ContainerCfg :=
  match yesNo (byteAt b 0), Fraction.ofCode (field b 1 1), indexOrNone (field b 23 1) 0xFF 128 with
  | some p, some f, some alt =>
    if field b 8 1 < 8 ∧ field b 16 2 < field b 18 2 then
      some { present := p, fraction := f, capacity := field b 2 2, height := field b 4 2, deadZone := field b 6 2,
             shape := field b 8 1, weight := field b 9 1, tolerance := field b 10 2, sinkStep := field b 12 1,
             qMin := field b 13 1, sampleInterval := field b 14 1, extraEvery := field b 15 1,
             alertLevel := field b 16 2, fullLevel := field b 18 2, confirmCount := field b 20 1,
             residueLimit := field b 21 2, alternate := alt }
    else none
  | _, _, _ => none

/-- A household is none or 0-2047, a fraction set names the fractions 0-5 (R36). -/
def parseCardRecord (b : List Byte) : Option CardCfg :=
  match CardClass.ofCode (field b 1 1), CardStatus.ofCode (field b 2 1), indexOrNone (field b 3 2) 0xFFFF 2048 with
  | some c, some st, some h =>
    if field b 5 1 < 64 then
      some { generation := field b 0 1, cls := c, status := st, household := h,
             fractions := BitVec.ofNat 6 (field b 5 1), banks := BitVec.ofNat 16 (field b 6 2) }
    else none
  | _, _, _ => none

/-- Billing mode FLAT is 0 and METERED is 1 (R51, 4.1). -/
def parseHousehold (b : List Byte) : Option HouseholdCfg :=
  (yesNo (byteAt b 0)).map (fun m =>
    { metered := m
      allowance := { residual := field b 1 1, paper := field b 2 1, glass := field b 3 1, packaging := field b 4 1,
                     organic := field b 5 1, textile := field b 6 1 } })

/-- No number stands twice. -/
def distinct : List Nat → Bool
  | [] => true
  | a :: rest => !rest.contains a && distinct rest

/-- The crew card is none or 1-4095, the stops number at most 24, each a container 0-127, none twice (R136). -/
def parseRound (b : List Byte) : Option (RoundCfg × List Nat) :=
  let stops := ((b.drop 10).take (field b 9 1)).map BitVec.toNat
  match Fraction.ofCode (field b 0 1), indexOrNone (field b 1 2) 0 4096, yesNo (byteAt b 3) with
  | some f, some crew, some st =>
    if field b 9 1 ≤ 24 ∧ stops.all (fun c => decide (c < 128)) ∧ distinct stops then
      some ({ fraction := f, crew := crew, standing := st, releaseTime := field b 4 3, deadlineLen := field b 7 2 }, stops)
    else none
  | _, _, _ => none

/-- The configuration of a record of any table. -/
inductive Record where
  | parameters (p : Params)
  | station (p : StationCfg)
  | bank (p : Bank)
  | fraction (p : FractionRec)
  | shape (p : Shape)
  | container (p : ContainerCfg)
  | card (p : CardCfg)
  | household (p : HouseholdCfg)
  | round (p : RoundCfg) (stops : List Nat)
  | noticeClass (priority : Nat)
  deriving DecidableEq, Repr

/-- The configuration that clamped bytes give, none where a check of R182 step 8 on the record alone fails. -/
def Table.parse (t : Table) (b : List Byte) : Option Record :=
  match t with
  | .parameters => some (.parameters (parseParams b))
  | .station => (parseStation b).map .station
  | .bank => (parseBank b).map .bank
  | .fraction => (parseFraction b).map .fraction
  | .shape => (parseShape b).map .shape
  | .container => (parseContainer b).map .container
  | .card => (parseCardRecord b).map .card
  | .household => (parseHousehold b).map .household
  | .round => (parseRound b).map (fun r => .round r.1 r.2)
  | .noticeClass => some (.noticeClass (field b 0 1))

/-! ### What a read shows (R183, 11.7) -/

/-- n bytes of a layout position whose field is absent (log 9). -/
def absent (site n : Nat) : List Byte := (List.range n).map (Config.absentByte site)

/-- The bytes of an optional number, free when it is absent. -/
def optBytes (site n : Nat) (v : Option Nat) : List Byte :=
  match v with
  | some k => be n k
  | none => absent site n

/-- n bytes of FFh. -/
def ffBytes (n : Nat) : List Byte := List.replicate n 0xFF#8

/-- A time, or FFh throughout. -/
def timeOrFF : Option Time → List Byte
  | some t => timeBytes t
  | none => ffBytes 5

/-- The runtime positions of a STATION record. -/
def State.stationRuntime (s : State) (i : Nat) : List Byte :=
  let t := s.station i
  be 1 t.state.code ++ be 1 t.missCount ++
    be 1 (bit t.seen 0 + bit t.acceptOwed 1 + bit (s.isHeld i) 2 + bit t.lastItem.isSome 3 + bit (s.fastNeed i) 4 +
      bit ((s.line (lineOf i)).priority.contains i) 5) ++
    optBytes 1 1 t.lastItem ++ be 1 t.health.code

/-- The request state and age positions: an age stands only while OUTSTANDING. -/
def SampleRequest.bytes (q : SampleRequest) : List Byte :=
  be 1 q.code ++
    (match q with
     | .outstanding age => be 1 age
     | _ => absent 2 1)

/-- The pending command positions: action FFh when absent. -/
def commandBytes : Option InletCommand → List Byte
  | some c => be 1 c.action.code ++ be 2 c.windowField ++ be 1 c.code.code ++ be 1 c.value
  | none => [0xFF#8] ++ absent 3 4

/-- The grant positions. -/
def grantBytes : Option Grant → List Byte
  | some g => be 2 g.card ++ index2 g.household ++ be 1 g.fraction.code ++ be 2 g.period ++ be 1 g.windowLeft
  | none => ffBytes 8

/-- The service positions; a stopped window or limit is shown as absent (log 22). -/
def serviceBytes : Option Service → List Byte
  | some v => index2 v.crew ++ index1 v.round ++ index1 v.stop ++ index2 v.windowLeft ++ index2 v.limitLeft
  | none => ffBytes 8

/-- The due entry positions. -/
def State.dueBytes (s : State) (c : Nat) : List Byte :=
  match dueEntry s.planner.due c with
  | some e => be 1 e.cls.code ++ index1 (duePlace s.planner.due c 1) ++ timeBytes e.since ++ index1 (s.assignedRound c)
  | none => ffBytes 8

/-- The flags of a CONTAINER record. -/
def Container.flags (k : Container) : Nat :=
  bit k.fill.risePending 0 + bit k.fill.postLift 1 + bit k.forced 2 + bit k.missed 3 + bit k.inlet.lastDrum.isSome 4 +
    bit k.fill.lastTof.isSome 5 + bit k.inlet.grant.isSome 6 + bit k.inlet.service.isSome 7

/-- The reserved flags of a CONTAINER record. -/
def Inlet.reservedFlags (n : Inlet) : Nat :=
  bit ((n.grant.map Grant.reserved).getD false) 0 + bit ((n.service.map Service.reserved).getD false) 1

/-- The runtime positions of a CONTAINER record. -/
def State.containerRuntime (s : State) (c : Nat) : List Byte :=
  let k := s.container c
  index2 k.fill.estimate ++ be 1 k.fill.status.code ++ be 1 k.fill.fullCount ++ be 1 k.fill.sensor.code ++
    be 1 k.fill.streak ++ be 1 k.fill.stuck ++ be 1 k.flags ++ optBytes 4 2 k.fill.lastTof ++ be 2 k.fill.deposits ++
    be 1 (k.fill.countdown.getD 0) ++ k.fill.request.bytes ++ be 1 k.inlet.state.code ++ be 1 k.inlet.bars.code ++
    commandBytes k.inlet.command ++ optBytes 5 2 k.inlet.lastDrum ++ be 2 k.inlet.unattributed ++
    grantBytes k.inlet.grant ++ serviceBytes k.inlet.service ++ be 1 k.inlet.reservedFlags ++ s.dueBytes c

/-- The last seen positions of a CARD record: code FFh when absent. -/
def lastSeenBytes : Option LastSeen → List Byte
  | some l => timeBytes l.time ++ be 1 l.container ++ be 1 l.code.code
  | none => absent 6 6 ++ [0xFF#8]

/-- The runtime positions of a HOUSEHOLD record. -/
def Household.runtime (h : Household) : List Byte :=
  h.used.toList.flatMap (be 1) ++ [ofYesNo h.epoch.isSome] ++ optBytes 7 2 h.epoch ++ h.held.toList.flatMap (be 1)

/-- The state and origin of a stop in one byte. -/
def Stop.byte (p : Stop) : Byte := BitVec.ofNat 8 (StopState.code p.state + 16 * p.origin.code)

/-- The image of a ROUND record, with every stop in list order (R135). -/
def Round.image (d : Round) : List Byte :=
  d.cfg.bytes (d.stops.map Stop.container) ++ be 1 d.state.code ++ be 1 (RoundCommand.code d.requested) ++
    be 1 (ClosingCause.code d.closing) ++ timeOrFF d.deadline ++ stopEntries (d.stops.map Stop.byte)

/-- The done times of twelve stops of a round from a place on (R183). -/
def Round.doneTimes (d : Round) (start : Nat) : List Byte :=
  (List.range 12).flatMap (fun k => timeOrFF ((d.stops[start + k]?).bind Stop.doneTime))

/-- The subject and value positions of a last raise; a subject of none is 0000h (log 26). -/
def raiseBytes (site : Nat) : Option Raise → List Byte
  | some r => be 2 (r.subject.getD 0) ++ be 2 r.value
  | none => absent site 4

/-- The runtime positions of a NOTICE_CLASS record. -/
def NoticeClass.runtime (c : NoticeClass) : List Byte :=
  be 1 (bit c.flag 0 + bit c.overrun 1 + bit c.last.isSome 2 + bit ((c.last.bind Raise.subject).isSome) 3) ++
    raiseBytes 8 c.last

/-- The whole record image a read of an index shows (R183). -/
def State.image (s : State) (t : Table) (i : Nat) : List Byte :=
  match t with
  | .station => s.configBytes t i ++ s.stationRuntime i
  | .container => s.configBytes t i ++ s.containerRuntime i
  | .card => s.configBytes t i ++ lastSeenBytes (s.card i).lastSeen
  | .household => s.configBytes t i ++ (s.household i).runtime
  | .round => if i < 4 then (s.round i).image else (s.round ((i - 4) / 2)).doneTimes (12 * ((i - 4) % 2))
  | .noticeClass => s.configBytes t i ++ (s.noticeClass i).runtime
  | _ => s.configBytes t i

end Sys2Proof.Machine
end

