-- ==== Sys2Proof/Machine/Image.lean ====
section
/-! DEFINITION. The serial flash's image area as addressed bytes, the stored image, and its judging and loading
(11.4, R188). -/

namespace Sys2Proof.Machine

/-! ### The image area -/

/-- What an unlisted address of the image area reads as: FFh, the erased value (log 6). -/
def Memory.unlisted : Byte := 0xFF#8

/-- The byte listed for an address, if any. -/
def Memory.find : List Host.Cell → Nat → Option Byte
  | [], _ => none
  | (a, b) :: rest, k => if a = k then some b else Memory.find rest k

/-- The byte at an address of the image area. -/
def Memory.read (cells : List Host.Cell) (a : Nat) : Byte := (Memory.find cells a).getD Memory.unlisted

/-- The cells that hold bytes from an address on, in canonical form: FFh is not listed. -/
def Memory.ofBytes : Nat → List Byte → List Host.Cell
  | _, [] => []
  | a, b :: rest => if b = Memory.unlisted then Memory.ofBytes (a + 1) rest else (a, b) :: Memory.ofBytes (a + 1) rest

/-- Addresses rise strictly from a bound on, and no cell holds the unlisted value. -/
def Memory.wfFrom : Nat → List Host.Cell → Bool
  | _, [] => true
  | lo, (a, b) :: rest => decide (lo ≤ a) && decide (b ≠ Memory.unlisted) && Memory.wfFrom (a + 1) rest

/-- The canonical form of the image area. -/
def Memory.wf (cells : List Host.Cell) : Bool := Memory.wfFrom 0 cells

/-- n bytes from an address on. -/
def Memory.bytes (cells : List Host.Cell) (a n : Nat) : List Byte := (List.range n).map (fun k => Memory.read cells (a + k))

/-! ### The stored image (R185) -/

/-- The length of the body (R185). -/
def bodyLength : Nat := 50666

/-- The length of the whole image: header, body, CRC-32 (R185). -/
def imageLength : Nat := 6 + bodyLength + 4

/-- The configuration positions a table holds in the image for a record: card record 0 is stored blank (R185). -/
def State.storedBytes (s : State) (t : Table) (i : Nat) : List Byte :=
  if t = .card ∧ i = 0 then CardCfg.blank.bytes else s.configBytes t i

/-- The record indices of a table in the image, in index order. -/
def Table.storedIndices : Table → List Nat
  | .card => List.range 4096
  | .noticeClass => (List.range 24).map (· + 1)
  | t => List.range (t.writeRange.2 + 1)

/-- The body: every table in table-code order, every record in index order (R185). -/
def State.imageBody (s : State) : List Byte :=
  [Table.parameters, .station, .bank, .fraction, .shape, .container, .card, .household, .round, .noticeClass].flatMap
    (fun t => t.storedIndices.flatMap (s.storedBytes t))

/-- The header: format 0001h and the body length (R185). -/
def imageHeader : List Byte := be 2 1 ++ be 4 bodyLength

/-- The whole image of the configuration as it stands (R185). -/
def State.storedImage (s : State) : List Byte :=
  imageHeader ++ s.imageBody ++ be 4 (crc32 (imageHeader ++ s.imageBody)).toNat

/-! ### Judging (R188) -/

/-- The image area is judged: BLANK by its header, VALID by format, length and CRC-32, else CORRUPT; also CORRUPT when the
flash port does not respond (R188). -/
def judge (responds : Bool) (cells : List Host.Cell) : ImageState :=
  if !responds then .corrupt
  else if Memory.bytes cells 0 6 = ffBytes 6 then .blank
  else if Memory.bytes cells 0 6 = imageHeader ∧
      ofBe (Memory.bytes cells (6 + bodyLength) 4) = (crc32 (Memory.bytes cells 0 (6 + bodyLength))).toNat then .valid
  else .corrupt

/-! ### Loading (R188) -/

/-- The place of a record's configuration positions in the image area (R185). -/
def recordAddress (t : Table) (i : Nat) : Nat :=
  match t with
  | .parameters => 6
  | .station => 6 + 14 + 4 * i
  | .bank => 6 + 142 + 2 * i
  | .fraction => 6 + 174 + 2 * i
  | .shape => 6 + 186 + 18 * i
  | .container => 6 + 330 + 24 * i
  | .card => 6 + 3402 + 8 * i
  | .household => 6 + 36170 + 7 * i
  | .round => 6 + 50506 + 34 * i
  | .noticeClass => 6 + 50642 + (i - 1)

/-- The number of configuration positions of a record (R185). -/
def Table.configLength : Table → Nat
  | .parameters => 14
  | .station => 4
  | .bank => 2
  | .fraction => 2
  | .shape => 18
  | .container => 24
  | .card => 8
  | .household => 7
  | .round => 34
  | .noticeClass => 1

/-- Exactly n bytes: what stands beyond them is left out, and a missing byte is 00h. -/
def exactly (n : Nat) (bytes : List Byte) : List Byte := (bytes ++ List.replicate n 0#8).take n

/-- The configuration a record takes from its stored bytes. Bytes within every range and list are taken as they are. Other
bytes stand for a free legal record (log 8). -/
def Table.load (t : Table) (i : Nat) (stored : List Byte) : Option Record :=
  match (if t.clampBytes stored = stored then t.parse stored else none) with
  | some r => some r
  | none => t.parse (t.clampBytes (exactly t.configLength (Config.unlistedRecord t.code i stored)))

/-- The stored configuration of a record. -/
def loadRecord (cells : List Host.Cell) (t : Table) (i : Nat) : Option Record :=
  t.load i (Memory.bytes cells (recordAddress t i) t.configLength)

/-- The parameters record that a VALID image gives; blank where the bytes stand for no legal record (log 8). -/
def loadedParams (cells : List Host.Cell) : Params :=
  match loadRecord cells .parameters 0 with
  | some (.parameters p) => p
  | _ => Params.blank

/-- The station's configuration that a VALID image gives; blank where the bytes stand for no legal record (log 8). -/
def loadedStation (cells : List Host.Cell) (i : Nat) : StationCfg :=
  match loadRecord cells .station i with
  | some (.station p) => p
  | _ => StationCfg.blank

/-- The bank record that a VALID image gives; blank where the bytes stand for no legal record (log 8). -/
def loadedBank (cells : List Host.Cell) (i : Nat) : Bank :=
  match loadRecord cells .bank i with
  | some (.bank p) => p
  | _ => Bank.blank

/-- The fraction record that a VALID image gives; blank where the bytes stand for no legal record (log 8). -/
def loadedFraction (cells : List Host.Cell) (i : Nat) : FractionRec :=
  match loadRecord cells .fraction i with
  | some (.fraction p) => p
  | _ => FractionRec.blank

/-- The shape record that a VALID image gives; blank where the bytes stand for no legal record (log 8). -/
def loadedShape (cells : List Host.Cell) (i : Nat) : Shape :=
  match loadRecord cells .shape i with
  | some (.shape p) => p
  | _ => Shape.blank

/-- The container's configuration that a VALID image gives; blank where the bytes stand for no legal record (log 8). -/
def loadedContainer (cells : List Host.Cell) (i : Nat) : ContainerCfg :=
  match loadRecord cells .container i with
  | some (.container p) => p
  | _ => ContainerCfg.blank

/-- The household's configuration that a VALID image gives; blank where the bytes stand for no legal record (log 8). -/
def loadedHousehold (cells : List Host.Cell) (i : Nat) : HouseholdCfg :=
  match loadRecord cells .household i with
  | some (.household p) => p
  | _ => HouseholdCfg.blank

/-- The round's configuration and stops that a VALID image gives; blank where the bytes stand for no legal record (log 8). -/
def loadedRound (cells : List Host.Cell) (i : Nat) : RoundCfg × List Nat :=
  match loadRecord cells .round i with
  | some (.round p stops) => (p, stops)
  | _ => (RoundCfg.blank, [])

/-- The notice class's priority that a VALID image gives; blank where the bytes stand for no legal record (log 8). -/
def loadedPriority (cells : List Host.Cell) (i : Nat) : Nat :=
  match loadRecord cells .noticeClass i with
  | some (.noticeClass p) => p
  | _ => 1

/-- The card's configuration that a VALID image gives; card 0 is blank (R36). -/
def loadedCard (cells : List Host.Cell) (i : Nat) : CardCfg :=
  if i = 0 then CardCfg.blank
  else match loadRecord cells .card i with
    | some (.card p) => p
    | _ => CardCfg.blank

/-- A stop of a configuration: PLANNED, not started (R135, R136). -/
def plannedStop (c : Nat) : Stop := { container := c, state := none, origin := .planned, doneTime := none }

/-- The state with the configuration of every table replaced by a VALID image's, and every other field of a record at its
blank value but the retained counts of the households (R188, R50). -/
def State.loadImage (s : State) : State :=
  { s with
    params := loadedParams s.flash
    stations := Tab.ofFn Station.blank 32 (fun i => { Station.blank with cfg := loadedStation s.flash i })
    banks := Tab.ofFn Bank.blank 16 (loadedBank s.flash)
    fractions := Tab.ofFn FractionRec.blank 6 (loadedFraction s.flash)
    shapes := Tab.ofFn Shape.blank 8 (loadedShape s.flash)
    containers := Tab.ofFn Container.blank 128 (fun c => { Container.blank with cfg := loadedContainer s.flash c })
    cards := Tab.ofFn Card.blank 4096 (fun i => { Card.blank with cfg := loadedCard s.flash i })
    households := Tab.ofFn Household.blank 2048 (fun h => { s.household h with cfg := loadedHousehold s.flash h })
    rounds := Tab.ofFn Round.blank 4 (fun r =>
      { Round.blank with cfg := (loadedRound s.flash r).1, stops := (loadedRound s.flash r).2.map plannedStop })
    classes := Tab.ofFn NoticeClass.blank 25 (fun n =>
      if n = 0 then NoticeClass.blank else { NoticeClass.blank with priority := loadedPriority s.flash n }) }

/-- The state with every table at its defaults, but for the retained counts of the households (R188, R50). -/
def State.loadDefaults (s : State) : State :=
  { s with
    params := Params.blank
    stations := { entries := [] }
    banks := { entries := [] }
    fractions := { entries := [] }
    shapes := { entries := [] }
    containers := { entries := [] }
    cards := { entries := [] }
    households := Tab.map Household.blank (fun _ h => { h with cfg := HouseholdCfg.blank }) s.households
    rounds := { entries := [] }
    classes := { entries := [] } }

/-! ### Saving (R186) -/

/-- What an unfinished save leaves in the image area: free bytes, the n-th such (log 7). -/
def unfinishedCells (n : Nat) : List Host.Cell := Memory.ofBytes 0 ((Config.unfinishedImage n).take imageLength)

/-- A save that a start or a RESTART abandons leaves the image area as it was interrupted (R186; log 7). -/
def State.abandonSave (s : State) : State :=
  if s.part.saving then
    { s with part := { s.part with saving := false }, flash := unfinishedCells s.draws, draws := s.draws + 1 }
  else s

/-- A save that failed leaves an incomplete image, which judges CORRUPT or BLANK (R186; log 7). -/
def State.failSave (s : State) : State :=
  let cells := unfinishedCells s.draws
  { s with part := { s.part with saving := false }
           flash := if judge true cells = .valid then [] else cells
           draws := s.draws + 1 }

/-- A save that succeeded leaves the image of the configuration (R185, R186). -/
def State.finishSave (s : State) : State :=
  { s with part := { s.part with saving := false }, flash := Memory.ofBytes 0 s.storedImage }

/-- IMAGE_SAVE_COMPLETE: the save in progress ends with IMAGE_SAVED or IMAGE_SAVE_FAILED (R186). -/
def execImageSaveComplete (success : Bool) (s : State) : Host.Outcome State Fault Refusal :=
  .next (if s.running && s.part.saving then
      (if success then s.finishSave.raise .imageSaved none 0 else s.failSave.raise .imageSaveFailed none 0)
    else s)

end Sys2Proof.Machine
end

