-- ==== Sys2Proof/Machine/Starts.lean ====
section
/-! DEFINITION. Supplies, the RESET pin, the kinds of start, LOADING and RUNNING (11.5). -/

namespace Sys2Proof.Machine

/-! ### Start values (R190) -/

/-- A container after any start (R69, R91, R107, R129). -/
def Container.atStart (c : Nat) (cfg : ContainerCfg) (enabled : Bool) : Container :=
  { cfg := cfg
    fill := Fill.start (if cfg.present then some (c % 8 + 1) else none)
    inlet := Inlet.start { BarSet.empty with notSeen := true, notPresent := !cfg.present, stationDisabled := !enabled }
    forced := false
    missed := false }

/-- A station after any start (R12, R15). -/
def Station.atStart (cfg : StationCfg) : Station := Station.start cfg (if cfg.enabled then .unknown else .disabled)

/-- A round after any start (R135). -/
def Round.atStart (d : Round) : Round :=
  { cfg := d.cfg, stops := d.cfgStops.map plannedStop, state := if d.cfgStops = [] then .free else .loaded,
    requested := none, deadline := none, closing := none }

/-- Every block takes its start values from the configuration as it stands; the retained domain keeps its own but for the
counts of grants and reservations, which are 0 (R190, R50, R60). -/
def State.startValues (s : State) : State :=
  { s with
    classes := Tab.map NoticeClass.blank (fun _ c => { NoticeClass.blank with priority := c.priority }) s.classes
    lineA := LineState.start .a
    lineB := LineState.start .b
    stations := Tab.ofFn Station.blank 32 (fun i => Station.atStart (s.station i).cfg)
    containers := Tab.ofFn Container.blank 128 (fun c =>
      Container.atStart c (s.container c).cfg (s.station (stationOf c)).cfg.enabled)
    cards := Tab.map Card.blank (fun _ k => { k with lastSeen := none }) s.cards
    households := Tab.map Household.blank (fun _ h => { h with held := PerFraction.zero }) s.households
    rounds := Tab.ofFn Round.blank 4 (fun r => (s.round r).atStart)
    journal := { s.journal with reserved := 0 }
    planner := { due := [], prevTick := s.now, tickTodo := [] }
    watch := Watch.start }

/-- While LOADING every station reads UNKNOWN (R12; log 27). -/
def State.stationsUnknown (s : State) : State :=
  { s with stations := Tab.ofFn Station.blank 32 (fun i => Station.start (s.station i).cfg .unknown) }

/-! ### Entering LOADING (R187 to R189, R191) -/

/-- The retained domain as a cold start initializes it, the marker written (R188). -/
def State.initRetained (s : State) : State :=
  { s with
    clock := { time := { day := 0, sec := 0 }, set := false, pending := none }
    journal := Journal.empty
    households := { entries := [] }
    power := { s.power with marker := true } }

/-- The part enters LOADING: runtime state is discarded, the lines go idle, the strap is sampled and the image judged and
loaded (R188, R189). A TABLES_CLEAR judges BLANK without reading the flash (R191). -/
def State.enterLoading (s : State) (kind : StartKind) (cause : StartCause) (levels : StartLevels) : State :=
  let s1 := s.abandonSave
  let found := if cause = .tablesClear then ImageState.blank else judge levels.flashResponds s1.flash
  let s2 := if kind = .cold then s1.initRetained else s1
  let s3 := if found = .valid then s2.loadImage else s2.loadDefaults
  { s3.startValues.stationsUnknown with
    power := { s3.power with backup := levels.backupPresent }
    part := { phase := .loading, kind := kind, cause := cause, image := found, strap := levels.strapInForce,
              openMode := false, requested := none, saving := false }
    clock := { s3.clock with pending := none }
    link := Endpoint.empty }

/-- The start that main power makes: cold when the marker is missing, else warm with a cause (R187; log 13). -/
def State.powerStart (s : State) (cause : StartCause) (levels : StartLevels) : State :=
  if s.power.marker then s.enterLoading .warm cause levels else s.enterLoading .cold .power levels

/-- The part stops: the lines go idle, a pending SET_TIME and a requested start are dropped, a save is abandoned (R21, R24,
R186, R187). -/
def State.stopPart (s : State) : State :=
  let s1 := s.abandonSave
  { s1 with
    part := { s1.part with phase := .stopped, requested := none, openMode := false }
    clock := { s1.clock with pending := none }
    lineA := { s1.lineA with turn := none }
    lineB := { s1.lineB with turn := none } }

/-- With both supplies absent the retention marker is lost (R187). -/
def Power.settle (p : Power) : Power := if p.main || p.backup then p else { p with marker := false }

/-- The state with the supplies and pins changed. -/
def State.updPower (s : State) (f : Power → Power) : State := { s with power := f s.power }

/-! ### The meanings of the supply, pin and start events -/

/-- MAIN_POWER_UP (R187). While RESET is asserted the part stays stopped (log 13). -/
def execMainPowerUp (levels : StartLevels) (s : State) : Host.Outcome State Fault Refusal :=
  .next (if s.power.main then s
    else
      let s1 := s.updPower (fun p => { p with main := true, backup := levels.backupPresent })
      if s.power.resetAsserted then s1 else s1.powerStart .power levels)

/-- MAIN_POWER_LOST: the part stops; the retained domain runs on the backup supply (R21, R187). -/
def execMainPowerLost (s : State) : Host.Outcome State Fault Refusal :=
  .next (if s.power.main then s.stopPart.updPower (fun p => Power.settle { p with main := false }) else s)

/-- BACKUP_SUPPLY_LOST: with main power absent, the retention marker is lost (R187). -/
def execBackupSupplyLost (s : State) : Host.Outcome State Fault Refusal :=
  .next (s.updPower (fun p => Power.settle { p with backup := false }))

/-- RESET_PIN_ASSERTED: the part is stopped until the pin is released (R187). -/
def execResetPinAsserted (s : State) : Host.Outcome State Fault Refusal :=
  .next (s.stopPart.updPower (fun p => { p with resetAsserted := true }))

/-- RESET_PIN_RELEASED: a start with cause RESET pin (R187; log 13). -/
def execResetPinReleased (levels : StartLevels) (s : State) : Host.Outcome State Fault Refusal :=
  .next (if !s.power.resetAsserted then s
    else
      let s1 := s.updPower (fun p => { p with resetAsserted := false })
      if s.power.main then s1.powerStart .resetPin levels else s1)

/-- The notices of a start: RESTARTED, then IMAGE_FAULT for a CORRUPT image (R190). -/
def State.announceStart (s : State) : State :=
  let s1 := s.raise .restarted (some s.part.cause.code) (match s.part.kind with
    | .cold => 0
    | .warm => 1)
  if s.part.image = .corrupt then s1.raise .imageFault none 0 else s1

/-- ENTER_RUNNING: start values, open mode, the start's notices, and the first turns (R189, R190). -/
def execEnterRunning (s : State) : Host.Outcome State Fault Refusal :=
  .next (if s.part.phase = .loading then
      (s.startValues.updPart (fun p =>
        { p with phase := .running, openMode := p.strap && decide (p.image ≠ .valid) })).announceStart.kickBoth
    else s)

/-- The transmitter is sending a reply. -/
def Endpoint.sendingReply (e : Endpoint) : Bool :=
  match e.tx with
  | some t => t.rank == .reply
  | none => false

/-- REQUESTED_START: the start is made once the reply has been sent (R191). -/
def execRequestedStart (levels : StartLevels) (s : State) : Host.Outcome State Fault Refusal :=
  .next (match s.part.requested with
    | some cause =>
      if s.running && s.link.replies.isEmpty && !s.link.sendingReply then s.enterLoading .warm cause levels else s
    | none => s)

end Sys2Proof.Machine
end

