-- ==== Sys2Proof/Machine/Clock.lean ====
section
/-! DEFINITION. The advance of district time, the relative timers and their expiries (chapter 2, R25). -/

namespace Sys2Proof.Machine

/-! ### Expiries -/

/-- A grant window has expired: the grant ends ABANDONED (R122, R123). -/
def State.grantExpired (s : State) (c : Nat) : State := ((s.dropGrant c).setInlet c .locked).lockClosed c

/-- The grant window of a container is due. -/
def Container.grantDue (k : Container) : Bool :=
  match k.inlet.grant with
  | some g => g.windowLeft == 0
  | none => false

/-- The service window of a container is due. -/
def Container.serviceDue (k : Container) : Bool := k.inlet.service.bind Service.windowLeft == some 0

/-- The lift limit of a container is due. -/
def Container.liftDue (k : Container) : Bool := k.inlet.service.bind Service.limitLeft == some 0

/-- The settle time of a container is due. -/
def Container.settleDue (k : Container) : Bool := k.inlet.settleLeft == some 0

/-- The sample countdown of a container is due. -/
def Container.countdownDue (k : Container) : Bool := k.fill.countdown == some 0

/-- The sample outstanding limit of a container is due (R89). -/
def Container.outstandingDue (k : Container) : Bool := k.fill.request == .outstanding 60

/-- The outstanding limit expires (R89). -/
def State.outstandingExpired (s : State) (c : Nat) : State :=
  let k := s.container c
  let q := k.fill.request.answered k.cfg.present k.fill.sensor k.inlet.state
  let s1 := s.updFill c (fun f => { f with request := q })
  if k.cfg.present && decide (k.fill.sensor ≠ .failed) && !k.inlet.state.defers then s1.invalidSample c else s1

/-- The countdown has reached 0: a request falls due and the countdown is reloaded (R86). -/
def State.countdownExpired (s : State) (c : Nat) : State :=
  (s.requestDue c).updFill c (fun f => { f with countdown := some (s.container c).cfg.sampleInterval })

/-- The hold timeout has expired: the watch acts as CONTINUE, its action becomes CAPTURE, and HOLD_TIMEOUT is raised
(R176). -/
def State.holdExpired (s : State) (station : Nat) : State :=
  ((((s.dealParked .continue).1.release none).updWatch (fun w => { w with action := .capture })).raise .holdTimeout
    (some station) 0).kickBoth

/-- An expiry that is due at a container is taken. -/
def State.takeIf (s : State) (c : Nat) (due : Container → Bool) (f : State → Nat → State) : State :=
  if due (s.container c) then f s c else s

/-- The hold timeout, if it is due, is taken (R176). -/
def State.takeHold (s : State) : State :=
  match s.watch.held, s.watch.timeoutLeft with
  | some i, some 0 => s.holdExpired i
  | _, _ => s

/-! ### The meanings of the expiries: each has its effect only in RUNNING and while it is due (log 1) -/

/-- SAMPLE_COUNTDOWN_EXPIRY (R86). -/
def execSampleCountdownExpiry (c : Nat) (s : State) : Host.Outcome State Fault Refusal :=
  .next (if s.running then s.takeIf c Container.countdownDue State.countdownExpired else s)

/-- SAMPLE_OUTSTANDING_EXPIRY (R89). -/
def execSampleOutstandingExpiry (c : Nat) (s : State) : Host.Outcome State Fault Refusal :=
  .next (if s.running then s.takeIf c Container.outstandingDue State.outstandingExpired else s)

/-- GRANT_WINDOW_EXPIRY (R122). -/
def execGrantWindowExpiry (c : Nat) (s : State) : Host.Outcome State Fault Refusal :=
  .next (if s.running then s.takeIf c Container.grantDue State.grantExpired else s)

/-- SERVICE_WINDOW_EXPIRY (R154). -/
def execServiceWindowExpiry (c : Nat) (s : State) : Host.Outcome State Fault Refusal :=
  .next (if s.running then s.takeIf c Container.serviceDue State.serviceExpired else s)

/-- LIFT_LIMIT_EXPIRY (R159). -/
def execLiftLimitExpiry (c : Nat) (s : State) : Host.Outcome State Fault Refusal :=
  .next (if s.running then s.takeIf c Container.liftDue State.liftExpired else s)

/-- SETTLE_TIME_EXPIRY (R161). -/
def execSettleTimeExpiry (c : Nat) (s : State) : Host.Outcome State Fault Refusal :=
  .next (if s.running then s.takeIf c Container.settleDue State.settled else s)

/-- HOLD_TIMEOUT (R176). -/
def execHoldTimeout (s : State) : Host.Outcome State Fault Refusal := .next (if s.running then s.takeHold else s)

/-- ROUND_DEADLINE_REACHED: the tick's check of a round takes its deadline (R145; log 3). -/
def execRoundDeadlineReached (r : Nat) (s : State) : Host.Outcome State Fault Refusal :=
  .next (if s.running then s.takeStage (.check r) else s)

/-- STANDING_RELEASE: the tick's standing release of a round (R147; log 3). -/
def execStandingRelease (r : Nat) (s : State) : Host.Outcome State Fault Refusal :=
  .next (if s.running then s.takeStage (.standing r) else s)

/-! ### The advance (R21 to R25) -/

/-- Every expiry of a container that is due is taken (log 2). -/
def State.flushContainer (s : State) (c : Nat) : State :=
  (((((s.takeIf c Container.outstandingDue State.outstandingExpired).takeIf c Container.countdownDue
    State.countdownExpired).takeIf c Container.grantDue State.grantExpired).takeIf c Container.serviceDue
    State.serviceExpired).takeIf c Container.liftDue State.liftExpired).takeIf c Container.settleDue State.settled

/-- What the last second made due and no step has taken is taken now: the rest of its tick, then each container's expiries
in ascending order, then the hold timeout (log 2). -/
def State.flush (s : State) : State :=
  let s1 := s.finishTick
  ((s1.containers.entries.map Prod.fst).foldl State.flushContainer s1).takeHold

/-- One second off a running window. -/
def countDown (left : Option Nat) : Option Nat := left.map (· - 1)

/-- The age of an OUTSTANDING request after a second event of a station that is not held (R89). -/
def SampleRequest.older (q : SampleRequest) : SampleRequest :=
  match q with
  | .outstanding age => .outstanding (min 60 (age + 1))
  | other => other

/-- A container after a second event (R25, R89). -/
def Container.second (held : Bool) (k : Container) : Container :=
  { k with
    fill := if held then k.fill else { k.fill with request := k.fill.request.older }
    inlet := { k.inlet with
      grant := k.inlet.grant.map (fun g => { g with windowLeft := g.windowLeft - 1 })
      service := k.inlet.service.map (fun v =>
        { v with windowLeft := countDown v.windowLeft, limitLeft := countDown v.limitLeft })
      settleLeft := countDown k.inlet.settleLeft } }

/-- A container after a minute event (R86). -/
def Container.minute (k : Container) : Container :=
  if k.cfg.present then { k with fill := { k.fill with countdown := countDown k.fill.countdown } } else k

/-- The watch after a second event: the hold timeout and the age of a parked frame (R25, R176). -/
def Watch.second (w : Watch) : Watch :=
  { w with timeoutLeft := countDown w.timeoutLeft, parked := w.parked.map (fun p => { p with age := p.age + 1 }) }

/-- The second event reaches every block that runs a relative timer (R22, R25). -/
def State.secondEvent (s : State) : State :=
  { s with
    containers := Tab.map Container.blank (fun c k => k.second (s.isHeld (stationOf c))) s.containers
    watch := s.watch.second }

/-- The minute event: the sample countdowns and the planner tick (R22, R86, R140). -/
def State.minuteEvent (s : State) : State :=
  ({ s with containers := Tab.map Container.blank (fun _ k => k.minute) s.containers }).beginTick

/-- District time becomes a pending SET_TIME's, with CLOCK_SET and PERIOD_ROLLOVER (R24). -/
def State.takeSetTime (s : State) (t : Time) : State :=
  let old := s.period
  let value := if s.clock.set then 0 else 1
  let s1 := { s with clock := { time := t, set := true, pending := none } }
  (s1.raise .clockSet (some t.day) value).rollover old

/-- District time advances by one second; a day event derives the period number again (R21, R22, R27). -/
def State.addSecond (s : State) : State :=
  let s1 := { s with clock := { s.clock with time := s.clock.time.next } }
  if s.clock.time.sec < 86399 then s1 else s1.rollover s.period

/-- District time takes a pending SET_TIME, or else goes one second on (R24). -/
def State.advanceTime (s : State) : State :=
  match s.clock.pending with
  | some t => s.takeSetTime t
  | none => s.addSecond

/-- The advance of a RUNNING part (R22, R24): what the last second left due, the new time with its day event, the second event,
then the minute event (the order is the model's choice, log 35). An expiry that falls at an advance which is also a planner tick
comes after the stages the tick runs within the advance: the model's choice (log 41). -/
def State.advanceRunning (s : State) : State :=
  let s1 := s.flush.advanceTime.secondEvent
  if s1.clock.time.sec % 60 = 0 then s1.minuteEvent else s1

/-- CLOCK_ADVANCE: while the part is not RUNNING only district time advances, as long as a supply is there (R21, R22;
log 29). -/
def execClockAdvance (s : State) : Host.Outcome State Fault Refusal :=
  .next (if s.running then s.advanceRunning
    else if s.power.main || s.power.backup then { s with clock := { s.clock with time := s.clock.time.next } }
    else s)

end Sys2Proof.Machine
end

