-- ==== Sys2Proof/Machine/Endpoint.lean ====
section
/-! DEFINITION. The management endpoint: the receive buffer, the transmitter's arbiter, and how a frame is handled and
answered (11.1, 11.2). -/

namespace Sys2Proof.Machine

/-! ### Receiving (R177) -/

/-- The part is in LOADING or RUNNING. -/
def State.awake (s : State) : Bool := s.part.phase != .stopped

/-- A good frame is buffered: DST 00h or a drop address, and fewer than 4 frames in the buffer (R177). -/
def State.bufferFrame (s : State) (f : Frame) : State :=
  if (f.dst = ownAddress ∨ (stationOfAddress f.dst).isSome) ∧ s.link.rx.length < 4 then
    s.updLink (fun e => { e with rx := e.rx ++ [f] })
  else s

/-- BACKHAUL_FRAME_RECEIVED (R177). -/
def execBackhaulFrameReceived (bytes : List Byte) (s : State) : Host.Outcome State Fault Refusal :=
  .next (if s.awake then
      (match receive bytes with
       | .good f => s.bufferFrame f
       | _ => s)
    else s)

/-! ### The transmitter (R31, R181) -/

/-- The frame the notice queue offers and the queue without it: the highest priority, and among those the one appended
first (R31). -/
def offerNotice : List NoticeFrame → Option (NoticeFrame × List NoticeFrame)
  | [] => none
  | n :: rest =>
    match offerNotice rest with
    | none => some (n, rest)
    | some (m, others) => if n.priority < m.priority then some (m, n :: others) else some (n, rest)

/-- The frame the arbiter chooses leaves its queue and is sent (R181). -/
def Endpoint.begin (e : Endpoint) : Endpoint :=
  match e.replies with
  | f :: rest => { e with replies := rest, tx := some { rank := .reply, frame := f } }
  | [] =>
    match offerNotice e.notices with
    | some (n, rest) => { e with notices := rest, tx := some { rank := .notice, frame := n.frame } }
    | none =>
      match e.toCenter with
      | f :: rest => { e with toCenter := rest, tx := some { rank := .relay, frame := f } }
      | [] => e

/-- BACKHAUL_TRANSMIT_BEGIN: the idle transmitter begins a frame, if one is waiting (R181). -/
def execBackhaulTransmitBegin (s : State) : Host.Outcome State Fault Refusal :=
  .next (if s.awake && s.link.tx.isNone then s.updLink Endpoint.begin else s)

/-- BACKHAUL_TRANSMIT_DONE: the transmitter becomes idle (R181). -/
def execBackhaulTransmitDone (s : State) : Host.Outcome State Fault Refusal :=
  .next (if s.awake then s.updLink (fun e => { e with tx := none }) else s)

/-! ### Handling a frame (R178, R179, R191) -/

/-- What a handled frame is answered: a result code and the data that follow result and request code. -/
structure Answer where
  result : Result
  data   : List Byte
  deriving DecidableEq, Repr

/-- An answer without data. -/
def replyOnly (r : Result) : Answer := { result := r, data := [] }

/-- An answer with data. -/
def replyWith (r : Result) (data : List Byte) : Answer := { result := r, data := data }

/-- The KIND of the reply to a frame: JOURNAL_DATA for JOURNAL_READ, else REPLY (R178). -/
def replyKind (f : Frame) : Byte := if requestOf f = .journalRead then kindJournalData else kindReply

/-- The reply frame to a frame (R178). -/
def replyFrame (f : Frame) (a : Answer) : Frame :=
  { dst := centerAddress, src := ownAddress, kind := replyKind f, tag := f.tag
    payload := be 1 a.result.code ++ [replyCode f] ++ a.data }

/-- The endpoint may take a frame: LOADING or RUNNING, fewer than 4 replies waiting, and no start asked for (R178, R191). -/
def State.mayHandle (s : State) : Bool :=
  s.awake && decide (s.link.replies.length < 4) && s.part.requested.isNone

/-- The frame taken leaves the buffer, is handled, and its reply joins the reply queue (R178). -/
def State.handleFrame (s : State) (f : Frame) (rest : List Frame) (body : Frame → State → State × Answer) : State :=
  let r := body f (s.updLink (fun e => { e with rx := rest }))
  r.1.updLink (fun e => { e with replies := e.replies ++ [replyFrame f r.2] })

/-- In LOADING every frame but a STATUS_READ is answered BUSY (R178). -/
def busyWhileLoading (body : Frame → State → State × Answer) (f : Frame) (s : State) : State × Answer :=
  if s.part.phase = .loading then (s, replyOnly .busy) else body f s

/-- The oldest frame of the buffer is handled by a body, if the endpoint may take it and it is one that the body handles;
otherwise the step has no effect (R178; log 1). -/
def State.handleOldest (s : State) (mine : Frame → Bool) (body : Frame → State → State × Answer) : State :=
  match s.link.rx with
  | [] => s
  | f :: rest => if s.mayHandle && mine f then s.handleFrame f rest body else s

/-- The step of a request: LOADING answers BUSY, else the body carries it out (R178). -/
def State.handle (s : State) (q : Request) (body : Frame → State → State × Answer) : State :=
  s.handleOldest (fun f => decide (requestOf f = q)) (busyWhileLoading body)

/-! ### Frames of no known request, and relay frames (R178, R180) -/

/-- BAD_KIND (R178). -/
def unknownBody (_ : Frame) (s : State) : State × Answer := (s, replyOnly .badKind)

/-- UNKNOWN_REQUEST (R178). -/
def execUnknownRequest (s : State) : Host.Outcome State Fault Refusal := .next (s.handle .unknown unknownBody)

/-- An entry joins the relay queue of a station's line (R180). -/
def State.appendRelay (s : State) (station : Nat) (f : Frame) : State :=
  s.updLine (lineOf station) (fun d =>
    { d with relay := d.relay ++ [{ number := d.nextEntry, station := station, tag := f.tag, payload := f.payload }]
             nextEntry := d.nextEntry + 1 })

/-- A relay frame: BAD_STATE at a LOST or DISABLED station, QUEUE_FULL at 8 entries, else queued (R180). -/
def relayBody (f : Frame) (s : State) : State × Answer :=
  match stationOfAddress f.dst with
  | none => (s, replyOnly .badKind)
  | some i =>
    if (s.station i).state = .lost ∨ (s.station i).state = .disabled then (s, replyOnly .badState)
    else if 8 ≤ (s.line (lineOf i)).relay.length then (s, replyOnly .queueFull)
    else (s.appendRelay i f, replyOnly .ok)

/-- RELAY_STATION_CMD (R180). -/
def execRelayStationCmd (s : State) : Host.Outcome State Fault Refusal := .next (s.handle .relay relayBody)

end Sys2Proof.Machine
end

