-- ==== Sys2Proof/Machine/Tables.lean ====
section
/-! DEFINITION. TABLE_WRITE with the effects of the changed fields, and TABLE_READ (11.3). -/

namespace Sys2Proof.Machine

/-! ### Merging (R182 step 6) -/

/-- Whether the mask names an image byte: bit 7 of mask byte 0 stands for image byte 0, and so on down (R182). -/
def maskBit (mask : List Byte) (i : Nat) : Bool := (byteAt mask (i / 8)).getLsbD (7 - i % 8)

/-- The configuration bytes with the masked ones replaced; bytes masked into runtime positions are beyond them and are
ignored (R182). -/
def mergeMasked (old new mask : List Byte) : List Byte :=
  (List.range old.length).map (fun i => if maskBit mask i then byteAt new i else byteAt old i)

/-! ### Rules across records (R182 step 8) -/

/-- A present container's slot is at most its station's slot count (R182). -/
def State.crossOk (s : State) (i : Nat) : Record → Bool
  | .container p => !p.present || decide (slotOf i ≤ (s.station (stationOf i)).cfg.slotCount)
  | .station p => (containersOf i).all (fun c => !s.present c || decide (slotOf c ≤ p.slotCount))
  | _ => true

/-! ### Effects of the changed fields (R182) -/

/-- A parameters record is written (R27, R48, R101, R148, R164). -/
def State.writeParams (s : State) (p : Params) : State :=
  let s1 := { s with params := p }
  if p.periodLength = s.params.periodLength ∧ p.anchorDay = s.params.anchorDay then s1 else s1.rollover s.period

/-- A station record is written; a change of enabled disables or enables the station (R15). -/
def State.writeStation (s : State) (i : Nat) (p : StationCfg) : State :=
  let old := (s.station i).cfg.enabled
  let s1 := s.updStation i (fun t => { t with cfg := p })
  if old && !p.enabled then s1.disableStation i
  else if !old && p.enabled then s1.enableStation i
  else s1

/-- A shape is written; a changed point makes E unknown for every present container of that shape (R83). -/
def State.writeShape (s : State) (i : Nat) (p : Shape) : State :=
  let s1 := { s with shapes := Tab.set Shape.blank s.shapes i p }
  if s.shape i = p then s1
  else (List.range 128).foldl (fun t c =>
    if t.present c && decide ((t.container c).cfg.shape = i) then t.makeUnknown c else t) s1

/-- The estimate, the flags, the countdown and the request when present is cleared (R69). -/
def State.fillAbsent (s : State) (c : Nat) : State :=
  (s.updFill c (fun f =>
    { f with estimate := none, risePending := false, postLift := false, countdown := none, request := .idle })).evaluate c

/-- present goes from yes to no (R69, R91, R125, R134). -/
def State.clearPresent (s : State) (c : Nat) : State :=
  (((s.addBar c .notPresent).fillAbsent c).clearMarks c).skipPendingOf c

/-- present goes from no to yes (R69, R91, R125). -/
def State.setPresent (s : State) (c : Nat) : State :=
  (((s.updInlet c (fun n => { n with lastDrum := none, unattributed := 0 })).removeBar c .notPresent).updFill c (fun _ =>
    Fill.start (some (c % 8 + 1)))).rederive c

/-- The geometry fields of two configurations agree (R100). -/
def ContainerCfg.sameGeometry (a b : ContainerCfg) : Bool :=
  decide (a.capacity = b.capacity) && decide (a.height = b.height) && decide (a.deadZone = b.deadZone) &&
    decide (a.shape = b.shape)

/-- A running countdown above the new interval is set to it (R84). -/
def Fill.limitCountdown (f : Fill) (interval : Nat) : Fill := { f with countdown := f.countdown.map (min interval) }

/-- The effects of a write that leaves a present container present: the countdown follows a sample interval that changed, and
E is made unknown by a geometry that changed (R84, R100, R182). -/
def State.keepPresent (s : State) (c : Nat) (old new : ContainerCfg) : State :=
  let s1 := if old.sampleInterval = new.sampleInterval then s else s.updFill c (fun f => f.limitCountdown new.sampleInterval)
  if old.sameGeometry new then s1 else s1.makeUnknown c

/-- A container record is written (R69, R84, R91, R100, R125, R134, R137). -/
def State.writeContainer (s : State) (c : Nat) (p : ContainerCfg) : State :=
  let old := (s.container c).cfg
  let s1 := s.updContainer c (fun k => { k with cfg := p })
  let s2 := if old.fraction = p.fraction then s1 else s1.skipPendingOf c
  if old.present && !p.present then s2.clearPresent c
  else if !old.present && p.present then s2.setPresent c
  else if p.present then s2.keepPresent c old p
  else s2

/-- A round is written: UNPLANNED stops go, every stop is PLANNED and not started, and the round is LOADED or FREE; the
requested command is kept (R136). -/
def State.writeRound (s : State) (r : Nat) (p : RoundCfg) (stops : List Nat) : State :=
  s.updRound r (fun d =>
    { cfg := p, stops := stops.map plannedStop, state := if stops = [] then .free else .loaded,
      requested := d.requested, deadline := none, closing := none })

/-- The merged configuration replaces the record's, with the effects of the changed fields (R182 step 9). -/
def State.writeRecordOf (s : State) (i : Nat) : Record → State
  | .parameters p => s.writeParams p
  | .station p => s.writeStation i p
  | .bank p => { s with banks := Tab.set Bank.blank s.banks i p }
  | .fraction p => { s with fractions := Tab.set FractionRec.blank s.fractions i p }
  | .shape p => s.writeShape i p
  | .container p => s.writeContainer i p
  | .card p => s.updCard i (fun k => { k with cfg := p })
  | .household p => s.updHousehold i (fun h => { h with cfg := p })
  | .round p stops => s.writeRound i p stops
  | .noticeClass n => s.updClass i (fun c => { c with priority := n })

/-! ### TABLE_WRITE (R182) -/

/-- The reply data of a write: the table, the index and the image as it stands (R182). -/
def State.writeReply (s : State) (t : Table) (i : Nat) : List Byte := be 1 t.code ++ be 2 i ++ s.image t i

/-- Steps 5 to 9 of a write of a table's record with a mask and record bytes (R182). -/
def State.writeTable (s : State) (t : Table) (i : Nat) (mask record : List Byte) : State × Answer :=
  if t = .round ∧ ((s.round i).state = .active ∨ (s.round i).state = .closing) then (s, replyOnly .badState)
  else
    let merged := mergeMasked (s.configBytes t i) record mask
    let bytes := t.clampBytes merged
    match t.parse bytes with
    | none => (s, replyOnly .badValue)
    | some r =>
      if !s.crossOk i r then (s, replyOnly .badValue)
      else
        let s1 := (s.writeRecordOf i r).kickBoth
        (s1, replyWith (if bytes = merged then .ok else .okClamped) (s1.writeReply t i))

/-- TABLE_WRITE outside LOADING: a save, then table, index and length, then the write (R182; log 15). -/
def tableWriteBody (f : Frame) (s : State) : State × Answer :=
  let o := operandsOf f
  if s.part.saving then (s, replyOnly .busy)
  else if o.length < 1 then (s, replyOnly .badLength)
  else match Table.ofCode (field o 0 1) with
    | none => (s, replyOnly .badTable)
    | some t =>
      if o.length < 3 then (s, replyOnly .badLength)
      else if !inRange t.writeRange (field o 1 2) then (s, replyOnly .badIndex)
      else if o.length ≠ 3 + t.maskLength + t.imageLength then (s, replyOnly .badLength)
      else s.writeTable t (field o 1 2) ((o.drop 3).take t.maskLength) (o.drop (3 + t.maskLength))

/-- TABLE_WRITE (R182). -/
def execTableWrite (s : State) : Host.Outcome State Fault Refusal := .next (s.handle .tableWrite tableWriteBody)

/-! ### TABLE_READ (R183) -/

/-- The number of images a read returns: the count, limited by the table's end and by the images that fit in 106 bytes
(R183). The first argument is the count, then the bytes left. -/
def Table.fit (t : Table) : Nat → Nat → Nat → Nat
  | 0, _, _ => 0
  | n + 1, room, i =>
    if i ≤ t.readRange.2 ∧ t.readLength i ≤ room then t.fit n (room - t.readLength i) (i + 1) + 1 else 0

/-- TABLE_READ outside LOADING (R183). -/
def tableReadBody (f : Frame) (s : State) : State × Answer :=
  let o := operandsOf f
  if o.length < 1 then (s, replyOnly .badLength)
  else match Table.ofCode (field o 0 1) with
    | none => (s, replyOnly .badTable)
    | some t =>
      if o.length < 3 then (s, replyOnly .badLength)
      else if !inRange t.readRange (field o 1 2) then (s, replyOnly .badIndex)
      else if o.length ≠ 4 then (s, replyOnly .badLength)
      else
        let first := field o 1 2
        let n := t.fit (field o 3 1) 106 first
        (s, replyWith (if n < field o 3 1 then .okClamped else .ok)
          (be 1 t.code ++ be 2 first ++ be 1 n ++ (List.range n).flatMap (fun k => s.image t (first + k))))

/-- TABLE_READ (R183). -/
def execTableRead (s : State) : Host.Outcome State Fault Refusal := .next (s.handle .tableRead tableReadBody)

end Sys2Proof.Machine
end

