-- ==== Sys2Proof/Machine/Requests.lean ====
section
/-! DEFINITION. The other requests: journal, notice flags, clock, image, starts, rounds, containers and watch
(chapters 2, 4, 6, 7, 8, 10, 11). -/

namespace Sys2Proof.Machine

/-! ### The journal (R65, R66) -/

/-- A journal record in 17 bytes (11.7). -/
def JournalRecord.bytes (r : JournalRecord) : List Byte :=
  be 2 r.serial ++ be 1 r.kind.code ++ timeBytes r.time ++ be 1 r.container ++ index2 r.card ++ index2 r.household ++
    be 1 r.fraction.code ++ optBytes 14 2 r.period ++ be 1 (bit r.late 0 + bit r.openMode 1 + bit r.period.isSome 2)

/-- The flags and the oldest serial of the journal. -/
def Journal.oldestBytes (j : Journal) : List Byte := be 1 (bit j.oldest.isSome 0) ++ optBytes 10 2 j.oldest

/-- JOURNAL_READ(count): the smallest of count, 3 and the records, oldest first, with the journal's figures (R65). -/
def journalReadBody (f : Frame) (s : State) : State × Answer :=
  let o := operandsOf f
  if o.length ≠ 1 then (s, replyOnly .badLength)
  else
    let rs := s.journal.records.take (min (field o 0 1) 3)
    (s, replyWith .ok
      (be 1 rs.length ++ be 2 s.journal.records.length ++ be 2 s.journal.reserved ++ s.journal.oldestBytes ++
        be 2 s.journal.serial ++ rs.flatMap JournalRecord.bytes))

/-- JOURNAL_READ (R65). -/
def execJournalRead (s : State) : Host.Outcome State Fault Refusal := .next (s.handle .journalRead journalReadBody)

/-- The n oldest records are removed (R66). -/
def Journal.release (j : Journal) (n : Nat) : Journal := { j with records := j.records.drop n }

/-- The data of a JOURNAL_RELEASE reply: removed, left, and the new oldest serial (R66). -/
def releaseData (removed : Nat) (j : Journal) : List Byte := be 2 removed ++ be 2 j.records.length ++ j.oldestBytes

/-- JOURNAL_RELEASE(first serial, count) (R66). -/
def journalReleaseBody (f : Frame) (s : State) : State × Answer :=
  let o := operandsOf f
  let count := field o 2 2
  let n := s.journal.records.length
  if o.length ≠ 4 then (s, replyOnly .badLength)
  else if count = 0 then (s, replyWith .ok (releaseData 0 s.journal))
  else if s.journal.oldest ≠ some (field o 0 2) then (s, replyWith .mismatch (releaseData 0 s.journal))
  else
    let s1 := s.updJournal (fun j => j.release count)
    (s1, replyWith (if n < count then .okClamped else .ok) (releaseData (min count n) s1.journal))

/-- JOURNAL_RELEASE (R66). -/
def execJournalRelease (s : State) : Host.Outcome State Fault Refusal :=
  .next (s.handle .journalRelease journalReleaseBody)

/-! ### Notice flags (R32, R33) -/

/-- NOTICE_FLAGS_READ (R32). -/
def noticeFlagsReadBody (f : Frame) (s : State) : State × Answer :=
  if operandsOf f ≠ [] then (s, replyOnly .badLength)
  else (s, replyWith .ok
    (be 4 (classSet (fun n => (s.noticeClass n).flag)) ++ be 4 (classSet (fun n => (s.noticeClass n).overrun)) ++
      be 1 s.link.notices.length ++ be 4 (classSet (fun n => (s.noticeClass n).last.isSome)) ++
      (List.range 24).flatMap (fun k => raiseBytes 9 (s.noticeClass (k + 1)).last)))

/-- NOTICE_FLAGS_READ (R32). -/
def execNoticeFlagsRead (s : State) : Host.Outcome State Fault Refusal :=
  .next (s.handle .noticeFlagsRead noticeFlagsReadBody)

/-- A set names positions of the classes 1-24 alone: bit 0 and bits 25 to 31 are clear (R33, 11.7). -/
def legalClassSet (set : Nat) : Bool := decide (set % 2 = 0) && decide (set < 2 ^ 25)

/-- NOTICE_FLAGS_CLEAR(class set) (R33). -/
def noticeFlagsClearBody (f : Frame) (s : State) : State × Answer :=
  let o := operandsOf f
  if o.length ≠ 4 then (s, replyOnly .badLength)
  else if !legalClassSet (field o 0 4) then (s, replyOnly .badValue)
  else (s.clearFlags (field o 0 4), replyOnly .ok)

/-- NOTICE_FLAGS_CLEAR (R33). -/
def execNoticeFlagsClear (s : State) : Host.Outcome State Fault Refusal :=
  .next (s.handle .noticeFlagsClear noticeFlagsClearBody)

/-! ### The clock (R23) -/

/-- SET_TIME(day, second of day) (R23). -/
def setTimeBody (f : Frame) (s : State) : State × Answer :=
  let o := operandsOf f
  if o.length ≠ 5 then (s, replyOnly .badLength)
  else if 86399 < field o 2 3 then (s, replyOnly .badValue)
  else ({ s with clock := { s.clock with pending := some { day := field o 0 2, sec := field o 2 3 } } }, replyOnly .ok)

/-- SET_TIME (R23). -/
def execSetTime (s : State) : Host.Outcome State Fault Refusal := .next (s.handle .setTime setTimeBody)

/-! ### The image and the requested starts (R186, R191) -/

/-- IMAGE_SAVE (R186; log 15). -/
def imageSaveBody (f : Frame) (s : State) : State × Answer :=
  if s.part.saving then (s, replyOnly .busy)
  else if operandsOf f ≠ [] then (s, replyOnly .badLength)
  else (s.updPart (fun p => { p with saving := true }), replyOnly .ok)

/-- IMAGE_SAVE (R186). -/
def execImageSave (s : State) : Host.Outcome State Fault Refusal := .next (s.handle .imageSave imageSaveBody)

/-- TABLES_CLEAR: BUSY during a save, else the start is asked for (R186, R191; log 15). -/
def tablesClearBody (f : Frame) (s : State) : State × Answer :=
  if s.part.saving then (s, replyOnly .busy)
  else if operandsOf f ≠ [] then (s, replyOnly .badLength)
  else (s.updPart (fun p => { p with requested := some .tablesClear }), replyOnly .ok)

/-- TABLES_CLEAR (R191). -/
def execTablesClear (s : State) : Host.Outcome State Fault Refusal := .next (s.handle .tablesClear tablesClearBody)

/-- RESTART: a save is abandoned and the start asked for (R191). -/
def restartBody (f : Frame) (s : State) : State × Answer :=
  if operandsOf f ≠ [] then (s, replyOnly .badLength)
  else (s.abandonSave.updPart (fun p => { p with requested := some .restart }), replyOnly .ok)

/-- RESTART (R191). -/
def execRestart (s : State) : Host.Outcome State Fault Refusal := .next (s.handle .restart restartBody)

/-! ### Rounds (R138, R139) -/

/-- The containers a draft collects: unassigned entries of the fraction, in list order, up to the maximum (R138). -/
def State.draftList (s : State) (f : Fraction) (maximum : Nat) : List Nat :=
  ((s.planner.due.map DueEntry.container).filter (fun c =>
    (s.assignedRound c).isNone && decide ((s.container c).cfg.fraction = f))).take maximum

/-- The round holds the drafted stops (R138). -/
def State.draft (s : State) (r : Nat) (f : Fraction) (cs : List Nat) : State :=
  s.updRound r (fun d =>
    { d with cfg := { d.cfg with fraction := f }
             stops := cs.map (fun c => { container := c, state := none, origin := .drafted, doneTime := none })
             state := if cs = [] then .free else .loaded
             deadline := none
             closing := none })

/-- ROUND_DRAFT(round, fraction, maximum) (R138; log 15). -/
def roundDraftBody (f : Frame) (s : State) : State × Answer :=
  let o := operandsOf f
  let r := field o 0 1
  if s.part.saving then (s, replyOnly .busy)
  else if o.length ≠ 3 then (s, replyOnly .badLength)
  else if 3 < r then (s, replyOnly .badIndex)
  else match Fraction.ofCode (field o 1 1) with
    | none => (s, replyOnly .badValue)
    | some fr =>
      if (s.round r).state = .active ∨ (s.round r).state = .closing then (s, replyOnly .badState)
      else
        let m := clamp 1 24 (field o 2 1)
        let cs := s.draftList fr m
        (s.draft r fr cs, replyWith (if m = field o 2 1 then .ok else .okClamped)
          (be 1 r ++ be 1 cs.length ++ cs.flatMap (be 1)))

/-- ROUND_DRAFT (R138). -/
def execRoundDraft (s : State) : Host.Outcome State Fault Refusal := .next (s.handle .roundDraft roundDraftBody)

/-- A round command is recorded for the next planner tick (R139). -/
def roundCommandBody (cmd : RoundCommand) (f : Frame) (s : State) : State × Answer :=
  let o := operandsOf f
  if o.length ≠ 1 then (s, replyOnly .badLength)
  else if 3 < field o 0 1 then (s, replyOnly .badIndex)
  else (s.updRound (field o 0 1) (fun d => { d with requested := some cmd }), replyOnly .ok)

/-- ROUND_RELEASE (R139). -/
def execRoundRelease (s : State) : Host.Outcome State Fault Refusal :=
  .next (s.handle .roundRelease (roundCommandBody .release))

/-- ROUND_CLOSE (R139). -/
def execRoundClose (s : State) : Host.Outcome State Fault Refusal :=
  .next (s.handle .roundClose (roundCommandBody .close))

/-- ROUND_ABORT (R139). -/
def execRoundAbort (s : State) : Host.Outcome State Fault Refusal :=
  .next (s.handle .roundAbort (roundCommandBody .abort))

/-! ### Containers (R105, R126, R133) -/

/-- A request that names one container: BAD_LENGTH, BAD_INDEX, or its effect and reply data (R105, R126). -/
def containerBody (effect : State → Nat → State) (data : State → Nat → List Byte) (f : Frame) (s : State) :
    State × Answer :=
  let o := operandsOf f
  if o.length ≠ 1 then (s, replyOnly .badLength)
  else if 127 < field o 0 1 then (s, replyOnly .badIndex)
  else
    let s1 := effect s (field o 0 1)
    (s1, replyWith .ok (data s1 (field o 0 1)))

/-- The container, its inlet state and its bar reasons, as they stand (R126). -/
def State.barData (s : State) (c : Nat) : List Byte :=
  be 1 c ++ be 1 (s.container c).inlet.state.code ++ be 1 (s.container c).inlet.bars.code

/-- CENTER is added (R126). -/
def State.barByCenter (s : State) (c : Nat) : State := s.addBar c .center

/-- CENTER and LIFT_OPEN are removed (R126). -/
def State.unbarByCenter (s : State) (c : Nat) : State := (s.removeBar c .center).removeBar c .liftOpen

/-- CONTAINER_BAR (R126). -/
def execContainerBar (s : State) : Host.Outcome State Fault Refusal :=
  .next (s.handle .containerBar (containerBody State.barByCenter State.barData))

/-- CONTAINER_UNBAR (R126). -/
def execContainerUnbar (s : State) : Host.Outcome State Fault Refusal :=
  .next (s.handle .containerUnbar (containerBody State.unbarByCenter State.barData))

/-- SENSOR_CLEAR of a container (R105). -/
def State.clearSensor (s : State) (c : Nat) : State :=
  let s1 := s.updFill c (fun f => { f with sensor := .good, streak := 0, stuck := 0, lastTof := none })
  if (s.container c).fill.sensor = .good then s1 else s1.requestDue c

/-- SENSOR_CLEAR (R105). -/
def execSensorClear (s : State) : Host.Outcome State Fault Refusal :=
  .next (s.handle .sensorClear (containerBody State.clearSensor (fun _ _ => [])))

/-- The due class and place of a container, FFh when it is not on the list (R133). -/
def State.duePlaceData (s : State) (c : Nat) : List Byte :=
  be 1 c ++ index1 ((dueEntry s.planner.due c).map (fun e => e.cls.code)) ++ index1 (duePlace s.planner.due c 1)

/-- FORCE_DUE(container, action) (R133). -/
def forceDueBody (f : Frame) (s : State) : State × Answer :=
  let o := operandsOf f
  if o.length ≠ 2 then (s, replyOnly .badLength)
  else if 127 < field o 0 1 then (s, replyOnly .badIndex)
  else match yesNo (byteAt o 1) with
    | none => (s, replyOnly .badValue)
    | some b =>
      let s1 := s.setForced (field o 0 1) b
      (s1, replyWith .ok (s1.duePlaceData (field o 0 1)))

/-- FORCE_DUE (R133). -/
def execForceDue (s : State) : Host.Outcome State Fault Refusal := .next (s.handle .forceDue forceDueBody)

/-! ### The watch (R165, R173, R174) -/

/-- A key value lies in the range of its key kind (10.1). -/
def keyInRange (k : KeyKind) (v : Nat) : Bool :=
  match k with
  | .cardNumber => true
  | .cardRecord => decide (v ≤ 4095)
  | .container => decide (v ≤ 127)
  | .station => decide (v ≤ 31)

/-- A watch specification replaces the one in place (R165). -/
def State.setWatch (s : State) (k : KeyKind) (v : Nat) (filter : BitVec 7) (a : WatchAction) : State :=
  s.updWatch (fun w =>
    { w with keyKind := k, keyValue := v, filter := filter, action := a, state := if a = .off then .off else .armed,
             stepMark := none, pass := none, captured := none, matchCount := 0 })

/-- WATCH_SET(key kind, key value, kind filter, action) (R165). -/
def watchSetBody (f : Frame) (s : State) : State × Answer :=
  let o := operandsOf f
  if o.length ≠ 7 then (s, replyOnly .badLength)
  else match KeyKind.ofCode (field o 0 1), WatchAction.ofCode (field o 6 1) with
    | some k, some a =>
      if 127 < field o 5 1 ∨ !keyInRange k (field o 1 4) then (s, replyOnly .badValue)
      else if s.watch.state = .held then (s, replyOnly .badState)
      else (s.setWatch k (field o 1 4) (BitVec.ofNat 7 (field o 5 1)) a, replyOnly .ok)
    | _, _ => (s, replyOnly .badValue)

/-- WATCH_SET (R165). -/
def execWatchSet (s : State) : Host.Outcome State Fault Refusal := .next (s.handle .watchSet watchSetBody)

/-- A hold ends by a mode: the parked frame is dealt with, the station released, and the lines choose (R173, R174). -/
def State.resume (s : State) (mode : ResumeMode) (station : Nat) : State × ResumeOutcome :=
  let r := s.dealParked mode
  ((r.1.release (if mode = .step then some station else none)).kickBoth, r.2)

/-- WATCH_RESUME(mode) (R173). -/
def watchResumeBody (f : Frame) (s : State) : State × Answer :=
  let o := operandsOf f
  if o.length ≠ 1 then (s, replyOnly .badLength)
  else match ResumeMode.ofCode (field o 0 1) with
    | none => (s, replyOnly .badValue)
    | some mode =>
      match s.watch.held with
      | some i =>
        if s.watch.state = .held then
          let r := s.resume mode i
          (r.1, replyWith .ok (be 1 r.2.code))
        else (s, replyOnly .badState)
      | none => (s, replyOnly .badState)

/-- A WATCH_RESUME frame is the row's own when its mode is, or when its operands name no mode (log 14). -/
def resumeRow (mode : ResumeMode) (f : Frame) : Bool :=
  decide (requestOf f = .watchResume) &&
    (match operandsOf f with
     | [b] => decide (ResumeMode.ofCode b.toNat = some mode) || decide (ResumeMode.ofCode b.toNat = none)
     | _ => true)

/-- WATCH_RESUME_CONTINUE (R173). -/
def execWatchResumeContinue (s : State) : Host.Outcome State Fault Refusal :=
  .next (s.handleOldest (resumeRow .continue) (busyWhileLoading watchResumeBody))

/-- WATCH_RESUME_STEP (R174). -/
def execWatchResumeStep (s : State) : Host.Outcome State Fault Refusal :=
  .next (s.handleOldest (resumeRow .step) (busyWhileLoading watchResumeBody))

/-- WATCH_RESUME_DISCARD (R173). -/
def execWatchResumeDiscard (s : State) : Host.Outcome State Fault Refusal :=
  .next (s.handleOldest (resumeRow .discard) (busyWhileLoading watchResumeBody))

end Sys2Proof.Machine
end

