-- ==== Sys2Proof/Machine/Status.lean ====
section
/-! DEFINITION. STATUS_READ (R184, 11.7). -/

namespace Sys2Proof.Machine

/-- The part is LOADING, when the start values are reported in place of what LOADING has not yet set (R184). -/
def State.loading (s : State) : Bool := s.part.phase == .loading

/-- A count of a queue or of the due list, 0 during LOADING (R184). -/
def State.countNow (s : State) (n : Nat) : Nat := if s.loading then 0 else n

/-- The status flags (11.7). -/
def State.statusFlags (s : State) : Nat :=
  bit s.running 0 + bit s.part.openMode 1 + bit (s.part.kind == .warm) 2 + bit s.part.saving 3 + bit s.clock.set 4 +
    bit s.clock.pending.isSome 5 + bit s.journal.oldest.isSome 6 + bit s.watch.captured.isSome 7

/-- A station's state and health flags in one byte (11.7). -/
def State.stationStatus (s : State) (i : Nat) : Byte :=
  BitVec.ofNat 8 ((s.station i).state.code + 16 * (s.station i).health.code)

/-- The pending SET_TIME, free bytes when absent. -/
def pendingBytes : Option Time → List Byte
  | some t => timeBytes t
  | none => absent 11 5

/-- The parked frame's kind and age: kind 00h when none is parked. -/
def parkedBytes : Option Parked → List Byte
  | some p => [p.frame.kind] ++ be 2 p.age
  | none => [0#8] ++ absent 12 2

/-- The capture record's frame fields and time. -/
def capturedBytes : Option CapturedFrame → List Byte
  | some c =>
    [c.kind, c.tag, c.src, c.dst] ++ be 1 c.station ++ be 1 c.length ++
      (c.bytes ++ List.replicate 24 0#8).take 24 ++ timeBytes c.time
  | none => absent 13 35

/-- The watch's bytes (11.7). -/
def Watch.bytes (w : Watch) : List Byte :=
  be 1 w.keyKind.code ++ be 4 w.keyValue ++ be 1 w.filter.toNat ++ be 1 w.action.code ++ be 1 w.state.code ++
    index1 w.held ++ parkedBytes w.parked ++ index1 w.stepMark ++ capturedBytes w.captured ++ be 2 w.matchCount

/-- The 110 data bytes of STATUS_READ (R184, 11.7). The quota period number is derived from the time as it stands, in LOADING from
the kept or initialized time and the loaded parameters, its start value (2.1, R27). -/
def State.statusData (s : State) : List Byte :=
  be 1 s.statusFlags ++ be 1 s.part.cause.code ++ be 1 s.part.image.code ++
    timeBytes s.clock.time ++ pendingBytes s.clock.pending ++ be 2 s.period ++
    be 2 s.journal.records.length ++ be 2 s.journal.reserved ++ optBytes 10 2 s.journal.oldest ++ be 2 s.journal.serial ++
    be 1 (s.countNow s.link.notices.length) ++
    be 1 (16 * s.link.rx.length + s.link.replies.length) ++
    be 1 (16 * s.countNow s.lineA.relay.length + s.countNow s.lineB.relay.length) ++
    be 1 (s.countNow s.link.toCenter.length) ++ be 1 (s.countNow s.planner.due.length) ++
    (List.range 32).map s.stationStatus ++
    s.watch.bytes

/-- STATUS_READ, in LOADING as well as in RUNNING (R184). -/
def statusReadBody (f : Frame) (s : State) : State × Answer :=
  if operandsOf f ≠ [] then (s, replyOnly .badLength) else (s, replyWith .ok s.statusData)

/-- STATUS_READ (R184). -/
def execStatusRead (s : State) : Host.Outcome State Fault Refusal :=
  .next (s.handleOldest (fun f => decide (requestOf f = .statusRead)) statusReadBody)

end Sys2Proof.Machine
end

