-- ==== Sys2Proof/Machine/Dispatch.lean ====
section
/-! DEFINITION. One arm per command: each calls its meaning. -/

namespace Sys2Proof.Machine

def exec (i : Instr) (s : State) : Host.Outcome State Fault Refusal :=
  match i with
  | .mainPowerUp levels => Sys2Proof.Machine.execMainPowerUp levels s
  | .mainPowerLost => Sys2Proof.Machine.execMainPowerLost s
  | .resetPinAsserted => Sys2Proof.Machine.execResetPinAsserted s
  | .resetPinReleased levels => Sys2Proof.Machine.execResetPinReleased levels s
  | .enterRunning => Sys2Proof.Machine.execEnterRunning s
  | .requestedStart levels => Sys2Proof.Machine.execRequestedStart levels s
  | .clockAdvance => Sys2Proof.Machine.execClockAdvance s
  | .roundDeadlineReached round => Sys2Proof.Machine.execRoundDeadlineReached round s
  | .standingRelease round => Sys2Proof.Machine.execStandingRelease round s
  | .sampleCountdownExpiry container => Sys2Proof.Machine.execSampleCountdownExpiry container s
  | .sampleOutstandingExpiry container => Sys2Proof.Machine.execSampleOutstandingExpiry container s
  | .grantWindowExpiry container => Sys2Proof.Machine.execGrantWindowExpiry container s
  | .serviceWindowExpiry container => Sys2Proof.Machine.execServiceWindowExpiry container s
  | .liftLimitExpiry container => Sys2Proof.Machine.execLiftLimitExpiry container s
  | .settleTimeExpiry container => Sys2Proof.Machine.execSettleTimeExpiry container s
  | .holdTimeout => Sys2Proof.Machine.execHoldTimeout s
  | .responseWindowExpired line => Sys2Proof.Machine.execResponseWindowExpired line s
  | .lineFrameSent line => Sys2Proof.Machine.execLineFrameSent line s
  | .lineFrameReceived line markerInWindow bytes => Sys2Proof.Machine.execLineFrameReceived line markerInWindow bytes s
  | .backhaulFrameReceived bytes => Sys2Proof.Machine.execBackhaulFrameReceived bytes s
  | .backhaulTransmitBegin => Sys2Proof.Machine.execBackhaulTransmitBegin s
  | .backhaulTransmitDone => Sys2Proof.Machine.execBackhaulTransmitDone s
  | .unknownRequest => Sys2Proof.Machine.execUnknownRequest s
  | .relayStationCmd => Sys2Proof.Machine.execRelayStationCmd s
  | .tableWrite => Sys2Proof.Machine.execTableWrite s
  | .tableRead => Sys2Proof.Machine.execTableRead s
  | .journalRead => Sys2Proof.Machine.execJournalRead s
  | .journalRelease => Sys2Proof.Machine.execJournalRelease s
  | .noticeFlagsRead => Sys2Proof.Machine.execNoticeFlagsRead s
  | .noticeFlagsClear => Sys2Proof.Machine.execNoticeFlagsClear s
  | .setTime => Sys2Proof.Machine.execSetTime s
  | .statusRead => Sys2Proof.Machine.execStatusRead s
  | .imageSave => Sys2Proof.Machine.execImageSave s
  | .imageSaveComplete success => Sys2Proof.Machine.execImageSaveComplete success s
  | .tablesClear => Sys2Proof.Machine.execTablesClear s
  | .restart => Sys2Proof.Machine.execRestart s
  | .roundDraft => Sys2Proof.Machine.execRoundDraft s
  | .roundRelease => Sys2Proof.Machine.execRoundRelease s
  | .roundClose => Sys2Proof.Machine.execRoundClose s
  | .roundAbort => Sys2Proof.Machine.execRoundAbort s
  | .containerBar => Sys2Proof.Machine.execContainerBar s
  | .containerUnbar => Sys2Proof.Machine.execContainerUnbar s
  | .sensorClear => Sys2Proof.Machine.execSensorClear s
  | .forceDue => Sys2Proof.Machine.execForceDue s
  | .watchSet => Sys2Proof.Machine.execWatchSet s
  | .watchResumeContinue => Sys2Proof.Machine.execWatchResumeContinue s
  | .watchResumeStep => Sys2Proof.Machine.execWatchResumeStep s
  | .watchResumeDiscard => Sys2Proof.Machine.execWatchResumeDiscard s
  | .backupSupplyLost => Sys2Proof.Machine.execBackupSupplyLost s

end Sys2Proof.Machine
end

