-- ==== Sys2Proof/Safety.lean ====
section
/-! DEFINITION. What is claimed of the part: the laws its state keeps, and the words in which the statements name a
frame, a request, its answer and a line that chooses nothing. -/

namespace Sys2Proof.Machine

/-! ### Laws -/

/-- The queues of the endpoint and of the lines hold no more frames than the manual gives them, the place kept for a parked
STATION_MAINT counting in the relay queue to the center (R177, R11, R29, R180, 1.6). -/
def State.queuesBounded (s : State) : Bool :=
  decide (s.link.rx.length ≤ 4) && decide (s.link.replies.length ≤ 4) && decide (s.link.notices.length ≤ 16) &&
    decide (s.lineA.relay.length ≤ 8) && decide (s.lineB.relay.length ≤ 8) && decide (s.centerPlaces ≤ 8)

/-- Every table and the image area are in their canonical form. -/
def State.canonical (s : State) : Bool :=
  s.classes.wf NoticeClass.blank && s.stations.wf Station.blank && s.banks.wf Bank.blank &&
    s.fractions.wf FractionRec.blank && s.shapes.wf Shape.blank && s.containers.wf Container.blank &&
    s.cards.wf Card.blank && s.households.wf Household.blank && s.rounds.wf Round.blank && Memory.wf s.flash

/-- The law of the grant and of the crew states at one inlet (R117, R148): an open grant exactly in OPEN, a service record
exactly in SERVICE, with its window running, and in LIFTING, with its lift limit running, a settle time exactly in
SETTLING; and at rest the inlet is LOCKED with an empty bar set or BARRED with a reason (R109). -/
def Inlet.lawful (n : Inlet) : Bool :=
  match n.state with
  | .locked => n.grant.isNone && n.service.isNone && n.settleLeft.isNone && decide (n.bars = BarSet.empty)
  | .opened => n.grant.isSome && n.service.isNone && n.settleLeft.isNone && decide (n.bars = BarSet.empty)
  | .service =>
    n.grant.isNone && (n.service.bind Service.windowLeft).isSome && (n.service.bind Service.limitLeft).isNone &&
      n.settleLeft.isNone
  | .lifting =>
    n.grant.isNone && (n.service.bind Service.windowLeft).isNone && (n.service.bind Service.limitLeft).isSome &&
      n.settleLeft.isNone
  | .settling => n.grant.isNone && n.service.isNone && n.settleLeft.isSome
  | .barred => n.grant.isNone && n.service.isNone && n.settleLeft.isNone && decide (n.bars ≠ BarSet.empty)

/-- Every inlet keeps the law of the grant and of the crew states (R117, R148). -/
def State.inletsLawful (s : State) : Prop := ∀ c, (s.container c).inlet.lawful = true

/-- The law of the due list (R129), with the classes of R130 and the order of R131: a container has an entry, and with
its class, exactly when it is a member; no container has two; and the entries stand in order. -/
def State.dueLawful (s : State) : Prop :=
  (∀ c cls, (∃ e ∈ s.planner.due, e.container = c ∧ e.cls = cls) ↔ (s.container c).dueClass = some cls) ∧
    (s.planner.due.map DueEntry.container).Nodup ∧ s.planner.due.Pairwise (fun a b => a.ahead b = true)

/-- The grant records and service records of a container whose reserved flag is set (R60). -/
def Container.reservations (k : Container) : Nat :=
  (if (k.inlet.grant.map Grant.reserved).getD false then 1 else 0) +
    (if (k.inlet.service.map Service.reserved).getD false then 1 else 0)

/-- The grant records and service records whose reserved flag is set, over all containers (R60). -/
def State.reservations (s : State) : Nat := (s.containers.entries.map (fun e => e.2.reservations)).sum

/-- The law of the journal (R60). -/
def State.journalLawful (s : State) : Prop := s.journal.places ≤ 1024 ∧ s.journal.reserved = s.reservations

/-- A container has an open grant bound to a household and fraction (R54). -/
def Container.binds (k : Container) (h : Nat) (f : Fraction) : Nat :=
  match k.inlet.grant with
  | some g => if g.household = some h ∧ g.fraction = f then 1 else 0
  | none => 0

/-- The number of open grants bound to a household and fraction (R54). -/
def State.openGrants (s : State) (h : Nat) (f : Fraction) : Nat :=
  (s.containers.entries.map (fun e => e.2.binds h f)).sum

/-- The law of the household counts (R54). -/
def State.householdsLawful (s : State) : Prop := ∀ h f, (s.household h).held.get f = s.openGrants h f

/-! ### Configuration (R182) -/

/-- The ranges of a container's configuration (R84, R99, R128). -/
def ContainerCfg.legal (p : ContainerCfg) : Prop :=
  500 ≤ p.capacity ∧ p.capacity ≤ 5000 ∧ 300 ≤ p.height ∧ p.height ≤ 3000 ∧ p.deadZone ≤ 400 ∧ p.shape ≤ 7 ∧
    1 ≤ p.weight ∧ p.weight ≤ 8 ∧ p.tolerance ≤ 500 ∧ p.sinkStep ≤ 200 ∧ p.qMin ≤ 15 ∧ 1 ≤ p.sampleInterval ∧
    p.sampleInterval ≤ 240 ∧ p.extraEvery ≤ 15 ∧ 100 ≤ p.alertLevel ∧ p.alertLevel < p.fullLevel ∧ p.fullLevel ≤ 1000 ∧
    1 ≤ p.confirmCount ∧ p.confirmCount ≤ 8 ∧ p.residueLimit ≤ 500 ∧ ∀ a, p.alternate = some a → a ≤ 127

/-- The ranges of the parameters record (R27, R36, R48, R101, R148, R164). -/
def Params.legal (p : Params) : Prop :=
  p.districtCode ≤ 65535 ∧ 1 ≤ p.cardLimit ∧ p.cardLimit ≤ 4096 ∧ 1 ≤ p.periodLength ∧ p.periodLength ≤ 31 ∧
    p.anchorDay ≤ 65535 ∧ 2 ≤ p.invalidLimit ∧ p.invalidLimit ≤ 15 ∧ 60 ≤ p.serviceWindow ∧ p.serviceWindow ≤ 900 ∧
    30 ≤ p.settleTime ∧ p.settleTime ≤ 600 ∧ 10 ≤ p.holdTimeout ∧ p.holdTimeout ≤ 600

/-- A shape starts at 0, ends at 1000 and does not decrease (R83). -/
def Shape.legal (p : Shape) : Prop :=
  p.points.length = 9 ∧ p.point 0 = 0 ∧ p.point 8 = 1000 ∧ ∀ k, k < 8 → p.point k ≤ p.point (k + 1)

/-- Every configured quantity lies in its range and every reference names a record (R182). -/
def State.configLegal (s : State) : Prop :=
  s.params.legal ∧
    (∀ i, (s.station i).cfg.bank ≤ 15 ∧ 5 ≤ (s.station i).cfg.grantWindow ∧ (s.station i).cfg.grantWindow ≤ 60 ∧
      1 ≤ (s.station i).cfg.slotCount ∧ (s.station i).cfg.slotCount ≤ 4) ∧
    (∀ i, (s.bank i).displayNumber ≤ 255) ∧ (∀ f, (s.fraction f).nominal ≤ 255) ∧ (∀ i, (s.shape i).legal) ∧
    (∀ c, (s.container c).cfg.legal) ∧
    (∀ i, (s.card i).cfg.generation ≤ 15 ∧ ∀ h, (s.card i).cfg.household = some h → h ≤ 2047) ∧
    (∀ h f, (s.household h).cfg.allowance.get f ≤ 255) ∧
    (∀ r, (s.round r).cfg.releaseTime ≤ 86399 ∧ 10 ≤ (s.round r).cfg.deadlineLen ∧ (s.round r).cfg.deadlineLen ≤ 1440 ∧
      (s.round r).stops.length ≤ 24 ∧ ∀ n, (s.round r).cfg.crew = some n → 1 ≤ n ∧ n ≤ 4095) ∧
    ∀ n, (s.noticeClass n).priority ≤ 3

/-- A round's stops name containers 0-127, none twice (R136). -/
def Round.stopsLegal (d : Round) : Prop :=
  (∀ p ∈ d.stops, p.container ≤ 127) ∧ (d.stops.map Stop.container).Nodup

/-- A present container is one of the 128, its slot at most its station's slot count (R182). -/
def slotsLegal (present : Nat → Bool) (slotCount : Nat → Nat) : Prop :=
  ∀ c, present c = true → c ≤ 127 ∧ c % 4 + 1 ≤ slotCount (c / 4)

/-- The cross-field rules that reach beyond one value or one record: the stops of every round (R136), and the slots of the
present containers (R182). -/
def State.crossLegal (s : State) : Prop :=
  (∀ r, (s.round r).stopsLegal) ∧
    slotsLegal (fun c => (s.container c).cfg.present) (fun i => (s.station i).cfg.slotCount)

/-- An image area that judges VALID holds slots as TABLE_WRITE would have left them. No rule checks this as an image is loaded
(log 8). -/
def imageSlotsLegal (cells : List Host.Cell) : Prop :=
  judge true cells = .valid →
    slotsLegal (fun c => decide (c ≤ 127) && (loadedContainer cells c).present) (fun i => (loadedStation cells i).slotCount)

/-! ### Requests and replies (R178, R191, 11.7) -/

/-- A frame is a REQUEST to the endpoint, with a request code and operand bytes. -/
def Frame.asks (f : Frame) (code : Byte) (operands : List Byte) : Prop :=
  f.dst = 0x00#8 ∧ f.kind = 0x21#8 ∧ f.payload = code :: operands

/-- The endpoint of a RUNNING part takes a frame next, with others behind it: it is the oldest of the receive buffer, fewer
than 4 replies wait, and no start has been asked for. -/
def State.takes (s : State) (f : Frame) (rest : List Frame) : Prop :=
  s.part.phase = .running ∧ s.link.rx = f :: rest ∧ s.link.replies.length < 4 ∧ s.part.requested = none

/-- The reply to a frame: to the center, with the frame's TAG, a result code, a request code and data. -/
def Frame.reply (f : Frame) (kind result code : Byte) (data : List Byte) : Frame :=
  { dst := 0x7F#8, src := 0x00#8, kind := kind, tag := f.tag, payload := result :: code :: data }

/-- The state with the frame taken out of the receive buffer and a reply put behind the replies that wait. -/
def State.replied (s : State) (rest : List Frame) (r : Frame) : State :=
  { s with link := { s.link with rx := rest, replies := s.link.replies ++ [r] } }

/-- A REQUEST is answered by a REPLY and has no other effect. -/
def State.answered (s : State) (f : Frame) (rest : List Frame) (result code : Byte) (data : List Byte) : State :=
  s.replied rest (f.reply 0x22#8 result code data)

/-- The rows that handle a frame of the receive buffer, each with the kind of request it handles; STATUS_READ and the three modes
of WATCH_RESUME have their own statements. -/
def requestRows : List (Instr × Request) :=
  [(.unknownRequest, .unknown), (.relayStationCmd, .relay), (.tableWrite, .tableWrite), (.tableRead, .tableRead),
   (.journalRead, .journalRead), (.journalRelease, .journalRelease), (.noticeFlagsRead, .noticeFlagsRead),
   (.noticeFlagsClear, .noticeFlagsClear), (.setTime, .setTime), (.imageSave, .imageSave), (.tablesClear, .tablesClear),
   (.restart, .restart), (.roundDraft, .roundDraft), (.roundRelease, .roundRelease), (.roundClose, .roundClose),
   (.roundAbort, .roundAbort), (.containerBar, .containerBar), (.containerUnbar, .containerUnbar),
   (.sensorClear, .sensorClear), (.forceDue, .forceDue), (.watchSet, .watchSet)]

/-- The request codes (11.7). -/
def requestCodes : List (Byte × Request) :=
  [(0x01#8, .tableWrite), (0x02#8, .tableRead), (0x03#8, .journalRead), (0x04#8, .journalRelease),
   (0x05#8, .noticeFlagsRead), (0x06#8, .noticeFlagsClear), (0x07#8, .setTime), (0x08#8, .statusRead),
   (0x09#8, .imageSave), (0x0A#8, .tablesClear), (0x0B#8, .restart), (0x0C#8, .roundDraft), (0x0D#8, .roundRelease),
   (0x0E#8, .roundClose), (0x0F#8, .roundAbort), (0x10#8, .containerBar), (0x11#8, .containerUnbar),
   (0x12#8, .sensorClear), (0x13#8, .forceDue), (0x14#8, .watchSet), (0x15#8, .watchResume)]

/-- A table as 11.3 and 11.7 give it: its code, its first and last write index, and the length of its record image. -/
structure TableForm where
  code   : Byte
  first  : Nat
  last   : Nat
  length : Nat
  deriving DecidableEq, Repr

/-- The tables (11.3, 11.7). -/
def tableForms : List TableForm :=
  [⟨0#8, 0, 0, 14⟩, ⟨1#8, 0, 31, 9⟩, ⟨2#8, 0, 15, 2⟩, ⟨3#8, 0, 5, 2⟩, ⟨4#8, 0, 7, 18⟩, ⟨5#8, 0, 127, 75⟩,
   ⟨6#8, 1, 4095, 15⟩, ⟨7#8, 0, 2047, 22⟩, ⟨8#8, 0, 3, 66⟩, ⟨9#8, 1, 24, 6⟩]

/-! ### Byte layouts (11.7) -/

/-- A position of a byte layout: how many bytes it takes, and the number they spell, high byte first; none where the layout gives
no value for an absent field and the bytes are left open (log 9). -/
structure Position where
  width : Nat
  shown : Option Nat
  deriving DecidableEq, Repr

/-- A position that spells a number. -/
def num (width value : Nat) : Position := { width := width, shown := some value }

/-- The positions of a district time, day and second of day, or FFh throughout. -/
def timePositions : Option Time → List Position
  | some t => [num 2 t.day, num 3 t.sec]
  | none => [num 2 0xFFFF, num 3 0xFFFFFF]

/-- Bytes spell a layout: its positions one after another, and no byte more. -/
def spells : List Byte → List Position → Prop
  | bytes, [] => bytes = []
  | bytes, p :: rest =>
    p.width ≤ bytes.length ∧ (∀ v, p.shown = some v → bytes.take p.width = be p.width v) ∧ spells (bytes.drop p.width) rest

/-- Flags in a number, the first at bit 0. -/
def flagBits : List Bool → Nat
  | [] => 0
  | b :: rest => b.toNat + 2 * flagBits rest

/-- Every enumeration that a layout shows is coded by its position in the list where the manual first gives it, from 0. -/
def codesFollowTheLists : Prop :=
  (∀ x : Fraction, [.residual, .paper, .glass, .packaging, .organic, .textile][x.code]? = some x) ∧
    (∀ x : CardClass, [.resident, .business, .crew][x.code]? = some x) ∧
    (∀ x : CardStatus, [.active, .suspended, .lost][x.code]? = some x) ∧
    (∀ x : StationState, [.unknown, .online, .silent, .lost, .disabled][x.code]? = some x) ∧
    (∀ x : FillStatus, [.unknown, .normal, .high, .fullPending, .full, .overfull][x.code]? = some x) ∧
    (∀ x : SensorState, [.good, .degraded, .failed][x.code]? = some x) ∧
    (∀ x : InletState, [.locked, .opened, .service, .lifting, .settling, .barred][x.code]? = some x) ∧
    (∀ x : InletAction, [.unlock, .lock, .serviceUnlock, .showCode][x.code]? = some x) ∧
    (∀ x : DisplayCode, [.ready, .granted, .serviceGranted, .closed, .outOfService, .servicing, .inletBusy, .full,
      .bank, .fraction, .quota, .journalFull, .noAccount, .stale, .noSlot, .wrongReader, .nullCard, .foreign,
      .unknownCard, .revoked, .suspended, .lostCard][x.code]? = some x) ∧
    (∀ x : RecordKind, [.deposit, .lift][x.code]? = some x) ∧
    (∀ x : DueClass, [.overfull, .full, .missed, .forced, .high][x.code]? = some x) ∧
    (∀ x : StopOrigin, [.planned, .drafted, .unplanned][x.code]? = some x) ∧
    (∀ x : RoundState, [.free, .loaded, .active, .closing, .closed][x.code]? = some x) ∧
    (∀ x : StartCause, [.power, .resetPin, .restart, .tablesClear][x.code]? = some x) ∧
    (∀ x : ImageState, [.blank, .valid, .corrupt][x.code]? = some x) ∧
    (∀ x : KeyKind, [.cardNumber, .cardRecord, .container, .station][x.code]? = some x) ∧
    (∀ x : WatchAction, [.off, .capture, .holdAfter, .holdBefore][x.code]? = some x) ∧
    (∀ x : WatchState, [.off, .armed, .held][x.code]? = some x) ∧
    (∀ x : StopState, [.pending, .servicing, .done, .skipped, .missed][StopState.code (some x)]? = some x) ∧
    (∀ x : RoundCommand, [.release, .close, .abort][RoundCommand.code (some x)]? = some x) ∧
    (∀ x : ClosingCause, [.close, .deadline][ClosingCause.code (some x)]? = some x) ∧
    StopState.code none = 7 ∧
    ∀ age, [SampleRequest.idle, .deferred, .pending, .outstanding age].map SampleRequest.code = [0, 1, 2, 3]

/-- The layout of a journal record, the period shown where it is present. -/
def JournalRecord.layout (r : JournalRecord) : List Position :=
  [num 2 r.serial, num 1 r.kind.code] ++ timePositions (some r.time) ++
    [num 1 r.container, num 2 (r.card.getD 0xFFFF), num 2 (r.household.getD 0xFFFF), num 1 r.fraction.code,
     { width := 2, shown := r.period }, num 1 (flagBits [r.late, r.openMode, r.period.isSome])]

/-- The layout of a container's configuration. -/
def ContainerCfg.layout (p : ContainerCfg) : List Position :=
  [num 1 p.present.toNat, num 1 p.fraction.code, num 2 p.capacity, num 2 p.height, num 2 p.deadZone, num 1 p.shape,
   num 1 p.weight, num 2 p.tolerance, num 1 p.sinkStep, num 1 p.qMin, num 1 p.sampleInterval, num 1 p.extraEvery,
   num 2 p.alertLevel, num 2 p.fullLevel, num 1 p.confirmCount, num 2 p.residueLimit, num 1 (p.alternate.getD 0xFF)]

/-- The layout of the Fill Estimator's fields of a container, with its eight flags. -/
def Container.fillLayout (k : Container) : List Position :=
  [num 2 (k.fill.estimate.getD 0xFFFF), num 1 k.fill.status.code, num 1 k.fill.fullCount, num 1 k.fill.sensor.code,
   num 1 k.fill.streak, num 1 k.fill.stuck,
   num 1 (flagBits [k.fill.risePending, k.fill.postLift, k.forced, k.missed, k.inlet.lastDrum.isSome,
     k.fill.lastTof.isSome, k.inlet.grant.isSome, k.inlet.service.isSome]),
   { width := 2, shown := k.fill.lastTof }, num 2 k.fill.deposits, num 1 (k.fill.countdown.getD 0),
   num 1 k.fill.request.code,
   { width := 1, shown := match k.fill.request with
      | .outstanding age => some age
      | _ => none }]

/-- The layout of Inlet Control's fields. The window of a LOCK or a SHOW is 0 (R4). A service window or lift limit that does not
run is FFFFh, the model's reading (log 22). -/
def Inlet.layout (n : Inlet) : List Position :=
  [num 1 n.state.code,
   num 1 (flagBits [n.bars.center, n.bars.stationLost, n.bars.stationDisabled, n.bars.notSeen, n.bars.notPresent,
     n.bars.liftOpen])] ++
    (match n.command with
     | some c => [num 1 c.action.code, num 2 (if c.action = .unlock ∨ c.action = .serviceUnlock then c.window else 0),
                  num 1 c.code.code, num 1 c.value]
     | none => [num 1 0xFF, { width := 4, shown := none }]) ++
    [{ width := 2, shown := n.lastDrum }, num 2 n.unattributed] ++
    (match n.grant with
     | some g => [num 2 g.card, num 2 (g.household.getD 0xFFFF), num 1 g.fraction.code, num 2 g.period, num 1 g.windowLeft]
     | none => List.replicate 8 (num 1 0xFF)) ++
    (match n.service with
     | some v => [num 2 (v.crew.getD 0xFFFF), num 1 (v.round.getD 0xFF), num 1 (v.stop.getD 0xFF),
                  num 2 (v.windowLeft.getD 0xFFFF), num 2 (v.limitLeft.getD 0xFFFF)]
     | none => List.replicate 8 (num 1 0xFF)) ++
    [num 1 (flagBits [(n.grant.map Grant.reserved).getD false, (n.service.map Service.reserved).getD false])]

/-- The layout of a container's due entry: its class, its place from 1, its since and its assigned round. -/
def State.dueLayout (s : State) (c : Nat) : List Position :=
  match s.planner.due.find? (fun e => e.container == c) with
  | some e => [num 1 e.cls.code, num 1 (s.planner.due.findIdx (fun x => x.container == c) + 1)] ++
      timePositions (some e.since) ++ [num 1 ((s.assignedRound c).getD 0xFF)]
  | none => List.replicate 8 (num 1 0xFF)

/-- The layout of a round's record: its 24 stop containers and its 24 stop states and origins, FFh beyond the stop count; a crew
card of none is 0000h. A requested command or closing cause that is absent is FFh, the model's reading (log 22). -/
def Round.layout (d : Round) : List Position :=
  [num 1 d.cfg.fraction.code, num 2 (d.cfg.crew.getD 0), num 1 d.cfg.standing.toNat, num 3 d.cfg.releaseTime,
   num 2 d.cfg.deadlineLen, num 1 d.stops.length] ++
    (List.range 24).map (fun k => num 1 ((d.stops[k]?.map Stop.container).getD 0xFF)) ++
    [num 1 d.state.code, num 1 (RoundCommand.code d.requested), num 1 (ClosingCause.code d.closing)] ++
    timePositions d.deadline ++
    (List.range 24).map (fun k => num 1 ((d.stops[k]?.map (fun p => StopState.code p.state + 16 * p.origin.code)).getD 0xFF))

/-- The layout of the record image a read of an index shows. Yes is 1 and no is 0, METERED 1 and FLAT 0, the model's reading
(log 10); a last raise without subject shows 0000h there, the model's reading (log 26). -/
def State.layout (s : State) : Table → Nat → List Position
  | .parameters, _ =>
    let p := s.params
    [num 2 p.districtCode, num 2 p.cardLimit, num 1 p.periodLength, num 2 p.anchorDay, num 1 p.invalidLimit,
     num 2 p.serviceWindow, num 2 p.settleTime, num 2 p.holdTimeout]
  | .station, i =>
    let k := s.station i
    [num 1 k.cfg.enabled.toNat, num 1 k.cfg.bank, num 1 k.cfg.grantWindow, num 1 k.cfg.slotCount, num 1 k.state.code,
     num 1 k.missCount,
     num 1 (flagBits [k.seen, k.acceptOwed, s.isHeld i, k.lastItem.isSome, s.fastNeed i,
       (s.line (lineOf i)).priority.contains i]),
     { width := 1, shown := k.lastItem }, num 1 (flagBits [k.health.tamper, k.health.flood, k.health.supplyLow])]
  | .bank, i => [num 1 (s.bank i).residentialOnly.toNat, num 1 (s.bank i).displayNumber]
  | .fraction, i =>
    let f := Tab.get FractionRec.blank s.fractions i
    [num 1 f.nominal, num 1 f.metered.toNat]
  | .shape, i => (List.range 9).map (fun k => num 2 ((s.shape i).point k))
  | .container, c =>
    (s.container c).cfg.layout ++ (s.container c).fillLayout ++ (s.container c).inlet.layout ++ s.dueLayout c
  | .card, i =>
    let p := (s.card i).cfg
    [num 1 p.generation, num 1 p.cls.code, num 1 p.status.code, num 2 (p.household.getD 0xFFFF), num 1 p.fractions.toNat,
     num 2 p.banks.toNat] ++
      (match (s.card i).lastSeen with
       | some l => timePositions (some l.time) ++ [num 1 l.container, num 1 l.code.code]
       | none => [{ width := 6, shown := none }, num 1 0xFF])
  | .household, h =>
    let r := s.household h
    let each := fun p : PerFraction =>
      [num 1 p.residual, num 1 p.paper, num 1 p.glass, num 1 p.packaging, num 1 p.organic, num 1 p.textile]
    [num 1 r.cfg.metered.toNat] ++ each r.cfg.allowance ++ each r.used ++
      [num 1 r.epoch.isSome.toNat, { width := 2, shown := r.epoch }] ++ each r.held
  | .round, i =>
    if i < 4 then (s.round i).layout
    else (List.range 12).flatMap (fun k =>
      timePositions (((s.round ((i - 4) / 2)).stops[12 * (i % 2) + k]?).bind Stop.doneTime))
  | .noticeClass, n =>
    let c := s.noticeClass n
    [num 1 c.priority, num 1 (flagBits [c.flag, c.overrun, c.last.isSome, (c.last.bind Raise.subject).isSome])] ++
      (match c.last with
       | some r => [num 2 (r.subject.getD 0), num 2 r.value]
       | none => [{ width := 4, shown := none }])

/-- The layout of the STATUS_READ data, the counts that LOADING has not yet set reading 0 (R184). -/
def State.statusLayout (s : State) : List Position :=
  let running := fun n : Nat => if s.part.phase = .loading then 0 else n
  let w := s.watch
  [num 1 (flagBits [s.part.phase == .running, s.part.openMode, s.part.kind == .warm, s.part.saving, s.clock.set,
     s.clock.pending.isSome, !s.journal.records.isEmpty, w.captured.isSome]),
   num 1 s.part.cause.code, num 1 s.part.image.code] ++ timePositions (some s.clock.time) ++
    (match s.clock.pending with
     | some t => timePositions (some t)
     | none => [{ width := 5, shown := none }]) ++
    [num 2 s.period, num 2 s.journal.records.length, num 2 s.journal.reserved,
     { width := 2, shown := s.journal.records.head?.map JournalRecord.serial }, num 2 s.journal.serial,
     num 1 (running s.link.notices.length), num 1 (16 * s.link.rx.length + s.link.replies.length),
     num 1 (16 * running s.lineA.relay.length + running s.lineB.relay.length), num 1 (running s.link.toCenter.length),
     num 1 (running s.planner.due.length)] ++
    (List.range 32).map (fun i =>
      let k := s.station i
      num 1 (k.state.code + 16 * flagBits [k.health.tamper, k.health.flood, k.health.supplyLow])) ++
    [num 1 w.keyKind.code, num 4 w.keyValue, num 1 w.filter.toNat, num 1 w.action.code, num 1 w.state.code,
     num 1 (w.held.getD 0xFF)] ++
    (match w.parked with
     | some p => [num 1 p.frame.kind.toNat, num 2 p.age]
     | none => [num 1 0, { width := 2, shown := none }]) ++
    [num 1 (w.stepMark.getD 0xFF)] ++
    (match w.captured with
     | some c => [num 1 c.kind.toNat, num 1 c.tag.toNat, num 1 c.src.toNat, num 1 c.dst.toNat, num 1 c.station,
                  num 1 c.length] ++ (List.range 24).map (fun k => num 1 ((c.bytes[k]?).getD 0#8).toNat) ++
         timePositions (some c.time)
     | none => [{ width := 35, shown := none }]) ++
    [num 2 w.matchCount]

/-! ### What a line's choice of its next turn leaves alone -/

/-- A container with its pending inlet command, if any, counted as sent (R7). -/
def Container.asSent (k : Container) : Container :=
  { k with inlet := { k.inlet with command := k.inlet.command.map InletCommand.markSent } }

/-- From one state to the other the lines have at most chosen turns and sent frames (R5, R19, R169, R170): only the turns,
priority lists and rotations of the lines, the watch, class 23 with the notice queue, and which commands have been sent may
differ. -/
def State.onlyChose (s t : State) : Prop :=
  { t with lineA := s.lineA, lineB := s.lineB, watch := s.watch, classes := s.classes, containers := s.containers,
           link := { t.link with notices := s.link.notices } } = s ∧
    t.lineA.relay = s.lineA.relay ∧ t.lineB.relay = s.lineB.relay ∧
    (∀ n, n ≠ 23 → t.noticeClass n = s.noticeClass n) ∧
    ∀ c, (t.container c).asSent = (s.container c).asSent

/-! ### What the statements say happens at a container, to a stop and at a hold -/

/-- The priority turn that every set of a pending inlet command asks for (R17, R111): the container's station joins the end of
its line's priority list, unless it is DISABLED or on the list; nothing else of the two lines changes. -/
def State.turnAsked (s t : State) (c : Nat) : Prop :=
  let l := lineOf (stationOf c)
  let list := (s.line l).priority
  (∀ l', l' ≠ l → t.line l' = s.line l') ∧
    t.line l = { s.line l with priority :=
      if (s.station (stationOf c)).state = .disabled ∨ stationOf c ∈ list then list else list ++ [stationOf c] }

/-- A class's flag stands, and its last raise has a subject and a value (R29). -/
def State.told (t : State) (n : Nat) (subject : Option Nat) (value : Nat) : Prop :=
  (t.noticeClass n).flag = true ∧ (t.noticeClass n).last = some { subject := subject, value := value }

/-- LOCK with display code CLOSED and value 0, not yet sent (7.2). -/
def InletCommand.closed : InletCommand := { action := .lock, window := 0, code := .closed, value := 0, sent := false }

/-- A crew is at work at the inlet: SERVICE or LIFTING. -/
def Inlet.working (n : Inlet) : Bool := n.state == .service || n.state == .lifting

/-- The inlet defers sample requests: OPEN or SETTLING (R88). -/
def Inlet.waits (n : Inlet) : Bool := n.state == .opened || n.state == .settling

/-- The container is present and its sensor is not FAILED: its sample requests are not dropped (R85). -/
def Container.live (k : Container) : Bool := k.cfg.present && k.fill.sensor != .failed

/-- An inlet that a reason bars from any state, with its set as it then stands (R108, R123, R162): an OPEN inlet's grant is
gone, a crew's record too, a settle time is stopped, and where a grant or a crew's work ended LOCK CLOSED is set. -/
def Inlet.endedBy (n : Inlet) (bars : BarSet) : Inlet :=
  { n with
    state := .barred
    bars := bars
    grant := if n.state = .opened then none else n.grant
    service := if n.working then none else n.service
    settleLeft := if n.state = .settling then none else n.settleLeft
    command := if n.state = .opened ∨ n.working = true then some InletCommand.closed else n.command }

/-- The fill fields of a container whose inlet a reason bars from any state (R82, R88, R90, R162): a crew's work that ends
leaves E unknown and asks for a sample, and a DEFERRED request is PENDING once OPEN or SETTLING is left. -/
def Container.fillEnded (k : Container) : Fill :=
  let f := if k.inlet.working then { k.fill with estimate := none, risePending := false, status := .unknown, fullCount := 0 }
    else k.fill
  { f with request := match k.fill.request with
      | .deferred => if k.inlet.waits then .pending else .deferred
      | .idle => if k.inlet.working && k.live then .pending else .idle
      | q => q }

/-- An OUTSTANDING request ends PENDING, or IDLE when the container is not present or its sensor FAILED (R89). -/
def Container.outstandingGone (k : Container) (q : SampleRequest) : SampleRequest :=
  match q with
  | .outstanding _ => if k.live then .pending else .idle
  | other => other

/-- The stop a service record names has been given back, the work at its container having ended without a tip (R154, R158,
R159, R162): PENDING in an ACTIVE round. In a CLOSING round (R146) it is SKIPPED, or under the cause DEADLINE MISSED, with
the missed mark and STOP_MISSED. No other round and no other stop changes. -/
def State.stopReturned (s t : State) (c : Nat) (v : Service) : Prop :=
  (∀ r i, v.round = some r → v.stop = some i →
    let d := s.round r
    let late := d.state = .closing ∧ d.closing = some .deadline
    let become := fun st : StopState => d.stops.modify i (fun p => { p with state := some st })
    (∀ q, q ≠ r → t.round q = s.round q) ∧
    t.round r = { d with stops :=
      if d.state = .active then become .pending
      else if late then become .missed
      else if d.state = .closing then become .skipped
      else d.stops } ∧
    (late → (t.container c).missed = true ∧ t.told 18 (some c) r) ∧
    (¬late → (t.container c).missed = (s.container c).missed ∧ t.noticeClass 18 = s.noticeClass 18)) ∧
  (v.round = none → t.rounds = s.rounds ∧ (t.container c).missed = (s.container c).missed ∧
    t.noticeClass 18 = s.noticeClass 18)

/-- The counts of a grant that has ended without a deposit (R56, R64): its household holds one less of its fraction, and a
reservation is released. -/
def State.grantGone (s t : State) (g : Grant) : Prop :=
  (∀ h, g.household = some h → t.household h = { s.household h with
    held := (s.household h).held.set g.fraction ((s.household h).held.get g.fraction - 1) }) ∧
  ∀ j, g.household ≠ some j → t.household j = s.household j

/-- A PENDING stop of a container, in an ACTIVE round that satisfies ok, is the one open stop the container has there: the
law of the stops (R153) allows no second. -/
def State.soleStop (s : State) (c : Nat) (ok : Round → Prop) (r i : Nat) : Prop :=
  r < 4 ∧ (s.round r).state = .active ∧ ok (s.round r) ∧
    (∃ p, (s.round r).stops[i]? = some p ∧ p.container = c ∧ p.state = some .pending) ∧
    ∀ q j p, q < 4 → (s.round q).state = .active → ok (s.round q) → (s.round q).stops[j]? = some p → p.container = c →
      p.state = some .pending → q = r ∧ j = i

/-- No ACTIVE round that satisfies ok holds a PENDING stop for a container. -/
def State.noStop (s : State) (c : Nat) (ok : Round → Prop) : Prop :=
  ∀ r, r < 4 → (s.round r).state = .active → ok (s.round r) → ∀ p ∈ (s.round r).stops, p.container = c →
    p.state ≠ some .pending

/-- A tipped lift has made a stop DONE now: no other round and no other stop has changed (R157). -/
def State.stopDone (s t : State) (r i : Nat) : Prop :=
  (∀ q, q ≠ r → t.round q = s.round q) ∧
    t.round r = { s.round r with stops := (s.round r).stops.modify i (fun p =>
      { p with state := some .done, doneTime := some s.clock.time }) }

/-- The notice of a fill status that an evaluation has changed, with the fill per mille as value (R97): FILL_OVERFULL,
FILL_FULL or FILL_HIGH, and of the three classes that one alone. -/
def State.fillReported (s t : State) (c : Nat) (old new : FillStatus) (F : Nat) : Prop :=
  let n :=
    if new = .overfull ∧ old ≠ .overfull then some 11
    else if new = .full ∧ old ≠ .full ∧ old ≠ .overfull then some 10
    else if (new = .high ∨ new = .fullPending) ∧ (old = .unknown ∨ old = .normal) then some 9
    else none
  (∀ k, n = some k → t.told k (some c) F) ∧ ∀ k ∈ [9, 10, 11], n ≠ some k → t.noticeClass k = s.noticeClass k

/-- A hold of a station has begun (R169, R170, R174): HELD with the parked frame given, step mark and pass removed, the hold
timeout started, and WATCH_HELD raised with a value; nothing else has changed. -/
def State.holdBegun (s t : State) (i : Nat) (parked : Option Parked) (value : Nat) : Prop :=
  { t with watch := s.watch, classes := s.classes, link := { t.link with notices := s.link.notices } } = s ∧
    t.watch = { s.watch with state := .held, held := some i, parked := parked, stepMark := none, pass := none,
                             timeoutLeft := some s.params.holdTimeout } ∧
    t.told 23 (some i) value ∧ ∀ n, n ≠ 23 → t.noticeClass n = s.noticeClass n

/-! ### What is due -/

/-- No expiry is due: no tick waits, and no relative timer of a container or of the watch has run out (log 2, log 3). -/
def State.nothingDue (s : State) : Prop :=
  s.planner.tickTodo = [] ∧ s.watch.timeoutLeft ≠ some 0 ∧
    ∀ c, (s.container c).grantDue = false ∧ (s.container c).serviceDue = false ∧ (s.container c).liftDue = false ∧
      (s.container c).settleDue = false ∧ (s.container c).countdownDue = false ∧ (s.container c).outstandingDue = false

/-! ### Entering LOADING (R187 to R191) -/

/-- The first state's tables hold the configuration of the second, as an image of that one gives it back (R185, R188): card
record 0 blank (R36), a round's UNPLANNED stops left out and its others PLANNED and not started, LOADED or FREE by what is left
(R135). -/
def State.configuredAs (t v : State) : Prop :=
  t.params = v.params ∧ (∀ i, i < 32 → (t.station i).cfg = (v.station i).cfg) ∧ (∀ i, i < 16 → t.bank i = v.bank i) ∧
    (∀ f, t.fraction f = v.fraction f) ∧ (∀ i, i < 8 → t.shape i = v.shape i) ∧
    (∀ c, c < 128 → (t.container c).cfg = (v.container c).cfg) ∧
    (t.card 0).cfg = CardCfg.blank ∧ (∀ i, 1 ≤ i → i < 4096 → (t.card i).cfg = (v.card i).cfg) ∧
    (∀ h, h < 2048 → (t.household h).cfg = (v.household h).cfg) ∧
    (∀ r, r < 4 →
      let stops := ((v.round r).stops.filter (fun p => p.origin ≠ .unplanned)).map (fun p =>
        ({ container := p.container, state := none, origin := .planned, doneTime := none } : Stop))
      t.round r = { cfg := (v.round r).cfg, stops := stops, state := if stops = [] then .free else .loaded
                    requested := none, deadline := none, closing := none }) ∧
    ∀ n, 1 ≤ n → n ≤ 24 → (t.noticeClass n).priority = (v.noticeClass n).priority

/-- The second state is the first one's part as it enters LOADING by a kind of start, with a cause and the levels sampled: the
image is judged, queues and turns are gone, no count of grants or reservations is left, the retained domain is kept or
initialized, a VALID image of a legal configuration gives that configuration back, and tables that no VALID image fills hold
their defaults. -/
def State.loadingFrom (s t : State) (kind : StartKind) (cause : StartCause) (levels : StartLevels) : Prop :=
  let image := if cause = .tablesClear then .blank else judge levels.flashResponds t.flash
  t.part = { phase := .loading, kind := kind, cause := cause, image := image, strap := levels.strapInForce,
             openMode := false, requested := none, saving := false } ∧
    (s.part.saving = false → t.flash = s.flash) ∧
    t.link = { rx := [], replies := [], toCenter := [], notices := [], tx := none } ∧
    t.lineA.turn = none ∧ t.lineB.turn = none ∧ t.lineA.relay = [] ∧ t.lineB.relay = [] ∧
    t.watch = Watch.start ∧ t.planner.due = [] ∧ t.journal.reserved = 0 ∧
    (∀ c, (t.container c).inlet.grant = none ∧ (t.container c).inlet.service = none ∧
      (t.container c).inlet.command = none ∧ (t.container c).fill.estimate = none) ∧
    (∀ i, (t.card i).lastSeen = none) ∧ (∀ h, (t.household h).held = PerFraction.zero) ∧
    (kind = .warm → t.clock = { s.clock with pending := none } ∧ t.journal = { s.journal with reserved := 0 } ∧
      ∀ h, h < 2048 → (t.household h).used = (s.household h).used ∧ (t.household h).epoch = (s.household h).epoch) ∧
    (kind = .cold → t.clock = { time := { day := 0, sec := 0 }, set := false, pending := none } ∧
      t.journal = { records := [], serial := 0, reserved := 0 } ∧ t.power.marker = true ∧
      ∀ h, (t.household h).used = PerFraction.zero ∧ (t.household h).epoch = none) ∧
    (image = .valid → ∀ v : State, v.configLegal → (∀ r, (v.round r).stopsLegal) →
      t.flash = Memory.ofBytes 0 v.storedImage → t.configuredAs v) ∧
    (image ≠ .valid → t.params = Params.blank ∧ (∀ i, (t.station i).cfg = StationCfg.blank) ∧
      (∀ c, (t.container c).cfg = ContainerCfg.blank) ∧ (∀ i, (t.card i).cfg = CardCfg.blank) ∧
      (∀ h, (t.household h).cfg = HouseholdCfg.blank) ∧ (∀ r, t.round r = Round.blank) ∧
      (∀ n, (t.noticeClass n).priority = 1) ∧ (∀ i, t.bank i = Bank.blank) ∧ (∀ i, t.shape i = Shape.blank) ∧
      ∀ f, t.fraction f = FractionRec.blank)

end Sys2Proof.Machine
end

