-- ==== Sys2Proof/Certificates/Slice0/Obligations.lean ====
section
/-! DEFINITION. The statements for the provers. -/

open Sys2Proof Sys2Proof.Machine

/-! ### Steps, reset and the laws every step keeps -/

/-- A step with commands waiting is the effect of the one at the front on the state with the queue's rest. -/
def Obligations.StepRunsTheFrontCommand : Prop :=
  ∀ (s : State) (c : Instr) (rest : List Instr), s.pending = c :: rest → step s = exec c { s with pending := rest }

/-- Every command completes, in every state, and leaves the queue of commands alone. That it does so where its condition does
not stand, changing nothing there, is the model's choice (log 1). This says nothing of what a command does: each of the other
statements says that of its own commands. -/
def Obligations.EveryCommandCompletes : Prop :=
  ∀ (c : Instr) (s : State), ∃ t, exec c s = .next t ∧ t.pending = s.pending

/-- What reset leaves. That the model begins where a cold start with a BLANK image has entered RUNNING is its own choice
(log 5); the values are those of R21, R28, R67, R69, R91, R107, R129, R135, R164 and R190. -/
def Obligations.ResetIsAFreshColdStart : Prop :=
  let s := State.reset
  s.part.phase = .running ∧ s.part.kind = .cold ∧ s.part.openMode = false ∧ s.part.requested = none ∧
    s.clock = { time := { day := 0, sec := 0 }, set := false, pending := none } ∧ s.period = 0 ∧
    s.journal = { records := [], serial := 0, reserved := 0 } ∧
    (∀ i, (s.station i).state = .disabled ∧ (s.station i).missCount = 0 ∧ (s.station i).seen = false ∧
      (s.station i).lastItem = none ∧ (s.station i).acceptOwed = false) ∧
    (∀ c, (s.container c).fill.estimate = none ∧ (s.container c).fill.request = .idle ∧
      (s.container c).fill.status = .unknown ∧ (s.container c).fill.sensor = .good ∧
      (s.container c).inlet.state = .barred ∧ (s.container c).inlet.bars.notSeen = true ∧
      (s.container c).inlet.bars.notPresent = true ∧ (s.container c).inlet.bars.stationDisabled = true ∧
      (s.container c).inlet.grant = none ∧ (s.container c).inlet.service = none ∧
      (s.container c).inlet.command = none ∧ (s.container c).forced = false ∧ (s.container c).missed = false) ∧
    (∀ h, (s.household h).used = PerFraction.zero ∧ (s.household h).held = PerFraction.zero ∧
      (s.household h).epoch = none) ∧
    (∀ i, (s.card i).lastSeen = none) ∧
    (∀ r, (s.round r).state = .free ∧ (s.round r).requested = none ∧ (s.round r).deadline = none) ∧
    s.planner.due = [] ∧ s.watch.state = .off ∧ s.watch.held = none ∧ s.watch.captured = none ∧
    (s.noticeClass 1).last = some { subject := some 0, value := 0 } ∧
    (∀ n, n ≠ 1 → (s.noticeClass n).flag = false ∧ (s.noticeClass n).last = none) ∧
    s.link.rx = [] ∧ s.link.replies = [] ∧ s.link.toCenter = [] ∧ s.link.notices.length = 1 ∧ s.link.tx = none

/-- The state after reset keeps every law. -/
def Obligations.ResetKeepsTheLaws : Prop :=
  State.reset.queuesBounded = true ∧ State.reset.canonical = true ∧ State.reset.inletsLawful ∧ State.reset.dueLawful ∧
    State.reset.journalLawful ∧ State.reset.householdsLawful ∧ State.reset.configLegal ∧ State.reset.crossLegal

/-- No step overfills a queue: 4 received frames, 4 replies, 16 notices, 8 relay entries to each line, and 8 frames in the relay
queue to the center, the place kept for a parked STATION_MAINT counting as one (R11, R29, R177, 1.6). -/
def Obligations.QueuesStayBounded : Prop :=
  ∀ s t : State, s.queuesBounded = true → step s = .next t → t.queuesBounded = true

/-- Every step keeps the tables and the image area in their canonical form. -/
def Obligations.CanonicalFormsKept : Prop :=
  ∀ s t : State, s.canonical = true → step s = .next t → t.canonical = true

/-- Every step keeps the law of the grant (R117) and the law of the crew states (R148), in the form of Inlet.lawful. -/
def Obligations.GrantAndCrewLawKept : Prop :=
  ∀ s t : State, s.canonical = true → s.inletsLawful → step s = .next t → t.inletsLawful

/-- Every step keeps the law of the due list (R129), with the classes of R130 and the order of R131. -/
def Obligations.DueListLawKept : Prop :=
  ∀ s t : State, s.canonical = true → s.dueLawful → step s = .next t → t.dueLawful

/-- Every step keeps the law of the journal (R60), in a part whose inlets keep theirs. -/
def Obligations.JournalLawKept : Prop :=
  ∀ s t : State, s.canonical = true → s.inletsLawful → s.journalLawful → step s = .next t → t.journalLawful

/-- Every step keeps the law of the household counts (R54), in a part whose inlets keep theirs. -/
def Obligations.HouseholdLawKept : Prop :=
  ∀ s t : State, s.canonical = true → s.inletsLawful → s.householdsLawful → step s = .next t → t.householdsLawful

/-- Every step keeps the configuration of every table in its ranges (R83, R84, R99, R128, R136, R148, R164, R182), a VALID
image with other values included (log 8), in a part whose tables have their canonical form. Every step keeps the cross-field rules: a round's stops name containers 0-127, none
twice (R136), and a present container's slot is at most its station's slot count (R182), in a part whose due list keeps its law
(a draft takes its stops from there) and, for a step that ends in LOADING, whose image area, if it judges VALID, holds slots that
keep the rule, which no rule of the manual checks as an image is loaded (log 8). -/
def Obligations.ConfigurationStaysInRange : Prop :=
  (∀ s t : State, s.canonical = true → s.configLegal → step s = .next t → t.configLegal) ∧
  ∀ s t : State, s.canonical = true → s.dueLawful → s.crossLegal → step s = .next t →
    (t.part.phase = .loading → imageSlotsLegal t.flash) → t.crossLegal

/-! ### Frames and the station lines (chapter 1) -/

/-- What a sender lays out as a frame, a receiver reads back, whatever follows on the line (R1, 11.7). -/
def Obligations.FrameBytesReceivedBack : Prop :=
  ∀ (f : Frame) (after : List Byte), f.payload.length ≤ 112 → receive (f.bytes ++ after) = .good f

/-- A frame is not good when LEN is over 112, when the line goes idle before it is complete, or when the CRC-16 does not
match; bytes without a marker are no frame (R1). LINE_FRAME_RECEIVED changes nothing when the controller is not waiting for an
answer, and for a good frame whose DST is not 00h or whose SRC is not the waited-on station's address (R1); nor does a marker
seen after the window, which the next RESPONSE_WINDOW_EXPIRED finds unanswered (R8). -/
def Obligations.FramesThatAreNoAnswerAreDiscarded : Prop :=
  (∀ (len : Byte) (rest : List Byte), 112 < len.toNat → receive (0x5B#8 :: len :: rest) = .bad) ∧
    (∀ (len : Byte) (rest : List Byte), rest.length < len.toNat + 6 → receive (0x5B#8 :: len :: rest) = .bad) ∧
    receive [0x5B#8] = .bad ∧
    (∀ (len hi lo : Byte) (body after : List Byte), body.length = len.toNat + 4 →
      hi ++ lo ≠ (crc16 (len :: body)) → receive (0x5B#8 :: len :: body ++ hi :: lo :: after) = .bad) ∧
    (∀ (m : Byte) (rest : List Byte), m ≠ 0x5B#8 → receive (m :: rest) = .nothing) ∧
  ∀ (s : State) (l : Line) (inWindow : Bool) (bytes : List Byte),
    (s.waitingTurn l = none → exec (.lineFrameReceived l inWindow bytes) s = .next s) ∧
    exec (.lineFrameReceived l false bytes) s = .next s ∧
    (∀ t f, s.waitingTurn l = some t → receive bytes = .good f →
      f.dst ≠ 0x00#8 ∨ f.src ≠ stationAddress t.station → exec (.lineFrameReceived l inWindow bytes) s = .next s)

/-- LINE_FRAME_SENT opens the response window of the exchange in progress on its line, and changes nothing else (R8). -/
def Obligations.FrameSentOpensTheWindow : Prop :=
  ∀ (s : State) (l : Line), ∃ u, exec (.lineFrameSent l) s = .next u ∧
    { u with lineA := s.lineA, lineB := s.lineB } = s ∧
    u.line l = { s.line l with turn := (s.line l).turn.map (fun t =>
      { t with exchange := { t.exchange with waiting := true } }) } ∧
    ∀ l', l' ≠ l → u.line l' = s.line l'

/-- A failed exchange is a miss (R13): RESPONSE_WINDOW_EXPIRED with an answer awaited, and LINE_FRAME_RECEIVED with a frame
begun within the window that proves not good, do the same. A miss that does not make the station LOST changes its record
alone, before the line chooses its next turn; a failed POLL leaves the accept flag owed 0 (R9), and a failed command
exchange leaves it. Whatever the miss makes of its station, the turn ends after it and the line chooses (R6, R8), unless a
HOLD_AFTER match holds the station first. -/
def Obligations.FailedExchangeIsAMiss : Prop :=
  (∀ (s : State) (l : Line) (t : Turn) (bytes : List Byte), s.canonical = true → s.waitingTurn l = some t →
    receive bytes = .bad → ∀ c, c = .responseWindowExpired l ∨ c = .lineFrameReceived l true bytes →
      let k := s.station t.station
      let owed := if t.exchange.what = .poll then false else k.acceptOwed
      (k.state = .online → ∃ u, exec c s = .next u ∧
        (s.updStation t.station (fun k => { k with state := .silent, missCount := 1, acceptOwed := owed })).onlyChose u) ∧
      (k.state = .unknown ∨ k.state = .silent → k.missCount + 1 < 8 → ∃ u, exec c s = .next u ∧
        (s.updStation t.station (fun k => { k with missCount := k.missCount + 1, acceptOwed := owed })).onlyChose u) ∧
      (k.state = .lost ∨ k.state = .disabled → ∃ u, exec c s = .next u ∧
        (s.updStation t.station (fun k => { k with acceptOwed := owed })).onlyChose u)) ∧
  ∀ (s : State) (l : Line) (t : Turn) (bytes : List Byte), s.waitingTurn l = some t → receive bytes = .bad →
    t.exchange.holdAfter = false ∨ s.watch.state = .held →
    let v := if t.exchange.what = .poll then s.updStation t.station (fun k => { k with acceptOwed := false }) else s
    ∀ c, c = .responseWindowExpired l ∨ c = .lineFrameReceived l true bytes →
      exec c s = .next ((v.miss t.station).endTurn l t.station)

/-- The miss that brings the count to 8, by a window that expired or by a bad frame within it, makes the station LOST, discards
its relay entries, ends its OUTSTANDING requests and raises STATION_LOST with the station as subject (R13, R16, R89), before the
line chooses its next turn. STATION_LOST joins the sets of its four containers (R108, R124, R162): a LOCKED inlet is BARRED and no
command set; an OPEN one's grant ends LOST, BARRED with LOCK CLOSED, its hold and its reservation given back; a crew's work ends
there, with E unknown, its reservation released and its stop given back; a settle time is stopped; a BARRED one keeps its state.
Other stations' records and other stations' containers do not change. What two stops of one round show in the order of their
notices is the model's choice (log 33) and not stated. -/
def Obligations.EighthMissLosesTheStation : Prop :=
  ∀ (s : State) (l : Line) (t : Turn) (bytes : List Byte) (cmd : Instr), s.waitingTurn l = some t → receive bytes = .bad →
    cmd = .responseWindowExpired l ∨ cmd = .lineFrameReceived l true bytes →
    (s.station t.station).state = .unknown ∨ (s.station t.station).state = .silent →
    (s.station t.station).missCount = 7 →
    let four := containersOf t.station
    let struck := fun c : Nat => decide (c ∈ four) && !(s.container c).inlet.bars.stationLost
    let cut := fun c : Nat => struck c && decide ((s.container c).inlet.state = .opened)
    let ended := fun c : Nat => struck c && (s.container c).inlet.working
    ∃ w u, exec cmd s = .next u ∧ w.onlyChose u ∧
      w.station t.station = { s.station t.station with
        state := .lost, missCount := 8
        acceptOwed := if t.exchange.what = .poll then false else (s.station t.station).acceptOwed } ∧
      (∀ i, i ≠ t.station → w.station i = s.station i) ∧
      (∀ e ∈ (u.line (lineOf t.station)).relay, e.station ≠ t.station) ∧
      w.told 7 (some t.station) 0 ∧
      w.cards = s.cards ∧ w.journal.records = s.journal.records ∧ w.clock = s.clock ∧
      (∀ c, c ∉ four → w.container c = s.container c) ∧
      (∀ c ∈ four,
        let k := s.container c
        (u.container c).inlet.bars.stationLost = true ∧ (w.container c).cfg = k.cfg ∧ (w.container c).forced = k.forced ∧
        (k.inlet.bars.stationLost = true → (w.container c).inlet = k.inlet ∧
          (w.container c).fill = { k.fill with request := k.outstandingGone k.fill.request }) ∧
        (k.inlet.bars.stationLost = false →
          (w.container c).inlet = k.inlet.endedBy { k.inlet.bars with stationLost := true } ∧
          (w.container c).fill = { k.fillEnded with request := k.outstandingGone k.fillEnded.request })) ∧
      (∀ h f, (w.household h).used = (s.household h).used ∧ (w.household h).epoch = (s.household h).epoch ∧
        (w.household h).held.get f = (s.household h).held.get f -
          (four.map (fun c => if cut c then (s.container c).binds h f else 0)).sum) ∧
      w.journal.reserved = s.journal.reserved - (four.map (fun c =>
        let n := (s.container c).inlet
        if cut c ∧ (n.grant.map Grant.reserved).getD false = true ∨
          ended c ∧ (n.service.map Service.reserved).getD false = true then 1 else 0)).sum ∧
      ((∀ c ∈ four, ended c = false) → w.rounds = s.rounds ∧ w.noticeClass 18 = s.noticeClass 18) ∧
      (∀ c ∈ four, ∀ v, ended c = true → (∀ d ∈ four, d ≠ c → ended d = false) →
        (s.container c).inlet.service = some v → s.stopReturned w c v)

/-- A good frame from the waited-on station makes it ONLINE, with miss count 0, and seen (R14). A station that was seen and
not LOST has no other effect. One not yet seen loses NOT_SEEN at its four containers, one that was LOST loses STATION_LOST
there and raises STATION_BACK; a BARRED inlet whose set becomes empty so is LOCKED (R109). -/
def Obligations.AnswerRevivesItsStation : Prop :=
  ∀ (s : State) (i : Nat),
    let k := s.station i
    let u := s.goodFrame i
    u.station i = { k with state := .online, missCount := 0, seen := true } ∧
    (∀ j, j ≠ i → u.station j = s.station j) ∧
    (k.seen = true → k.state ≠ .lost →
      u = s.updStation i (fun k => { k with state := .online, missCount := 0, seen := true })) ∧
    (k.state = .lost → u.noticeClass 8 =
      { s.noticeClass 8 with flag := true, last := some { subject := some i, value := 0 },
                             overrun := (u.noticeClass 8).overrun }) ∧
    (k.state ≠ .lost → u.classes = s.classes ∧ u.link = s.link) ∧
    ∀ c ∈ containersOf i,
      let b := (s.container c).inlet.bars
      let b' : BarSet := { b with stationLost := b.stationLost && decide (k.state ≠ .lost), notSeen := b.notSeen && k.seen }
      (u.container c).inlet.bars = b' ∧
      ((u.container c).inlet.state = if (s.container c).inlet.state = .barred ∧ b ≠ b' ∧ b' = BarSet.empty then .locked
        else (s.container c).inlet.state)

/-- An ACK ends a command exchange (R6, R7): after the station record (R14), a sent inlet command that was not set again is
cleared and one set again stays, a sample request becomes OUTSTANDING with age 0, a relay entry leaves its queue; then, unless
a HOLD_AFTER match holds the station, the turn goes on with the looks that remain, and ends where the watch ends it at its next
frame. A turn that ends leaves the line without a turn, and then it chooses, without a step mark of the station at once (R5,
R19). -/
def Obligations.AckEndsTheExchange : Prop :=
  (∀ (s : State) (l : Line) (t : Turn) (f : Frame) (bytes : List Byte), s.waitingTurn l = some t →
    receive bytes = .good f → f.dst = 0x00#8 → f.src = stationAddress t.station → f.kind = 0x05#8 →
    t.exchange.what ≠ .poll →
    let v := s.goodFrame t.station
    ∃ w u, exec (.lineFrameReceived l true bytes) s = .next u ∧ w.onlyChose u ∧
      (t.exchange.holdAfter = false ∨ w.watch.state = .held → u = w.continueTurn l t) ∧
      (∀ slot, t.exchange.what = .inlet slot →
        { w with containers := v.containers } = v ∧
        (∀ c, c ≠ containerOf t.station slot → w.container c = v.container c) ∧
        (w.container (containerOf t.station slot)) =
          { v.container (containerOf t.station slot) with
            inlet := { (v.container (containerOf t.station slot)).inlet with
              command := (v.container (containerOf t.station slot)).inlet.command.filter (fun c => !c.sent) } }) ∧
      (∀ slot, t.exchange.what = .sample slot →
        w = v.updFill (containerOf t.station slot) (fun q => { q with request := .outstanding 0 })) ∧
      (∀ n, t.exchange.what = .relay n →
        w = v.updLine (lineOf t.station) (fun d => { d with relay := d.relay.filter (fun e => e.number ≠ n) }))) ∧
  (∀ (s : State) (l : Line) (t : Turn),
    let r := State.sendNext l t.station t.todo (s.clearTurn l)
    (r.2 = true → s.continueTurn l t = r.1) ∧ (r.2 = false → s.continueTurn l t = r.1.endTurn l t.station)) ∧
  ∀ (s : State) (l : Line) (i : Nat),
    let u := s.clearTurn l
    { u with lineA := s.lineA, lineB := s.lineB } = s ∧ u.line l = { s.line l with turn := none } ∧
    (∀ l', l' ≠ l → u.line l' = s.line l') ∧ (s.watch.stepMark ≠ some i → s.endTurn l i = u.kick l)

/-- The answer to a POLL (R9 to R11), after the station record (R14): a repeat is taken and goes no further; a STATION_MAINT
that finds 8 places taken is refused; any other item is taken and passes the watch to its consumer; a STATION_STATUS passes
the watch; any other kind is a non-answer, which counts no miss. After each the turn ends and the line chooses (R5, R8), and so it
does after a non-answer to a command, unless a HOLD_AFTER match holds the station first.
What a consumer gets of a frame's bytes (R3, 11.7): a card with its reader and number, a drum count, an echo with a time over
25000 counted as 25000, the begin or the end of a lift, each at the container of its slot; a STATION_MAINT goes to the center with
DST 7Fh and SRC the station's address, and a STATION_STATUS replaces the health flags. An item that is malformed, by a slot
outside 1-4, a reader kind or tipped outside its list, a quality over 15 or a payload too short, reaches no consumer. That
surplus payload bytes are ignored is the model's reading (log 37), and a STATION_STATUS without its byte its choice (log 19). -/
def Obligations.PollIsAnswered : Prop :=
  (∀ (s : State) (l : Line) (t : Turn) (f : Frame) (bytes : List Byte), s.waitingTurn l = some t →
    receive bytes = .good f → f.dst = 0x00#8 → f.src = stationAddress t.station → t.exchange.what = .poll →
    let v := s.goodFrame t.station
    let isItem := f.kind ∈ [0x11#8, 0x12#8, 0x13#8, 0x14#8, 0x15#8, 0x17#8]
    let repeated := (v.station t.station).lastItem = some f.tag.toNat
    let refused := f.kind = 0x17#8 ∧ 8 ≤ v.centerPlaces
    ∃ u, exec (.lineFrameReceived l true bytes) s = .next u ∧
      (isItem → repeated → (v.updStation t.station (fun k => { k with acceptOwed := true })).onlyChose u) ∧
      (isItem → ¬repeated → refused → (v.updStation t.station (fun k => { k with acceptOwed := false })).onlyChose u) ∧
      (isItem → ¬repeated → ¬refused →
        ((v.updStation t.station (fun k => { k with lastItem := some f.tag.toNat, acceptOwed := true })).passWatch
          t.station f).onlyChose u) ∧
      (f.kind = 0x16#8 →
        ((v.updStation t.station (fun k => { k with acceptOwed := true })).passWatch t.station f).onlyChose u) ∧
      (¬isItem → f.kind ≠ 0x16#8 → (v.updStation t.station (fun k => { k with acceptOwed := false })).onlyChose u) ∧
      let ends := fun w : State => u = w.endTurn l t.station
      (isItem → repeated → ends (v.updStation t.station (fun k => { k with acceptOwed := true }))) ∧
      (isItem → ¬repeated → refused →
        ends ((v.updStation t.station (fun k => { k with acceptOwed := false })).refusedPassesWatch t.station f)) ∧
      (isItem → ¬repeated → ¬refused → ends ((v.updStation t.station (fun k =>
        { k with lastItem := some f.tag.toNat, acceptOwed := true })).passWatch t.station f)) ∧
      (f.kind = 0x16#8 →
        ends ((v.updStation t.station (fun k => { k with acceptOwed := true })).passWatch t.station f)) ∧
      (¬isItem → f.kind ≠ 0x16#8 → t.exchange.holdAfter = false ∨ s.watch.state = .held →
        ends (v.updStation t.station (fun k => { k with acceptOwed := false })))) ∧
  (∀ (s : State) (l : Line) (t : Turn) (f : Frame) (bytes : List Byte), s.waitingTurn l = some t →
    receive bytes = .good f → f.dst = 0x00#8 → f.src = stationAddress t.station → t.exchange.what ≠ .poll →
    f.kind ≠ 0x05#8 → t.exchange.holdAfter = false ∨ s.watch.state = .held →
    exec (.lineFrameReceived l true bytes) s = .next ((s.goodFrame t.station).endTurn l t.station)) ∧
  ∀ (s : State) (i age : Nat) (f : Frame),
    let u := s.passFrame i f age
    let good := fun slot : Byte => 1 ≤ slot.toNat ∧ slot.toNat ≤ 4
    let place := fun slot : Byte => 4 * i + slot.toNat - 1
    (∀ (r slot d1 d0 x1 x0 : Byte) more, f.kind = 0x11#8 → f.payload = r :: slot :: d1 :: d0 :: x1 :: x0 :: more →
      (r.toNat ≤ 1 → good slot → u = s.cardShown i (place slot) (decide (r = 1#8))
        (d1.toNat * 16777216 + d0.toNat * 65536 + x1.toNat * 256 + x0.toNat) age) ∧
      (¬(r.toNat ≤ 1 ∧ good slot) → u = s)) ∧
    (∀ (slot d1 d0 : Byte) more, f.kind = 0x12#8 → f.payload = slot :: d1 :: d0 :: more →
      (good slot → u = s.depositDone (place slot) (d1.toNat * 256 + d0.toNat)) ∧ (¬good slot → u = s)) ∧
    (∀ (slot t1 t0 q temperature : Byte) more, f.kind = 0x13#8 → f.payload = slot :: t1 :: t0 :: q :: temperature :: more →
      (good slot → q.toNat ≤ 15 →
        u = s.echoSample (place slot) (min 25000 (t1.toNat * 256 + t0.toNat)) q.toNat temperature.toInt) ∧
      (¬(good slot ∧ q.toNat ≤ 15) → u = s)) ∧
    (∀ (slot : Byte) more, f.kind = 0x14#8 → f.payload = slot :: more →
      (good slot → u = s.liftBegun i (place slot)) ∧ (¬good slot → u = s)) ∧
    (∀ (slot tipped : Byte) more, f.kind = 0x15#8 → f.payload = slot :: tipped :: more →
      (good slot → tipped.toNat ≤ 1 → u = s.liftEnded i (place slot) (decide (tipped = 1#8))) ∧
      (¬(good slot ∧ tipped.toNat ≤ 1) → u = s)) ∧
    (∀ q ∈ [(0x11#8, 6), (0x12#8, 3), (0x13#8, 5), (0x14#8, 1), (0x15#8, 2)], f.kind = q.1 → f.payload.length < q.2 → u = s) ∧
    (f.kind = 0x17#8 → u = { s with link := { s.link with
      toCenter := s.link.toCenter ++ [{ f with dst := 0x7F#8, src := stationAddress i }] } }) ∧
    (∀ (b : Byte) more, f.kind = 0x16#8 → f.payload = b :: more → u = s.updStation i (fun k =>
      { k with health := { tamper := b.getLsbD 0, flood := b.getLsbD 1, supplyLow := b.getLsbD 2 } })) ∧
    (f.kind = 0x16#8 → f.payload = [] → u = s)

/-- A received frame passes the watch (R167 to R170). While the watch is OFF it is passed to its consumer and nothing is
compared; a match in CAPTURE, or while HELD, changes the capture record first; a HOLD_AFTER match in ARMED is captured,
passed to its consumer, and then holds the station with no parked frame; a HOLD_BEFORE match in ARMED parks the frame and
holds the station. A STATION_MAINT that is refused for want of room (R11) passes the watch all the same: a match is captured,
and under either hold action in ARMED holds the station with nothing parked (R170); it goes no further. A sent frame that
matched under HOLD_AFTER (R169) holds its station when its exchange has ended, after the miss of a failed one and after what
an ACK settles, unless the watch is HELD by then (log 16); no WATCH_SET taken meanwhile undoes the match, the model's choice
(log 36). A turn that ends with the step mark still naming its station holds that station again (R174), with WATCH_HELD's
value 1 or 2 by the action, and a value left open under no hold action (log 34). -/
def Obligations.WatchLetsReceivedFramesThrough : Prop :=
  (∀ (s : State) (i : Nat) (f : Frame),
    (s.watch.state = .off → s.passWatch i f = s.passFrame i f 0) ∧
    (s.watch.matches i f = false → s.passWatch i f = s.passFrame i f 0) ∧
    (s.watch.matches i f = true → s.watch.action = .capture ∨ s.watch.state = .held →
      s.passWatch i f = (s.updWatch (fun w => w.capture i f s.clock.time)).passFrame i f 0) ∧
    (s.watch.matches i f = true → s.watch.action = .holdAfter → s.holdFree = true →
      ((s.updWatch (fun w => w.capture i f s.clock.time)).passFrame i f 0).holdBegun (s.passWatch i f) i none 1) ∧
    (s.watch.matches i f = true → s.watch.action = .holdBefore → s.holdFree = true →
      let u := s.passWatch i f
      u.watch = { s.watch.capture i f s.clock.time with
                  state := .held, held := some i, stepMark := none, pass := none, timeoutLeft := some s.params.holdTimeout,
                  parked := some { station := i, frame := f, how := .received, received := s.clock.time, age := 0 } } ∧
      { u with watch := s.watch, classes := s.classes, link := { u.link with notices := s.link.notices } } = s ∧
      (u.noticeClass 23).last = some { subject := some i, value := 2 } ∧ (u.noticeClass 23).flag = true)) ∧
  (∀ (s : State) (l : Line) (t : Turn) (bytes : List Byte), s.waitingTurn l = some t → t.exchange.holdAfter = true →
    t.exchange.what ≠ .poll → s.watch.state ≠ .held →
    let ends := fun (cmd : Instr) (v : State) =>
      ∃ h, v.holdBegun h t.station none 1 ∧ exec cmd s = .next ((h.clearTurn l).kick l)
    ends (.responseWindowExpired l) (s.miss t.station) ∧
    (receive bytes = .bad → ends (.lineFrameReceived l true bytes) (s.miss t.station)) ∧
    (∀ f, receive bytes = .good f → f.dst = 0x00#8 → f.src = stationAddress t.station →
      (f.kind = 0x05#8 → ends (.lineFrameReceived l true bytes)
        ((s.goodFrame t.station).acked t.station t.exchange.what)) ∧
      (f.kind ≠ 0x05#8 → ends (.lineFrameReceived l true bytes) (s.goodFrame t.station)))) ∧
  (∀ (s : State) (i : Nat) (f : Frame),
    let u := s.refusedPassesWatch i f
    let captured := s.updWatch (fun w => w.capture i f s.clock.time)
    (s.watch.matches i f = false → u = s) ∧
    (s.watch.matches i f = true →
      (s.watch.action = .off ∨ s.watch.action = .capture ∨ s.holdFree = false → u = captured) ∧
      (s.watch.action = .holdAfter → s.holdFree = true → captured.holdBegun u i none 1) ∧
      (s.watch.action = .holdBefore → s.holdFree = true → captured.holdBegun u i none 2))) ∧
  (∀ (s : State) (l : Line) (t : Turn) (f : Frame) (bytes : List Byte), s.waitingTurn l = some t →
    receive bytes = .good f → f.dst = 0x00#8 → f.src = stationAddress t.station → t.exchange.what = .poll →
    f.kind = 0x17#8 →
    let v := s.goodFrame t.station
    (v.station t.station).lastItem ≠ some f.tag.toNat → 8 ≤ v.centerPlaces →
    exec (.lineFrameReceived l true bytes) s = .next
      (((v.updStation t.station (fun k => { k with acceptOwed := false })).refusedPassesWatch t.station f).endTurn l
        t.station)) ∧
  (∀ (s : State) (l : Line) (i : Nat), s.watch.stepMark = some i →
    ∃ h value, (s.clearTurn l).holdBegun h i none value ∧ s.endTurn l i = h.kick l ∧
      (s.watch.action = .holdAfter → value = 1) ∧ (s.watch.action = .holdBefore → value = 2)) ∧
  ∀ (s : State) (l : Line) (t : Turn), s.waitingTurn l = some t → t.exchange.what ≠ .poll → t.exchange.holdAfter = false →
    exec (.responseWindowExpired l) s = .next ((s.miss t.station).endTurn l t.station) ∧
    (s.miss t.station).watch = s.watch

/-- The turn arbiter's choice (R19): the oldest station of the priority list that is not held; otherwise the next station,
after the cursor, of the rotation the mark names, or of the other one when that one holds no station; a station of a
rotation is enabled and not held, and in the fast one has fast-poll need (R18). No station is chosen only when there is
none. After a cursor come the line's stations above it in ascending order, then from its first drop on up to the cursor itself.
What a turn leaves of its line as it begins (R17, R19): the station is off the priority list, the others in their order; the
cursor of the rotation used stands at the station, and the mark names the other rotation; a priority turn moves neither cursor
nor mark. The relay queue and the other line stay. An idle line of a RUNNING part chooses so, and where the watch ends a turn
at its first frame (R170), chooses once more; that the choices of one step are at most two is the model's choice (log 25). -/
def Obligations.ArbiterChoosesByPriorityThenRotation : Prop :=
  (∀ (s : State) (l : Line),
    (∀ i, s.choose l = some (i, none) ↔
      ∃ before after, (s.line l).priority = before ++ i :: after ∧ s.isHeld i = false ∧ ∀ j ∈ before, s.isHeld j = true) ∧
    (∀ i rot, s.choose l = some (i, some rot) →
      (∀ j ∈ (s.line l).priority, s.isHeld j = true) ∧
      (∃ before after, stationsAfter l ((s.line l).cursor rot) = before ++ i :: after ∧
        ∀ j ∈ before, s.inRotation rot j = false) ∧
      (s.station i).cfg.enabled = true ∧ s.isHeld i = false ∧ (rot = .fast → s.fastNeed i = true) ∧
      (rot ≠ (s.line l).mark →
        ∀ j ∈ stationsAfter l ((s.line l).cursor (s.line l).mark), s.inRotation (s.line l).mark j = false)) ∧
    (s.choose l = none →
      (∀ j ∈ (s.line l).priority, s.isHeld j = true) ∧
      ∀ rot, ∀ j ∈ stationsAfter l ((s.line l).cursor rot), s.inRotation rot j = false)) ∧
  (∀ (l : Line) (k : Nat), k < 16 →
    let first := match l with
      | .a => 0
      | .b => 16
    let drops := (List.range 16).map (fun j => first + j)
    stationsAfter l (first + k) = drops.drop (k + 1) ++ drops.take (k + 1)) ∧
  (∀ (s : State) (l : Line) (i : Nat) (rot : Option Rotation),
    let d := s.line l
    let r := s.beginTurn l i rot
    let e := r.1.line l
    (∀ l', l' ≠ l → r.1.line l' = s.line l') ∧
    e.priority = d.priority.filter (fun j => j ≠ i) ∧ e.relay = d.relay ∧ e.nextEntry = d.nextEntry ∧
    (rot = none → e.fastCursor = d.fastCursor ∧ e.normalCursor = d.normalCursor ∧ e.mark = d.mark) ∧
    (rot = some .fast → e.fastCursor = i ∧ e.normalCursor = d.normalCursor ∧ e.mark = .normal) ∧
    (rot = some .normal → e.normalCursor = i ∧ e.fastCursor = d.fastCursor ∧ e.mark = .fast) ∧
    (r.2 = true → ∃ t, e.turn = some t ∧ t.station = i) ∧ (r.2 = false → e.turn = d.turn)) ∧
  ∀ (s : State) (l : Line),
    (s.part.phase ≠ .running ∨ (s.line l).turn.isSome = true → s.kick l = s) ∧
    (s.part.phase = .running → (s.line l).turn = none →
      (s.choose l = none → s.kick l = s) ∧
      ∀ i rot, s.choose l = some (i, rot) →
        let r := s.beginTurn l i rot
        (r.2 = true → s.kick l = r.1) ∧
        (r.2 = false → r.1.choose l = none → s.kick l = r.1) ∧
        (r.2 = false → ∀ j rot', r.1.choose l = some (j, rot') → s.kick l = (r.1.beginTurn l j rot').1))

/-- What a turn sends first while the watch is OFF (R4, R5): the pending inlet command of the lowest slot; else the sample
request of the lowest slot; else the oldest relay entry for the station, with its TAG and payload; else a POLL with the
accept flag owed.
What the watch does to any frame about to be sent (R2, R166, R167, R169, R170, R175): a POLL is not compared; the frame a pass
names is sent without comparison and uses the pass up; a frame that does not match is sent; a match is captured, and the frame is
sent in CAPTURE and while HELD, sent with its station to be held after the exchange under HOLD_AFTER, and under HOLD_BEFORE not
sent: a copy is parked, what it was built from stays, and the station is held. A frame parked so is aged from its parking, the
model's choice (log 38). An INLET_COMMAND that is sent counts its slot's pending command as sent (R7), and no frame sent changes
anything else at a container. -/
def Obligations.TurnSendsInOrder : Prop :=
  (∀ (s : State) (l : Line) (i : Nat), s.watch.state = .off → s.watch.pass = none → lineOf i = l →
    let command := fun slot => (s.container (containerOf i slot)).inlet.command
    let asks := fun slot => (s.container (containerOf i slot)).fill.request = .pending
    let entry := (s.line l).relay.find? (fun e => e.station == i)
    let r := State.sendNext l i turnLooks s
    r.2 = true ∧ ∃ t, (r.1.line l).turn = some t ∧ t.station = i ∧ t.exchange.waiting = false ∧
      t.exchange.frame.dst = stationAddress i ∧ t.exchange.frame.src = 0x00#8 ∧
      (∀ slot c, slot ∈ [1, 2, 3, 4] → command slot = some c → (∀ k, 1 ≤ k → k < slot → command k = none) →
        t.exchange.frame.kind = 0x02#8 ∧ t.exchange.frame.tag = 0x00#8 ∧
        t.exchange.frame.payload =
          be 1 slot ++ be 1 c.action.code ++
            be 2 (if c.action = .unlock ∨ c.action = .serviceUnlock then c.window else 0) ++ be 1 c.code.code ++
            be 1 c.value) ∧
      ((∀ k ∈ [1, 2, 3, 4], command k = none) →
        (∀ slot, slot ∈ [1, 2, 3, 4] → asks slot → (∀ k, 1 ≤ k → k < slot → ¬asks k) →
          t.exchange.frame.kind = 0x03#8 ∧ t.exchange.frame.tag = 0x00#8 ∧ t.exchange.frame.payload = be 1 slot) ∧
        ((∀ k ∈ [1, 2, 3, 4], ¬asks k) →
          (∀ e, entry = some e → t.exchange.frame.kind = 0x04#8 ∧ t.exchange.frame.tag = e.tag ∧
            t.exchange.frame.payload = e.payload) ∧
          (entry = none → t.exchange.frame.kind = 0x01#8 ∧ t.exchange.frame.tag = 0x00#8 ∧
            t.exchange.frame.payload = [if (s.station i).acceptOwed then 1#8 else 0#8])))) ∧
  (∀ (s : State) (l : Line) (i : Nat) (k : Look) (ks : List Look),
    (s.look i k = none → State.sendNext l i (k :: ks) s = State.sendNext l i ks s) ∧
    ∀ what f, s.look i k = some (what, f) → State.sendNext l i (k :: ks) s = s.presentFrame l i ks what f) ∧
  ∀ (s : State) (l : Line) (i : Nat) (todo : List Look) (what : Sent) (f : Frame),
    let r := s.presentFrame l i todo what f
    let captured := s.watch.capture i f s.clock.time
    let sends := fun (watch : Watch) (holdAfter : Bool) =>
      r.2 = true ∧ s.onlyChose r.1 ∧ r.1.watch = watch ∧ (r.1.line l).turn = some
        { station := i, todo := todo, exchange := { what := what, frame := f, waiting := false, holdAfter := holdAfter } } ∧
      (∀ slot, what = .inlet slot →
        let n := (s.container (containerOf i slot)).inlet
        r.1.container (containerOf i slot) = { s.container (containerOf i slot) with
          inlet := { n with command := n.command.map (fun c => { c with sent := true }) } } ∧
        ∀ d, d ≠ containerOf i slot → r.1.container d = s.container d) ∧
      ((∀ slot, what ≠ .inlet slot) → r.1.containers = s.containers)
    let passed := s.watch.pass = some { station := i, what := what }
    (what = .poll → sends s.watch false) ∧
    (what ≠ .poll → passed → sends { s.watch with pass := none } false) ∧
    (what ≠ .poll → ¬passed → s.watch.matches i f = false → sends s.watch false) ∧
    (what ≠ .poll → ¬passed → s.watch.matches i f = true →
      (s.holdFree = false ∨ s.watch.action = .capture ∨ s.watch.action = .off → sends captured false) ∧
      (s.holdFree = true → s.watch.action = .holdAfter → sends captured true) ∧
      (s.holdFree = true → s.watch.action = .holdBefore → r.2 = false ∧
        (s.updWatch (fun _ => captured)).holdBegun r.1 i
          (some { station := i, frame := f, how := .toSend what, received := s.clock.time, age := 0 }) 2))

/-! ### District time and notices (chapter 2) -/

/-- SET_TIME (R23): operand bytes that are not five are refused with BAD_LENGTH (11.7) and a second of day over 86399 with BAD_VALUE,
leaving an earlier pending time in place; else the time becomes pending, replacing an earlier one, and the answer is OK. -/
def Obligations.SetTimeMakesATimePending : Prop :=
  ∀ (s : State) (f : Frame) (rest : List Frame) (o : List Byte), s.takes f rest → f.asks 0x07#8 o →
    (o.length ≠ 5 → exec .setTime s = .next (s.answered f rest 0x06#8 0x07#8 [])) ∧
    (∀ d1 d0 s2 s1 s0 : Byte, o = [d1, d0, s2, s1, s0] →
      let day := d1.toNat * 256 + d0.toNat
      let sec := s2.toNat * 65536 + s1.toNat * 256 + s0.toNat
      (86399 < sec → exec .setTime s = .next (s.answered f rest 0x07#8 0x07#8 [])) ∧
      (sec ≤ 86399 → exec .setTime s = .next
        ({ s with clock := { s.clock with pending := some { day := day, sec := sec } } }.answered f rest 0x00#8 0x07#8 [])))

/-- CLOCK_ADVANCE in RUNNING moves district time (R21, R24): to a pending SET_TIME, which becomes absent and makes the clock
SET; else by one second, wrapping the second and the day. Taking a SET_TIME raises CLOCK_SET and then, when the period number
has changed, PERIOD_ROLLOVER; a day event raises PERIOD_ROLLOVER in the same case. The period number is 0 while the clock is
UNSET and before day A, and else (day - A) div N (R27). -/
def Obligations.AdvanceMovesDistrictTime : Prop :=
  (∀ s : State, s.part.phase = .running →
    ∃ u, exec .clockAdvance s = .next u ∧
      (∀ t, s.clock.pending = some t → u.clock = { time := t, set := true, pending := none }) ∧
      (s.clock.pending = none → u.clock = { s.clock with time := s.clock.time.next })) ∧
  (∀ d sec : Nat, (sec < 86399 → Time.next { day := d, sec := sec } = { day := d, sec := sec + 1 }) ∧
    (d < 65535 → Time.next { day := d, sec := 86399 } = { day := d + 1, sec := 0 }) ∧
    Time.next { day := 65535, sec := 86399 } = { day := 0, sec := 0 }) ∧
  (∀ (s : State) (t : Time),
    let a := { s with clock := { time := t, set := true, pending := none } }.raise .clockSet (some t.day)
      (if s.clock.set then 0 else 1)
    s.takeSetTime t = if a.period = s.period then a else a.raise .periodRollover (some a.period) s.period) ∧
  (∀ s : State, s.clock.time.sec < 86399 →
    s.addSecond = { s with clock := { s.clock with time := s.clock.time.next } }) ∧
  (∀ s : State, s.clock.time.sec = 86399 →
    let a := { s with clock := { s.clock with time := s.clock.time.next } }
    s.addSecond = if a.period = s.period then a else a.raise .periodRollover (some a.period) s.period) ∧
  (∀ s : State,
    (s.clock.set = false → s.period = 0) ∧
    (s.clock.set = true → s.params.anchorDay ≤ s.clock.time.day →
      s.period = (s.clock.time.day - s.params.anchorDay) / s.params.periodLength) ∧
    (s.clock.set = true → s.clock.time.day < s.params.anchorDay → s.period = 0))

/-- An advance to a second of day that is no multiple of 60, with nothing due (R22, R25, R89): every running window, limit,
settle time and hold timeout loses one second, the age of a parked frame goes up by one, and so does the age of an OUTSTANDING
sample request whose station is not held; nothing else changes but the time.
An advance onto a minute, with nothing due and no round at work, does the same, and takes one minute off the sample countdown of
every present container (R22, R86); the planner's tick keeps its time as the previous one (R147), and only a day event's
PERIOD_ROLLOVER (R27) may change a notice class. -/
def Obligations.AQuietSecondOnlyCounts : Prop :=
  (∀ s : State, s.part.phase = .running → s.canonical = true → s.nothingDue → s.clock.pending = none →
    s.clock.time.next.sec % 60 ≠ 0 →
    ∃ u, exec .clockAdvance s = .next u ∧
      { u with clock := s.clock, containers := s.containers, watch := s.watch } = s ∧
      u.clock = { s.clock with time := s.clock.time.next } ∧
      u.watch = { s.watch with timeoutLeft := s.watch.timeoutLeft.map (fun n => n - 1),
                               parked := s.watch.parked.map (fun p => { p with age := p.age + 1 }) } ∧
      ∀ c,
        let k := s.container c
        (u.container c).cfg = k.cfg ∧ (u.container c).forced = k.forced ∧ (u.container c).missed = k.missed ∧
        (u.container c).fill = { k.fill with request :=
          match k.fill.request with
          | .outstanding age =>
            if s.watch.held = some (stationOf c) then .outstanding age else .outstanding (min 60 (age + 1))
          | q => q } ∧
        (u.container c).inlet = { k.inlet with
          grant := k.inlet.grant.map (fun g => { g with windowLeft := g.windowLeft - 1 })
          service := k.inlet.service.map (fun v =>
            { v with windowLeft := v.windowLeft.map (fun n => n - 1), limitLeft := v.limitLeft.map (fun n => n - 1) })
          settleLeft := k.inlet.settleLeft.map (fun n => n - 1) }) ∧
  ∀ s : State, s.part.phase = .running → s.canonical = true → s.nothingDue → s.clock.pending = none →
    s.clock.time.next.sec % 60 = 0 →
    (∀ r, r < 4 → (s.round r).cfg.standing = false ∧ (s.round r).requested = none ∧ (s.round r).state ≠ .active ∧
      (s.round r).state ≠ .closing) →
    ∃ u, exec .clockAdvance s = .next u ∧
      { u with clock := s.clock, containers := s.containers, watch := s.watch, planner := s.planner, classes := s.classes,
               link := { u.link with notices := s.link.notices } } = s ∧
      u.clock = { s.clock with time := s.clock.time.next } ∧
      u.planner = { s.planner with prevTick := s.clock.time.next } ∧
      (∀ n, n ≠ 6 → u.noticeClass n = s.noticeClass n) ∧
      (s.clock.time.sec < 86399 → u.classes = s.classes ∧ u.link = s.link) ∧
      u.watch = { s.watch with timeoutLeft := s.watch.timeoutLeft.map (fun n => n - 1),
                               parked := s.watch.parked.map (fun p => { p with age := p.age + 1 }) } ∧
      ∀ c,
        let k := s.container c
        (u.container c).cfg = k.cfg ∧ (u.container c).forced = k.forced ∧ (u.container c).missed = k.missed ∧
        (u.container c).fill = { k.fill with
          countdown := if k.cfg.present then k.fill.countdown.map (fun n => n - 1) else k.fill.countdown
          request := match k.fill.request with
            | .outstanding age =>
              if s.watch.held = some (stationOf c) then .outstanding age else .outstanding (min 60 (age + 1))
            | q => q } ∧
        (u.container c).inlet = { k.inlet with
          grant := k.inlet.grant.map (fun g => { g with windowLeft := g.windowLeft - 1 })
          service := k.inlet.service.map (fun v =>
            { v with windowLeft := v.windowLeft.map (fun n => n - 1), limitLeft := v.limitLeft.map (fun n => n - 1) })
          settleLeft := k.inlet.settleLeft.map (fun n => n - 1) }

/-- While the part is not RUNNING, CLOCK_ADVANCE moves district time by one second as long as a supply is there, and reaches
no block; with neither supply it has no effect (R21, R22). That a pending time is not taken meanwhile is the model's reading
(log 29). -/
def Obligations.AdvanceOutsideRunning : Prop :=
  ∀ s : State, s.part.phase ≠ .running →
    (s.power.main = true ∨ s.power.backup = true →
      exec .clockAdvance s = .next { s with clock := { s.clock with time := s.clock.time.next } }) ∧
    (s.power.main = false → s.power.backup = false → exec .clockAdvance s = .next s)

/-- A raise (R29) sets the class's flag and replaces its last raise. A class of priority 0 does no more. A class of priority
1-3 appends one frame when the queue holds fewer than 16, and else sets its overrun mark. The frame carries class, priority,
flags with the overrun mark as it stands after the raise, subject, value and district time (R30, 11.7). Every other class and
everything else stays. A clear of the class after it leaves the flag clear, and a raise after a clear leaves it set; either way
the last raise is this one's. Of two raises of one class the last raise is the second's. -/
def Obligations.RaiseSetsFlagAndQueue : Prop :=
  ∀ (s : State) (n : Notice) (subject : Option Nat) (value : Nat),
    let c := s.noticeClass n.number
    let u := s.raise n subject value
    { u with classes := s.classes, link := { u.link with notices := s.link.notices } } = s ∧
    (∀ k, k ≠ n.number → u.noticeClass k = s.noticeClass k) ∧
    u.noticeClass n.number =
      { priority := c.priority, flag := true, last := some { subject := subject, value := value },
        overrun := c.overrun || (decide (1 ≤ c.priority) && decide (16 ≤ s.link.notices.length)) } ∧
    (c.priority = 0 ∨ 16 ≤ s.link.notices.length → u.link.notices = s.link.notices) ∧
    (1 ≤ c.priority → s.link.notices.length < 16 → ∃ (q : NoticeFrame) (subjectBytes : List Byte),
      u.link.notices = s.link.notices ++ [q] ∧ q.priority = c.priority ∧ subjectBytes.length = 2 ∧
      (∀ k, subject = some k → subjectBytes = be 2 k) ∧
      q.frame.dst = 0x7F#8 ∧ q.frame.src = 0x00#8 ∧ q.frame.kind = 0x23#8 ∧ q.frame.tag = 0x00#8 ∧
      q.frame.payload =
        be 1 n.number ++ be 1 c.priority ++
          be 1 ((if s.clock.set then 1 else 0) + (if (u.noticeClass n.number).overrun then 2 else 0) +
            (if subject.isSome then 4 else 0)) ++
          subjectBytes ++ be 2 value ++ be 2 s.clock.time.day ++ be 3 s.clock.time.sec) ∧
    (∀ set, s.classes.wf NoticeClass.blank = true → inClassSet set n.number = true →
      ((u.clearFlags set).noticeClass n.number).flag = false ∧
      ((u.clearFlags set).noticeClass n.number).last = some { subject := subject, value := value } ∧
      (((s.clearFlags set).raise n subject value).noticeClass n.number).flag = true ∧
      (((s.clearFlags set).raise n subject value).noticeClass n.number).last =
        some { subject := subject, value := value }) ∧
    (∀ subject' value', ((u.raise n subject' value').noticeClass n.number).last =
      some { subject := subject', value := value' })

/-- NOTICE_FLAGS_CLEAR (R33): the flags and overrun marks of the classes of the set are cleared; last raises, queued frames
and the other classes stay; a set naming a position other than 1-24 is refused with BAD_VALUE and operand bytes that are not
a set's four with BAD_LENGTH (11.7), and then nothing is cleared. -/
def Obligations.NoticeFlagsClearClearsTheSet : Prop :=
  ∀ (s : State) (f : Frame) (rest : List Frame) (o : List Byte), s.takes f rest → f.asks 0x06#8 o →
    s.classes.wf NoticeClass.blank = true →
    (o.length ≠ 4 → exec .noticeFlagsClear s = .next (s.answered f rest 0x06#8 0x06#8 [])) ∧
    (o.length = 4 →
      let set := ofBe o
      ((set % 2 = 1 ∨ 2 ^ 25 ≤ set) → exec .noticeFlagsClear s = .next (s.answered f rest 0x07#8 0x06#8 [])) ∧
      (set % 2 = 0 → set < 2 ^ 25 → ∃ u, exec .noticeFlagsClear s = .next u ∧
        { u with classes := s.classes } = s.answered f rest 0x00#8 0x06#8 [] ∧
        ∀ n, u.noticeClass n =
          if set.testBit n then { s.noticeClass n with flag := false, overrun := false } else s.noticeClass n))

/-- NOTICE_FLAGS_READ (R32, 11.7): with operand bytes BAD_LENGTH; else OK with the flag set, the overrun set, the frames in the
notice queue, the classes that have a last raise, and for each class that has one its subject (0000h for none) and value.
It changes nothing. -/
def Obligations.NoticeFlagsReadReports : Prop :=
  ∀ (s : State) (f : Frame) (rest : List Frame) (o : List Byte), s.takes f rest → f.asks 0x05#8 o →
    (o ≠ [] → exec .noticeFlagsRead s = .next (s.answered f rest 0x06#8 0x05#8 [])) ∧
    (o = [] → ∃ data, exec .noticeFlagsRead s = .next (s.answered f rest 0x00#8 0x05#8 data) ∧
      data.length = 109 ∧
      (∀ n, 1 ≤ n → n ≤ 24 →
        (ofBe (data.take 4)).testBit n = (s.noticeClass n).flag ∧
        (ofBe ((data.drop 4).take 4)).testBit n = (s.noticeClass n).overrun ∧
        (ofBe ((data.drop 9).take 4)).testBit n = (s.noticeClass n).last.isSome ∧
        ∀ r, (s.noticeClass n).last = some r →
          (data.drop (13 + 4 * (n - 1))).take 4 = be 2 (r.subject.getD 0) ++ be 2 r.value) ∧
      (data.drop 8).take 1 = be 1 s.link.notices.length)

/-! ### Cards, households, grants and the journal (chapters 3, 4, 7) -/

/-- A card number splits into district code, record index and generation (R34). Validation (R38, R41, R49): the checks in
their order, none but the first in open mode; a refusal sets SHOW with its code and value 0 under R111, and LOST_CARD raises
CARD_LOST_SEEN before; a card at a container that is not present is refused with NO_SLOT and not validated (R112).
A card that passes validation and is more than 10 seconds old is refused with STALE (R114), and one of another class at a SERVICE
reader with WRONG_READER (R149). A crew's card, or in open mode any card at a SERVICE reader (R163), is refused with OUT_OF_SERVICE
at a BARRED inlet and with SERVICING in LIFTING, SETTLING and another card's SERVICE; at its own service it starts the window again
and sets SERVICE_UNLOCK again (R150). Each of these writes the card's last seen, but in open mode, and SHOW under R111.
A resident's or business's card at an INLET reader (R113), and in open mode any card there (R127), is refused in this order: with
NO_ACCOUNT outside open mode, with no household; with OUT_OF_SERVICE, INLET_BUSY or SERVICING by the inlet's state; with FULL and
the alternate's display number (R115); then, outside open mode alone (R116), with BANK, FRACTION, QUOTA once the household's
lazy period reset has been made, and JOURNAL_FULL, which is raised, where the grant would reserve and no place for one is left
(R61). The reset stands after either of the last two. Each writes last seen, but in open mode, and SHOW under R111 (R118). -/
def Obligations.ValidationRunsInOrder : Prop :=
  ∀ (s : State) (station c number age : Nat) (reader : Bool),
    let idx := cardIndex number
    let r := (s.card idx).cfg
    let k := s.container c
    let u := s.cardShown station c reader number age
    let seen := fun code : DisplayCode =>
      if s.part.openMode then (s.card idx).lastSeen else some { time := s.clock.time, container := c, code := code }
    let wrote := fun (code : DisplayCode) (w : State) =>
      w.card idx = { s.card idx with lastSeen := seen code } ∧ ∀ j, j ≠ idx → w.card j = s.card j
    let refusedWith := fun (code : DisplayCode) (value : Nat) => ∃ w : State, u = w.show c code value ∧
      { w with cards := s.cards } = s ∧ wrote code w
    let refused := fun code : DisplayCode => refusedWith code 0
    number = cardDistrict number * 65536 + idx * 16 + cardGeneration number ∧ idx < 4096 ∧ cardGeneration number < 16 ∧
    s.validate number =
      (if idx = 0 then some .nullCard
       else if s.part.openMode = true then none
       else if cardDistrict number ≠ s.params.districtCode then some .foreign
       else if s.params.cardLimit ≤ idx then some .unknownCard
       else if cardGeneration number ≠ r.generation then some .revoked
       else if r.status = .suspended then some .suspended
       else if r.status = .lost then some .lostCard
       else none) ∧
    (k.cfg.present = false → u = s.show c .noSlot 0) ∧
    (k.cfg.present = true → ∀ code, s.validate number = some code →
      u = (if code = .lostCard then s.raise .cardLostSeen (some idx) station else s).show c code 0) ∧
    (k.cfg.present = true → s.validate number = none → 10 < age → refused .stale) ∧
    (k.cfg.present = true → s.validate number = none → age ≤ 10 →
      (s.part.openMode = false → r.cls ≠ .crew → reader = true → refused .wrongReader) ∧
      (s.part.openMode = false ∧ r.cls = .crew ∨ s.part.openMode = true ∧ reader = true →
        (k.inlet.state = .barred → refused .outOfService) ∧
        (k.inlet.state = .lifting ∨ k.inlet.state = .settling → refused .servicing) ∧
        (∀ v, k.inlet.state = .service → k.inlet.service = some v →
          (v.crew ≠ some idx → refused .servicing) ∧
          (v.crew = some idx →
            { u with containers := s.containers, cards := s.cards, lineA := s.lineA, lineB := s.lineB } = s ∧
            (∀ d, d ≠ c → u.container d = s.container d) ∧
            u.container c = { k with inlet := { k.inlet with
              service := some { v with windowLeft := some s.params.serviceWindow }
              command := some { action := .serviceUnlock, window := s.params.serviceWindow, code := .serviceGranted,
                                value := match v.round with
                                  | some n => n + 1
                                  | none => 0
                                sent := false } } } ∧
            u.card idx = { s.card idx with lastSeen := seen .serviceGranted } ∧ (∀ j, j ≠ idx → u.card j = s.card j) ∧
            s.turnAsked u c)))) ∧
    (k.cfg.present = true → s.validate number = none → age ≤ 10 → reader = false →
      s.part.openMode = true ∨ r.cls ≠ .crew →
      let full := k.fill.status = .full ∨ k.fill.status = .overfull
      let hint := match k.cfg.alternate with
        | none => 0
        | some a =>
          let o := s.container a
          if o.cfg.present = false ∨ o.fill.status = .full ∨ o.fill.status = .overfull ∨ o.inlet.state = .barred then 0
          else (s.bank (s.station (stationOf a)).cfg.bank).displayNumber
      (s.part.openMode = false → r.household = none → refused .noAccount) ∧
      (s.part.openMode = true ∨ r.household.isSome = true →
        (k.inlet.state = .barred → refused .outOfService) ∧
        (k.inlet.state = .opened → refused .inletBusy) ∧
        (k.inlet.state = .service ∨ k.inlet.state = .lifting ∨ k.inlet.state = .settling → refused .servicing) ∧
        (k.inlet.state = .locked → full → refusedWith .full hint)) ∧
      ∀ h, r.household = some h → s.part.openMode = false → k.inlet.state = .locked → ¬full →
        let fr := k.cfg.fraction
        let bank := (s.station (stationOf c)).cfg.bank
        let outside := r.banks.getLsbD bank = false ∨ r.cls = .business ∧ (s.bank bank).residentialOnly = true
        let hh := (s.household h).lazyReset s.period
        let inQuota := hh.cfg.allowance.get fr = 255 ∨ hh.used.get fr + hh.held.get fr < hh.cfg.allowance.get fr
        let places := s.journal.records.length + s.journal.reserved
        let reset := fun (code : DisplayCode) (w : State) => { w with cards := s.cards, households := s.households } = s ∧
          wrote code w ∧ w.household h = hh ∧ ∀ j, j ≠ h → w.household j = s.household j
        (outside → refused .bank) ∧
        (¬outside → r.fractions.getLsbD fr.code = false → refused .fraction) ∧
        (¬outside → r.fractions.getLsbD fr.code = true →
          (¬inQuota → ∃ w : State, u = w.show c .quota 0 ∧ reset .quota w) ∧
          (inQuota → hh.cfg.metered = true → (s.fraction fr).metered = true → 991 < places →
            ∃ w : State, u = (w.show c .journalFull 0).raise .journalFull (some places) c ∧ reset .journalFull w)))

/-- SHOW (R111, R118): a refusal sets it when the slot has no pending command or has a SHOW, and its station then asks for a
priority turn unless it is DISABLED or on the list already (R17); an UNLOCK, LOCK or SERVICE_UNLOCK stays as it is. Nothing
else changes. The set of a command of any action replaces the one that is pending, counts as not yet sent (R7), and asks for that
turn in the same way (R17, R111). -/
def Obligations.ShowNeverReplacesALockCommand : Prop :=
  (∀ (s : State) (c : Nat) (code : DisplayCode) (value : Nat),
    let u := s.show c code value
    let old := (s.container c).inlet.command
    (∀ cmd, old = some cmd → cmd.action ≠ .showCode → u = s) ∧
    (old = none ∨ (∃ cmd, old = some cmd ∧ cmd.action = .showCode) →
      { u with containers := s.containers, lineA := s.lineA, lineB := s.lineB } = s ∧
      (∀ d, d ≠ c → u.container d = s.container d) ∧
      u.container c = { s.container c with inlet := { (s.container c).inlet with
        command := some { action := .showCode, window := 0, code := code, value := value, sent := false } } } ∧
      (∀ l, l ≠ lineOf (stationOf c) → u.line l = s.line l) ∧
      u.line (lineOf (stationOf c)) = { s.line (lineOf (stationOf c)) with
        priority :=
          if (s.station (stationOf c)).state = .disabled ∨ stationOf c ∈ (s.line (lineOf (stationOf c))).priority then
            (s.line (lineOf (stationOf c))).priority
          else (s.line (lineOf (stationOf c))).priority ++ [stationOf c] })) ∧
  ∀ (s : State) (c : Nat) (action : InletAction) (window : Nat) (code : DisplayCode) (value : Nat),
    let u := s.setCommand c action window code value
    { u with containers := s.containers, lineA := s.lineA, lineB := s.lineB } = s ∧
    (∀ d, d ≠ c → u.container d = s.container d) ∧
    u.container c = { s.container c with inlet := { (s.container c).inlet with
      command := some { action := action, window := window, code := code, value := value, sent := false } } } ∧
    s.turnAsked u c

/-- A resident's or business's card that passes every check at an INLET reader is granted (R113 to R117, R54, R61): the inlet
is OPEN under a grant record made now, the household's held count of the container's fraction goes up by one, a reserving
grant takes a journal place, UNLOCK GRANTED carries the grant window and the remaining allowance, and the card's last seen is
written. Other containers, other cards and other households do not change. In open mode any valid card is granted at an INLET reader
(R127): no household, nothing reserved or held, display value 255, no last seen written.
A crew's card at a LOCKED or an OPEN inlet asks for service (R149, R151 to R153): an OPEN inlet's grant is CUT first, its hold and
its reservation given back. With 1024 places taken the card is refused: JOURNAL_FULL is raised, and the inlet is LOCKED with LOCK
CLOSED after a cut, or SHOW is set under R111. Else a reservation is taken, the inlet is SERVICE under a record with the service
window, and SERVICE_UNLOCK carries the window and the round plus 1. The record's stop is the container's PENDING stop in an ACTIVE
round open to the card, which becomes SERVICING; else an UNPLANNED stop put at the end of the card's own ACTIVE round of that
fraction, where the container has no open stop; else none. In open mode (R163) no room is asked, no round matched, no last seen
written and nothing reserved. -/
def Obligations.ACardThatPassesIsGranted : Prop :=
  (∀ (s : State) (station c number age h : Nat),
    let idx := cardIndex number
    let card := (s.card idx).cfg
    let k := s.container c
    let i := stationOf c
    let fr := k.cfg.fraction
    let w := (s.station i).cfg.grantWindow
    let hh := (s.household h).lazyReset s.period
    let reserves := (s.household h).cfg.metered && (s.fraction fr).metered
    k.cfg.present = true → s.part.openMode = false → s.validate number = none → age ≤ 10 →
    card.cls ≠ .crew → card.household = some h → k.inlet.state = .locked →
    k.fill.status ≠ .full → k.fill.status ≠ .overfull →
    card.banks.getLsbD (s.station i).cfg.bank = true →
    ¬(card.cls = .business ∧ (s.bank (s.station i).cfg.bank).residentialOnly = true) →
    card.fractions.getLsbD fr.code = true →
    (hh.cfg.allowance.get fr = 255 ∨ hh.used.get fr + hh.held.get fr < hh.cfg.allowance.get fr) →
    (reserves = true → s.journal.records.length + s.journal.reserved ≤ 991) →
    let u := s.cardShown station c false number age
    let left := if hh.cfg.allowance.get fr = 255 then 255
      else hh.cfg.allowance.get fr - (hh.used.get fr + (hh.held.get fr + 1))
    (u.container c).inlet = { k.inlet with
      state := .opened
      grant := some { card := idx, household := some h, fraction := fr, period := s.period, reserved := reserves,
                      windowLeft := w }
      command := some { action := .unlock, window := w, code := .granted, value := left, sent := false } } ∧
    (u.container c).fill = { k.fill with request := if k.fill.request = .pending then .deferred else k.fill.request } ∧
    (u.container c).cfg = k.cfg ∧ (u.container c).forced = k.forced ∧ (u.container c).missed = k.missed ∧
    u.household h = { hh with held := hh.held.set fr (hh.held.get fr + 1) } ∧
    u.journal = { s.journal with reserved := s.journal.reserved + (if reserves then 1 else 0) } ∧
    (u.card idx).lastSeen = some { time := s.clock.time, container := c, code := .granted } ∧
    (u.card idx).cfg = (s.card idx).cfg ∧
    (∀ d, d ≠ c → u.container d = s.container d) ∧ (∀ j, j ≠ idx → u.card j = s.card j) ∧
    (∀ j, j ≠ h → u.household j = s.household j) ∧
    { u with containers := s.containers, cards := s.cards, households := s.households, journal := s.journal,
             lineA := s.lineA, lineB := s.lineB } = s ∧
    s.turnAsked u c) ∧
  (∀ (s : State) (station c number age : Nat),
    let k := s.container c
    let w := (s.station (stationOf c)).cfg.grantWindow
    k.cfg.present = true → s.part.openMode = true → s.validate number = none → age ≤ 10 → k.inlet.state = .locked →
    k.fill.status ≠ .full → k.fill.status ≠ .overfull →
    let u := s.cardShown station c false number age
    { u with containers := s.containers, lineA := s.lineA, lineB := s.lineB } = s ∧
    (∀ d, d ≠ c → u.container d = s.container d) ∧
    u.container c = { k with
      fill := { k.fill with request := if k.fill.request = .pending then .deferred else k.fill.request }
      inlet := { k.inlet with
        state := .opened
        grant := some { card := cardIndex number, household := none, fraction := k.cfg.fraction, period := s.period,
                        reserved := false, windowLeft := w }
        command := some { action := .unlock, window := w, code := .granted, value := 255, sent := false } } } ∧
    s.turnAsked u c) ∧
  ∀ (s : State) (station c number age : Nat) (reader : Bool) (grant : Option Grant),
    let idx := cardIndex number
    let k := s.container c
    let w := s.params.serviceWindow
    let crew := s.part.openMode = false ∧ (s.card idx).cfg.cls = .crew
    k.cfg.present = true → s.validate number = none → age ≤ 10 → crew ∨ s.part.openMode = true ∧ reader = true →
    (k.inlet.state = .locked ∧ grant = none) ∨ (k.inlet.state = .opened ∧ grant.isSome = true ∧ k.inlet.grant = grant) →
    let u := s.cardShown station c reader number age
    let kept := s.journal.reserved - (if (grant.map Grant.reserved).getD false then 1 else 0)
    let full := 1024 ≤ s.journal.records.length + kept
    let shown := (k.inlet.command.map InletCommand.action).getD .showCode = .showCode
    let cutGrant := if grant.isSome then none else k.inlet.grant
    let openTo := fun d : Round => d.cfg.crew = none ∨ d.cfg.crew = some idx
    let own := fun r : Nat => (s.round r).state = .active ∧ (s.round r).cfg.crew = some idx ∧
      (s.round r).cfg.fraction = k.cfg.fraction ∧ (s.round r).stops.length < 24 ∧ ∀ p ∈ (s.round r).stops, p.container ≠ c
    let service := fun (round stop : Option Nat) => (u.container c).inlet = { k.inlet with
      state := .service, grant := cutGrant
      service := some { crew := some idx, round := round, stop := stop, reserved := !s.part.openMode,
                        windowLeft := some w, limitLeft := none }
      command := some { action := .serviceUnlock, window := w, code := .serviceGranted,
                        value := match round with
                          | some n => n + 1
                          | none => 0
                        sent := false } }
    (crew ∧ full ∧ grant = none ∧ ¬shown → u.lineA = s.lineA ∧ u.lineB = s.lineB) ∧
    (¬(crew ∧ full ∧ grant = none ∧ ¬shown) → s.turnAsked u c) ∧
    (∀ d, d ≠ c → u.container d = s.container d) ∧ (u.container c).cfg = k.cfg ∧
    (u.container c).fill = { k.fill with request :=
      if k.inlet.state = .opened ∧ k.fill.request = .deferred then .pending else k.fill.request } ∧
    (∀ g, grant = some g → s.grantGone u g) ∧ (grant = none → u.households = s.households) ∧
    u.journal.records = s.journal.records ∧ u.journal.serial = s.journal.serial ∧ u.clock = s.clock ∧
    (∀ j, j ≠ idx → u.card j = s.card j) ∧ (u.card idx).cfg = (s.card idx).cfg ∧
    (crew → full → u.journal.reserved = kept ∧ u.rounds = s.rounds ∧ u.told 22 (some 1024) c ∧
      (u.card idx).lastSeen = some { time := s.clock.time, container := c, code := .journalFull } ∧
      (u.container c).inlet = { k.inlet with
        grant := cutGrant
        state := .locked
        command :=
          if grant.isSome then some InletCommand.closed
          else if shown then
            some { action := .showCode, window := 0, code := .journalFull, value := 0, sent := false }
          else k.inlet.command }) ∧
    (crew → ¬full → u.journal.reserved = kept + 1 ∧ u.noticeClass 22 = s.noticeClass 22 ∧
      (u.card idx).lastSeen = some { time := s.clock.time, container := c, code := .serviceGranted } ∧
      (∀ r i, s.soleStop c openTo r i → service (some r) (some i) ∧ (∀ q, q ≠ r → u.round q = s.round q) ∧
        u.round r = { s.round r with stops := (s.round r).stops.modify i (fun p => { p with state := some .servicing }) }) ∧
      (s.noStop c openTo →
        (∀ r, (∀ q, q < 4 → ∀ p ∈ (s.round q).stops, p.container = c → p.state ≠ some .pending ∧ p.state ≠ some .servicing) →
          r < 4 → own r → (∀ q, q < r → ¬own q) →
          service (some r) (some (s.round r).stops.length) ∧ (∀ q, q ≠ r → u.round q = s.round q) ∧
          u.round r = { s.round r with stops := (s.round r).stops ++
            [{ container := c, state := some .servicing, origin := .unplanned, doneTime := none }] }) ∧
        ((∃ q, q < 4 ∧ ∃ p ∈ (s.round q).stops, p.container = c ∧ (p.state = some .pending ∨ p.state = some .servicing)) ∨
            (∀ r, r < 4 → ¬own r) →
          service none none ∧ u.rounds = s.rounds))) ∧
    (s.part.openMode = true → service none none ∧ u.journal.reserved = kept ∧ u.rounds = s.rounds ∧ u.cards = s.cards ∧
      u.noticeClass 22 = s.noticeClass 22)

/-- A DEPOSIT_DONE of one turn or more at an OPEN inlet closes its grant (R119 to R121, R55, R58, R59): the inlet is LOCKED
with LOCK READY set; the household's held count goes down by one, and its used count up by one, saturating at 255, when the
grant's period is the current one; a reserving grant writes one DEPOSIT record in the place it held, with JOURNAL_HIGH where that is
the 768th; the other turns are unattributed, and reported with DRUM_EXTRA.
At a container that is not present, and with no turn since the last count, only the drum count is kept. Without an open grant every
turn is unattributed and reported so. Either way all the turns go to the Fill Estimator.
What the Fill Estimator makes of n turns (R81, R82, R87, R97): the deposits since the last valid sample go up by n, to 65535; a
known E goes up by n nominal volumes, to five quarters of the capacity, and is evaluated once, with its notice; a sample request
falls due where the count reached or passed a multiple of K. A container that is not present ignores them. -/
def Obligations.DepositClosesTheGrant : Prop :=
  (∀ (s : State) (c count : Nat) (g : Grant),
    let k := s.container c
    let n := match k.inlet.lastDrum with
      | none => 1
      | some d => (count + 65536 - d) % 65536
    k.cfg.present = true → k.inlet.state = .opened → k.inlet.grant = some g → 1 ≤ n →
    let u := s.depositDone c count
    let late := g.household.isSome && decide (s.period ≠ g.period)
    (u.container c).inlet.state = .locked ∧ (u.container c).inlet.grant = none ∧
    (u.container c).inlet.lastDrum = some count ∧
    (u.container c).inlet.command = some { action := .lock, window := 0, code := .ready, value := 0, sent := false } ∧
    (u.container c).inlet.unattributed =
      (if n = 1 then k.inlet.unattributed else min 65535 (k.inlet.unattributed + (n - 1))) ∧
    (∀ h, g.household = some h →
      let r := (s.household h).lazyReset s.period
      u.household h = { r with
        held := r.held.set g.fraction (r.held.get g.fraction - 1)
        used := if s.period = g.period then r.used.set g.fraction (min 255 (r.used.get g.fraction + 1)) else r.used }) ∧
    (∀ j, g.household ≠ some j → u.household j = s.household j) ∧
    (g.reserved = false → u.journal = s.journal) ∧
    (g.reserved = true → u.journal =
      { records := s.journal.records ++
          [{ serial := s.journal.serial, kind := .deposit, time := s.clock.time, container := c, card := some g.card,
             household := g.household, fraction := g.fraction, period := some g.period, late := late,
             openMode := s.part.openMode }]
        serial := (s.journal.serial + 1) % 65536
        reserved := s.journal.reserved - 1 }) ∧
    u.cards = s.cards ∧ (∀ d, d ≠ c → u.container d = s.container d) ∧ s.turnAsked u c ∧
    (2 ≤ n → u.told 20 (some c) (n - 1)) ∧ (n = 1 → u.noticeClass 20 = s.noticeClass 20) ∧
    (g.reserved = true → s.journal.records.length = 767 → u.told 21 none 768) ∧
    (g.reserved = false ∨ s.journal.records.length ≠ 767 → u.noticeClass 21 = s.noticeClass 21) ∧
    ∃ v : State, u = v.reportTurns c n ∧
      { v with containers := s.containers, households := s.households, journal := s.journal, classes := s.classes,
               lineA := s.lineA, lineB := s.lineB, link := { v.link with notices := s.link.notices } } = s ∧
      v.container c = { k with
        inlet := (u.container c).inlet
        fill := { k.fill with request := if k.fill.request = .deferred then .pending else k.fill.request } }) ∧
  (∀ (s : State) (c count : Nat),
    let k := s.container c
    let n := match k.inlet.lastDrum with
      | none => 1
      | some d => (count + 65536 - d) % 65536
    let u := s.depositDone c count
    (k.cfg.present = false ∨ n = 0 → { u with containers := s.containers } = s ∧
      (∀ d, d ≠ c → u.container d = s.container d) ∧
      u.container c = { k with inlet := { k.inlet with lastDrum := some count } }) ∧
    (k.cfg.present = true → 1 ≤ n → k.inlet.state ≠ .opened ∨ k.inlet.grant = none →
      ∃ v : State, u = v.reportTurns c n ∧
        { v with containers := s.containers, classes := s.classes, link := { v.link with notices := s.link.notices } } = s ∧
        (∀ d, d ≠ c → v.container d = s.container d) ∧
        v.container c = { k with inlet := { k.inlet with
          lastDrum := some count, unattributed := min 65535 (k.inlet.unattributed + n) } } ∧
        v.told 20 (some c) n ∧ ∀ m, m ≠ 20 → v.noticeClass m = s.noticeClass m)) ∧
  ∀ (s : State) (c n : Nat),
    let k := s.container c
    let u := s.reportTurns c n
    let b := k.fill.deposits
    let a := min 65535 (b + n)
    let due := 1 ≤ k.cfg.extraEvery ∧ b / k.cfg.extraEvery < a / k.cfg.extraEvery
    let request :=
      if due ∧ k.live = true ∧ k.fill.request = .idle then
        (if k.inlet.waits then SampleRequest.deferred else .pending)
      else k.fill.request
    (k.cfg.present = false → u = s) ∧
    (k.cfg.present = true → k.fill.estimate = none → { u with containers := s.containers } = s ∧
      (∀ d, d ≠ c → u.container d = s.container d) ∧
      u.container c = { k with fill := { k.fill with deposits := a, request := request } }) ∧
    (∀ e, k.cfg.present = true → k.fill.estimate = some e →
      let E := min (e + n * (s.fraction k.cfg.fraction).nominal) (k.cfg.capacity * 5 / 4)
      let F := E * 1000 / k.cfg.capacity
      let r := evaluated k.fill.status k.fill.fullCount F k.cfg.alertLevel k.cfg.fullLevel k.cfg.confirmCount
      { u with containers := s.containers, planner := s.planner, classes := s.classes,
               link := { u.link with notices := s.link.notices } } = s ∧
      (∀ d, d ≠ c → u.container d = s.container d) ∧
      u.container c = { k with fill := { k.fill with
        deposits := a, estimate := some E, status := r.1, fullCount := r.2, request := request } } ∧
      s.fillReported u c k.fill.status r.1 F)

/-- The lazy period reset and the quota check (R52, R53): an epoch that is absent or differs from p zeroes every used count
and becomes p, and the held counts stay; an epoch equal to p changes nothing; the check passes for an allowance of 255 or
when used plus held is below the allowance. -/
def Obligations.QuotaIsCheckedInThePeriod : Prop :=
  ∀ (r : Household) (f : Fraction) (p : Nat),
    (r.epoch ≠ some p → r.lazyReset p = { r with used := PerFraction.zero, epoch := some p }) ∧
    (r.epoch = some p → r.lazyReset p = r) ∧
    (r.quotaPasses f = true ↔ r.cfg.allowance.get f = 255 ∨ r.used.get f + r.held.get f < r.cfg.allowance.get f) ∧
    (r.cfg.allowance.get f = 0 → r.quotaPasses f = false) ∧
    r.remaining f = (if r.cfg.allowance.get f = 255 then 255 else r.cfg.allowance.get f - (r.used.get f + r.held.get f))

/-- JOURNAL_READ (R65, 11.7): one operand byte, and else BAD_LENGTH; the reply, a refusal too, is JOURNAL_DATA with the
smallest of count, 3 and the number of records, the figures, and those oldest records of 17 bytes each, in the layout of
11.7; the period of a record that has none is left open (log 9). It changes nothing. -/
def Obligations.JournalReadCopiesTheOldest : Prop :=
  ∀ (s : State) (f : Frame) (rest : List Frame) (o : List Byte), s.takes f rest → f.asks 0x03#8 o →
    (o.length ≠ 1 → exec .journalRead s = .next (s.replied rest (f.reply 0x24#8 0x06#8 0x03#8 []))) ∧
    (∀ count : Byte, o = [count] →
      let rs := s.journal.records.take (min count.toNat 3)
      ∃ oldest, exec .journalRead s = .next (s.replied rest (f.reply 0x24#8 0x00#8 0x03#8
        (be 1 rs.length ++ be 2 s.journal.records.length ++ be 2 s.journal.reserved ++
          be 1 (if s.journal.records = [] then 0 else 1) ++ oldest ++ be 2 s.journal.serial ++
          rs.flatMap JournalRecord.bytes))) ∧
        oldest.length = 2 ∧ (∀ r tail, s.journal.records = r :: tail → oldest = be 2 r.serial) ∧
        ∀ r ∈ rs, r.bytes.length = 17 ∧ spells r.bytes r.layout)

/-- JOURNAL_RELEASE (R66; a count over 1024 is clamped like any other, the model's reading, log 31): four operand bytes, and
else BAD_LENGTH; a count of 0 removes nothing; a first serial that is not the oldest record's is refused with MISMATCH; else
the count oldest records go, clamped to the number there is with OK_CLAMPED. The reply carries removed, left and the new
oldest serial; serial counter and reservations stay. -/
def Obligations.JournalReleaseRemovesTheOldest : Prop :=
  ∀ (s : State) (f : Frame) (rest : List Frame) (o : List Byte), s.takes f rest → f.asks 0x04#8 o →
    (o.length ≠ 4 → exec .journalRelease s = .next (s.answered f rest 0x06#8 0x04#8 [])) ∧
    (∀ a b x y : Byte, o = [a, b, x, y] →
      let first := a.toNat * 256 + b.toNat
      let count := x.toNat * 256 + y.toNat
      let n := s.journal.records.length
      let data := fun (removed : Nat) (left : List JournalRecord) (serial : List Byte) =>
        be 2 removed ++ be 2 left.length ++ be 1 (if left = [] then 0 else 1) ++ serial
      ∃ serial,
        (count = 0 → exec .journalRelease s =
          .next (s.answered f rest 0x00#8 0x04#8 (data 0 s.journal.records serial))) ∧
        (count ≠ 0 → s.journal.records.head?.map JournalRecord.serial ≠ some first → exec .journalRelease s =
          .next (s.answered f rest 0x0A#8 0x04#8 (data 0 s.journal.records serial))) ∧
        (count ≠ 0 → s.journal.records.head?.map JournalRecord.serial = some first → exec .journalRelease s =
          .next ({ s with journal := { s.journal with records := s.journal.records.drop count } }.answered f rest
            (if n < count then 0x01#8 else 0x00#8) 0x04#8
            (data (min count n) (s.journal.records.drop count) serial))) ∧
        serial.length = 2 ∧
        (∀ r tail, (if count ≠ 0 ∧ s.journal.records.head?.map JournalRecord.serial = some first then
            s.journal.records.drop count else s.journal.records) = r :: tail → serial = be 2 r.serial))

/-! ### Fill and sensors (chapters 5, 6) -/

/-- The distance of an echo (R72): temperature clamped to -40 ... +60, c10 = 3313 + 6 T between 3073 and 3673, and
d = (t_us c10 + 10000) div 20000. The level (R73): a distance below the dead zone is saturated, with level hs - dead zone or
0; else the level is hs - d clamped to 0 ... hs. The volume (R74): between two points of a legal shape, at most 1000 per mille
and at most the capacity, and all of it at level hs. A sample measures by the three in turn, from the distance of its time of
flight and temperature, with its volume in litres truncated. -/
def Obligations.EchoGivesDistanceLevelAndVolume : Prop :=
  (∀ (tof : Nat) (T : Int),
    let t := if T < -40 then -40 else if 60 < T then 60 else T
    3073 ≤ 3313 + 6 * t ∧ 3313 + 6 * t ≤ 3673 ∧
    (distance tof T : Int) = ((tof : Int) * (3313 + 6 * t) + 10000) / 20000) ∧
  (∀ d hs dz : Nat,
    (d < dz → level d hs dz = (if hs ≤ dz then 0 else hs - dz, true)) ∧
    (dz ≤ d → level d hs dz = (if hs ≤ d then 0 else hs - d, false))) ∧
  (∀ (p : Shape) (lvl hs capacity : Nat), 0 < hs → lvl ≤ hs →
    p.points.length = 9 → p.point 0 = 0 → p.point 8 = 1000 → (∀ k, k < 8 → p.point k ≤ p.point (k + 1)) →
    let k := min 7 (lvl * 8 / hs)
    let v := volumePerMille p lvl hs
    v = p.point k + (p.point (k + 1) - p.point k) * (lvl * 8 - k * hs) / hs ∧
    p.point k ≤ v ∧ v ≤ p.point (k + 1) ∧ v ≤ 1000 ∧ v * capacity / 1000 ≤ capacity ∧ (lvl = hs → v = 1000)) ∧
  ∀ (g : ContainerCfg) (p : Shape) (tof : Nat) (T : Int),
    let m := measure g p tof T
    let lv := level (distance tof T) g.height g.deadZone
    m.saturated = lv.2 ∧ m.perMille = volumePerMille p lv.1 g.height ∧ m.volume = m.perMille * g.capacity / 1000

/-- What the five fusion cases (R75 to R79) make of the estimate and the rise-pending flag, with m the measured volume. -/
def Obligations.FusionHasFiveCases : Prop :=
  ∀ (g : ContainerCfg) (f : Fill) (x : Measured),
    (f.estimate = none ∨ f.postLift = true → fuse g f x = (x.volume, false)) ∧
    ∀ e, f.estimate = some e → f.postLift = false →
      (x.saturated = true → fuse g f x = (max e x.volume, f.risePending)) ∧
      (x.saturated = false → x.volume ≤ e + g.tolerance → e ≤ x.volume + g.tolerance →
        fuse g f x = ((e * (8 - g.weight) + x.volume * g.weight + 4) / 8, false)) ∧
      (x.saturated = false → e + g.tolerance < x.volume →
        fuse g f x = if f.risePending then (x.volume, false) else (e, true)) ∧
      (x.saturated = false → x.volume + g.tolerance < e → fuse g f x = (max x.volume (e - g.sinkStep), false))

/-- The status after an evaluation that finds F per mille, with alert level a, full level f and confirm count c (R93 to
R96), and its full-pending count. -/
def Obligations.EvaluationDecidesTheStatus : Prop :=
  ∀ (old : FillStatus) (count F a f c : Nat),
    let r := evaluated old count F a f c
    let band := if a ≤ F + 50 then FillStatus.high else FillStatus.normal
    (1100 ≤ F → r = (.overfull, 0)) ∧
    (F < 1100 →
      (old = .overfull → 1050 ≤ F → r = (.overfull, 0)) ∧
      (old = .overfull → F < 1050 → r = (if f ≤ F + 50 then .full else band, 0)) ∧
      (f ≤ F →
        (old = .unknown ∨ old = .normal ∨ old = .high → r = if c = 1 then (.full, 0) else (.fullPending, 1)) ∧
        (old = .fullPending → r = if c ≤ count + 1 then (.full, 0) else (.fullPending, count + 1)) ∧
        (old = .full → r = (.full, 0))) ∧
      (F < f →
        (old = .fullPending → r = (band, 0)) ∧
        (old = .full → r = (if f ≤ F + 50 then .full else band, 0)) ∧
        (old = .high → r = (band, 0)) ∧
        (old = .normal ∨ old = .unknown → r = (if a ≤ F then .high else .normal, 0))))

/-- SAMPLE_COUNTDOWN_EXPIRY, due in RUNNING: the countdown is reloaded with the sample interval, and a request falls due: from
IDLE it becomes PENDING, or DEFERRED at an OPEN or SETTLING inlet, one already held stays, and at a container that is not
present or whose sensor is FAILED it is dropped (R85, R86). SAMPLE_OUTSTANDING_EXPIRY, due in RUNNING (R89, R102): the request
ends IDLE, or DEFERRED at an OPEN or SETTLING inlet; where it is counted, one invalid sample is added to the streak, saturating
at 255, and a GOOD sensor whose streak reaches the invalid limit is DEGRADED with SENSOR_DEGRADED raised.
An ECHO_SAMPLE (R70, R71, R80, R97, R103): an OUTSTANDING request ends; at a container that is not present, an OPEN or SETTLING
inlet or a FAILED sensor the sample is discarded; an invalid one is counted as above; a third match of the stuck test makes the
sensor FAILED with SENSOR_FAILED and discards the sample; any other sets streak and evidence, makes a DEGRADED sensor GOOD, and
gives E and the rise-pending flag by fusion, with LIFT_RESIDUE for a post-lift sample over the residue limit, the time kept, the
deposits 0, the countdown reloaded, one at 0 whose expiry waits too, which is the model's choice (log 39), and one evaluation with
its notice. -/
def Obligations.SampleExpiriesAskAndCount : Prop :=
  (∀ (s : State) (c : Nat), s.part.phase = .running → (s.container c).fill.countdown = some 0 →
    let k := s.container c
    let waits := k.inlet.state = .opened ∨ k.inlet.state = .settling
    let request :=
      if k.cfg.present = true ∧ k.fill.sensor ≠ .failed ∧ k.fill.request = .idle then
        (if waits then SampleRequest.deferred else .pending)
      else k.fill.request
    ∃ u, exec (.sampleCountdownExpiry c) s = .next u ∧
      { u with containers := s.containers } = s ∧ (∀ d, d ≠ c → u.container d = s.container d) ∧
      u.container c = { k with fill := { k.fill with request := request, countdown := some k.cfg.sampleInterval } }) ∧
  (∀ (s : State) (c : Nat), s.part.phase = .running → (s.container c).fill.request = .outstanding 60 →
    let k := s.container c
    let waits := k.inlet.state = .opened ∨ k.inlet.state = .settling
    let live := k.cfg.present = true ∧ k.fill.sensor ≠ .failed
    let streak := min 255 (k.fill.streak + 1)
    let degrades := k.fill.sensor = .good ∧ s.params.invalidLimit ≤ streak
    ∃ u, exec (.sampleOutstandingExpiry c) s = .next u ∧
      { u with containers := s.containers, classes := s.classes, link := { u.link with notices := s.link.notices } } = s ∧
      (∀ d, d ≠ c → u.container d = s.container d) ∧
      (live → waits → u.container c = { k with fill := { k.fill with request := .deferred } } ∧ { u with containers := s.containers } = s) ∧
      (¬live → u.container c = { k with fill := { k.fill with request := .idle } } ∧ { u with containers := s.containers } = s) ∧
      (live → ¬waits → ¬degrades →
        u.container c = { k with fill := { k.fill with request := .idle, streak := streak } } ∧ { u with containers := s.containers } = s) ∧
      (live → ¬waits → degrades →
        u.container c = { k with fill := { k.fill with request := .idle, streak := streak, sensor := .degraded } } ∧
        (u.noticeClass 12).flag = true ∧ (u.noticeClass 12).last = some { subject := some c, value := streak })) ∧
  ∀ (s : State) (c tof quality : Nat) (temperature : Int),
    let k := s.container c
    let f := k.fill
    let u := s.echoSample c tof quality temperature
    let request := match f.request with
      | .outstanding _ => if k.live && k.inlet.waits then SampleRequest.deferred else .idle
      | q => q
    let used := k.live = true ∧ k.inlet.waits = false
    let valid := 0 < tof ∧ tof < 25000 ∧ k.cfg.qMin ≤ quality
    let streak := min 255 (f.streak + 1)
    let degrades := f.sensor = .good ∧ s.params.invalidLimit ≤ streak
    let evidence := if f.lastTof = some tof ∧ 2 ≤ f.deposits then f.stuck + 1 else 0
    let m := measure k.cfg (s.shape k.cfg.shape) tof temperature
    let E := (fuse k.cfg f m).1
    let F := E * 1000 / k.cfg.capacity
    let r := evaluated f.status f.fullCount F k.cfg.alertLevel k.cfg.fullLevel k.cfg.confirmCount
    { u with containers := s.containers, planner := s.planner, classes := s.classes,
             link := { u.link with notices := s.link.notices } } = s ∧
    (∀ d, d ≠ c → u.container d = s.container d) ∧
    (¬used → u = s.updFill c (fun f => { f with request := request })) ∧
    (used → ¬valid →
      u.container c = { k with fill := { f with
        request := request, streak := streak, sensor := if degrades then .degraded else f.sensor } } ∧
      (degrades → u.told 12 (some c) streak) ∧ (¬degrades → u.classes = s.classes ∧ u.link = s.link) ∧
      u.planner = s.planner) ∧
    (used → valid → 3 ≤ evidence →
      u.container c = { k with fill := { f with
        request := if request = .deferred ∨ request = .pending then .idle else request, stuck := 3, sensor := .failed } } ∧
      u.told 13 (some c) 3 ∧ u.planner = s.planner) ∧
    (used → valid → evidence < 3 →
      u.container c = { k with fill := { f with
        request := request, streak := 0, stuck := evidence, sensor := .good, estimate := some E
        risePending := (fuse k.cfg f m).2, postLift := false, lastTof := some tof, deposits := 0
        countdown := some k.cfg.sampleInterval, status := r.1, fullCount := r.2 } } ∧
      (f.postLift = true → k.cfg.residueLimit < m.perMille → u.told 14 (some c) m.perMille) ∧
      (f.postLift = false ∨ m.perMille ≤ k.cfg.residueLimit → u.noticeClass 14 = s.noticeClass 14) ∧
      s.fillReported u c f.status r.1 F)

/-- SENSOR_CLEAR (R105): one operand byte, and else BAD_LENGTH, an index up to 127; the sensor is GOOD with streak and
evidence 0 and no last valid time of flight, and a request falls due when the sensor was not GOOD and the container is
present. -/
def Obligations.SensorClearMakesTheSensorGood : Prop :=
  ∀ (s : State) (f : Frame) (rest : List Frame) (o : List Byte), s.takes f rest → f.asks 0x12#8 o →
    (o.length ≠ 1 → exec .sensorClear s = .next (s.answered f rest 0x06#8 0x12#8 [])) ∧
    (∀ b : Byte, o = [b] → 127 < b.toNat → exec .sensorClear s = .next (s.answered f rest 0x05#8 0x12#8 [])) ∧
    (∀ b : Byte, o = [b] → b.toNat ≤ 127 →
      let c := b.toNat
      let k := s.container c
      let waits := k.inlet.state = .opened ∨ k.inlet.state = .settling
      let request :=
        if k.cfg.present = true ∧ k.fill.sensor ≠ .good ∧ k.fill.request = .idle then
          (if waits then SampleRequest.deferred else .pending)
        else k.fill.request
      ∃ u, exec .sensorClear s = .next u ∧
        { u with containers := s.containers } = s.answered f rest 0x00#8 0x12#8 [] ∧
        (∀ d, d ≠ c → u.container d = s.container d) ∧
        u.container c =
          { k with fill := { k.fill with sensor := .good, streak := 0, stuck := 0, lastTof := none, request := request } })

/-! ### Inlets and crews (chapters 7, 9) -/

/-- GRANT_WINDOW_EXPIRY, due in RUNNING, ends the grant ABANDONED (R122, R123, R56, R64): the record goes, the inlet is LOCKED
with LOCK CLOSED set, the household's held count goes down by one with its used counts and epoch as they were, a reservation is
released, and no record is written. -/
def Obligations.GrantWindowExpiryAbandonsTheGrant : Prop :=
  ∀ (s : State) (c : Nat) (g : Grant), s.part.phase = .running → (s.container c).inlet.grant = some g → g.windowLeft = 0 →
    let k := s.container c
    ∃ u, exec (.grantWindowExpiry c) s = .next u ∧
      (u.container c).inlet = { k.inlet with
        state := .locked, grant := none
        command := some { action := .lock, window := 0, code := .closed, value := 0, sent := false } } ∧
      (u.container c).cfg = k.cfg ∧
      (u.container c).fill = { k.fill with request :=
        if k.fill.request = .deferred ∧ (k.inlet.state = .opened ∨ k.inlet.state = .settling) then .pending
        else k.fill.request } ∧
      (∀ d, d ≠ c → u.container d = s.container d) ∧
      (∀ h, g.household = some h →
        u.household h = { s.household h with
          held := (s.household h).held.set g.fraction ((s.household h).held.get g.fraction - 1) }) ∧
      (∀ j, g.household ≠ some j → u.household j = s.household j) ∧
      u.journal = { s.journal with reserved := s.journal.reserved - (if g.reserved then 1 else 0) } ∧
      { u with containers := s.containers, households := s.households, journal := s.journal, lineA := s.lineA,
               lineB := s.lineB } = s ∧
      s.turnAsked u c

/-- CONTAINER_BAR and CONTAINER_UNBAR (R126, R108, R109): one operand byte, and else BAD_LENGTH, an index up to 127. A bar
adds CENTER: a LOCKED inlet is BARRED with no command set, the grant of an OPEN one ends LOST and it is BARRED with LOCK
CLOSED set, a BARRED one and one in SERVICE, LIFTING or SETTLING keep their state. An unbar removes CENTER and LIFT_OPEN: a
BARRED inlet whose set becomes empty is LOCKED. The reply carries the inlet state and bar reasons as they stand after. -/
def Obligations.CenterBarsAndUnbars : Prop :=
  ∀ (s : State) (f : Frame) (rest : List Frame) (o : List Byte), s.takes f rest →
    (∀ q ∈ [(0x10#8, Instr.containerBar), (0x11#8, Instr.containerUnbar)], f.asks q.1 o →
      (o.length ≠ 1 → exec q.2 s = .next (s.answered f rest 0x06#8 q.1 [])) ∧
      (∀ b : Byte, o = [b] → 127 < b.toNat → exec q.2 s = .next (s.answered f rest 0x05#8 q.1 []))) ∧
    (∀ b : Byte, f.asks 0x10#8 [b] → b.toNat ≤ 127 →
      let c := b.toNat
      let k := s.container c
      let bars : BarSet := { k.inlet.bars with center := true }
      let r := fun (u : State) => s.answered f rest 0x00#8 0x10#8
        (be 1 c ++ be 1 (u.container c).inlet.state.code ++ be 1 bars.code)
      ∃ u, exec .containerBar s = .next u ∧ (∀ d, d ≠ c → u.container d = s.container d) ∧
        (k.inlet.bars.center = true ∨ k.inlet.state ≠ .opened →
          { u with containers := s.containers } = r u ∧
          u.container c = { k with inlet := { k.inlet with
            bars := bars
            state := if k.inlet.bars.center = false ∧ k.inlet.state = .locked then .barred else k.inlet.state } }) ∧
        (∀ g, k.inlet.bars.center = false → k.inlet.state = .opened → k.inlet.grant = some g →
          { u with containers := s.containers, households := s.households, journal := s.journal, lineA := s.lineA,
                   lineB := s.lineB } = r u ∧
          (u.container c).inlet = { k.inlet with
            bars := bars, state := .barred, grant := none
            command := some { action := .lock, window := 0, code := .closed, value := 0, sent := false } } ∧
          (∀ h, g.household = some h →
            u.household h = { s.household h with
              held := (s.household h).held.set g.fraction ((s.household h).held.get g.fraction - 1) }) ∧
          (∀ j, g.household ≠ some j → u.household j = s.household j) ∧
          u.journal = { s.journal with reserved := s.journal.reserved - (if g.reserved then 1 else 0) } ∧
          s.turnAsked u c)) ∧
    (∀ b : Byte, f.asks 0x11#8 [b] → b.toNat ≤ 127 →
      let c := b.toNat
      let k := s.container c
      let bars : BarSet := { k.inlet.bars with center := false, liftOpen := false }
      let state := if k.inlet.bars ≠ bars ∧ bars = BarSet.empty ∧ k.inlet.state = .barred then .locked else k.inlet.state
      ∃ u, exec .containerUnbar s = .next u ∧ (∀ d, d ≠ c → u.container d = s.container d) ∧
        { u with containers := s.containers } =
          s.answered f rest 0x00#8 0x11#8 (be 1 c ++ be 1 state.code ++ be 1 bars.code) ∧
        ((k.inlet.bars.center = true ∨ k.inlet.bars.liftOpen = true) →
          u.container c = { k with inlet := { k.inlet with bars := bars, state := state } }) ∧
        (k.inlet.bars.center = false → k.inlet.bars.liftOpen = false → u.container c = k))

/-- SERVICE_WINDOW_EXPIRY, LIFT_LIMIT_EXPIRY and SETTLE_TIME_EXPIRY, each due in RUNNING (R154, R159, R161). The service window
ends the service without a lift: the record goes, a reservation is released, the inlet returns to rest with LOCK CLOSED set,
estimate and status stay, and the record's stop in an ACTIVE round is PENDING again, and in a CLOSING one SKIPPED or MISSED
(R146). The lift limit raises LIFT_TIMEOUT, deals with record, reservation and stop in the same way, bars the inlet with LIFT_OPEN,
sets LOCK CLOSED, makes E unknown, and a sample request falls due. The settle time returns the inlet to rest, sets no command, and
a DEFERRED sample request becomes PENDING. Other containers do not change. -/
def Obligations.CrewTimersExpire : Prop :=
  (∀ (s : State) (c : Nat) (v : Service), s.part.phase = .running →
    (s.container c).inlet.service = some v → v.windowLeft = some 0 →
    let k := s.container c
    ∃ u, exec (.serviceWindowExpiry c) s = .next u ∧
      (u.container c).inlet = { k.inlet with
        service := none, state := if k.inlet.bars = BarSet.empty then .locked else .barred
        command := some { action := .lock, window := 0, code := .closed, value := 0, sent := false } } ∧
      (u.container c).fill.estimate = k.fill.estimate ∧ (u.container c).fill.status = k.fill.status ∧
      (u.container c).cfg = k.cfg ∧ (u.container c).forced = k.forced ∧ (∀ d, d ≠ c → u.container d = s.container d) ∧
      u.journal = { s.journal with reserved := s.journal.reserved - (if v.reserved then 1 else 0) } ∧
      s.stopReturned u c v ∧
      { u with containers := s.containers, journal := s.journal, rounds := s.rounds, planner := s.planner,
               classes := s.classes, lineA := s.lineA, lineB := s.lineB,
               link := { u.link with notices := s.link.notices } } = s ∧
      s.turnAsked u c) ∧
  (∀ (s : State) (c : Nat) (v : Service), s.part.phase = .running → (s.container c).inlet.state = .lifting →
    (s.container c).inlet.service = some v → v.limitLeft = some 0 →
    let k := s.container c
    ∃ u, exec (.liftLimitExpiry c) s = .next u ∧
      (u.container c).inlet = { k.inlet with
        service := none, state := .barred, bars := { k.inlet.bars with liftOpen := true }
        command := some { action := .lock, window := 0, code := .closed, value := 0, sent := false } } ∧
      (u.container c).fill = { k.fill with
        estimate := none, risePending := false, status := .unknown, fullCount := 0
        request := if k.cfg.present = true ∧ k.fill.sensor ≠ .failed ∧ k.fill.request = .idle then .pending
          else k.fill.request } ∧
      (u.container c).cfg = k.cfg ∧ (u.container c).forced = k.forced ∧ (∀ d, d ≠ c → u.container d = s.container d) ∧
      (u.noticeClass 16).flag = true ∧ (u.noticeClass 16).last = some { subject := some c, value := 0 } ∧
      u.journal = { s.journal with reserved := s.journal.reserved - (if v.reserved then 1 else 0) } ∧
      s.stopReturned u c v ∧
      { u with containers := s.containers, journal := s.journal, rounds := s.rounds, planner := s.planner,
               classes := s.classes, lineA := s.lineA, lineB := s.lineB,
               link := { u.link with notices := s.link.notices } } = s ∧
      s.turnAsked u c) ∧
  (∀ (s : State) (c : Nat), s.part.phase = .running → (s.container c).inlet.state = .settling →
    (s.container c).inlet.settleLeft = some 0 →
    let k := s.container c
    ∃ u, exec (.settleTimeExpiry c) s = .next u ∧ { u with containers := s.containers } = s ∧
      (∀ d, d ≠ c → u.container d = s.container d) ∧
      u.container c = { k with
        inlet := { k.inlet with
          settleLeft := none, state := if k.inlet.bars = BarSet.empty then .locked else .barred }
        fill := { k.fill with request := if k.fill.request = .deferred then .pending else k.fill.request } })

/-- An expiry, a deadline or a standing release that is not due, or outside RUNNING, has no effect: the model's choice
(log 1). With no command waiting the part idles: the model's choice (log 4). -/
def Obligations.WhatIsNotDueHasNoEffect : Prop :=
  ∀ (s : State) (c : Nat),
    let k := s.container c
    (s.pending = [] → step s = .next s) ∧
    (k.fill.countdown ≠ some 0 ∨ s.part.phase ≠ .running → exec (.sampleCountdownExpiry c) s = .next s) ∧
    (k.fill.request ≠ .outstanding 60 ∨ s.part.phase ≠ .running → exec (.sampleOutstandingExpiry c) s = .next s) ∧
    (k.grantDue = false ∨ s.part.phase ≠ .running → exec (.grantWindowExpiry c) s = .next s) ∧
    (k.serviceDue = false ∨ s.part.phase ≠ .running → exec (.serviceWindowExpiry c) s = .next s) ∧
    (k.liftDue = false ∨ s.part.phase ≠ .running → exec (.liftLimitExpiry c) s = .next s) ∧
    (k.settleDue = false ∨ s.part.phase ≠ .running → exec (.settleTimeExpiry c) s = .next s) ∧
    (s.watch.timeoutLeft ≠ some 0 ∨ s.part.phase ≠ .running → exec .holdTimeout s = .next s) ∧
    (s.planner.tickTodo.head? ≠ some (.check c) ∨ s.part.phase ≠ .running →
      exec (.roundDeadlineReached c) s = .next s) ∧
    (s.planner.tickTodo.head? ≠ some (.standing c) ∨ s.part.phase ≠ .running → exec (.standingRelease c) s = .next s)

/-- A LIFT_BEGUN acted on while the inlet is SERVICE begins an authorized lift (R155): LIFTING, the window stopped, the lift limit
started with 900 s, the record's crew card, round, stop and reservation kept, no command set. In LIFTING it is ignored. At a
container that is not present, or a station that is UNKNOWN, LOST or DISABLED, it is discarded (R112). In LOCKED, OPEN, BARRED or
SETTLING it begins an unauthorized lift (R156): an OPEN inlet's grant is CUT with LOCK CLOSED set, a settle time is stopped, and the
inlet is LIFTING under an unowned record, reserved if there is room and else with JOURNAL_FULL raised, with UNPLANNED_LIFT raised.
LIFT_ENDED (R157, R158, R160): a tipped lift makes its stop DONE, or for a record without one the container's PENDING stop in an
ACTIVE round, writes a LIFT record for a reserved one, removes record and LIFT_OPEN, starts settling with LOCK CLOSED set, makes E
0 under the post-lift check with the status NORMAL and a sample asked for, and clears both marks; a lift that did not tip gives its
stop and its reservation back and leaves fill and marks; a late end at a BARRED inlet with LIFT_OPEN starts settling, sets no
command, and if tipped does the same to stop, fill and marks, with a record of no card where there is room and else JOURNAL_FULL.
Any other LIFT_ENDED is discarded. -/
def Obligations.LiftBeginsInService : Prop :=
  ∀ (s : State) (station c : Nat),
    let k := s.container c
    let gone := k.cfg.present = false ∨ (s.station station).state = .unknown ∨ (s.station station).state = .lost ∨
      (s.station station).state = .disabled
    let record := fun crew : Option Nat =>
      ({ serial := s.journal.serial, kind := .lift, time := s.clock.time, container := c, card := crew, household := none,
         fraction := k.cfg.fraction, period := none, late := false, openMode := s.part.openMode } : JournalRecord)
    let emptied : Fill := { k.fill with
      estimate := some 0, risePending := false, postLift := true, deposits := 0, status := .normal, fullCount := 0
      request := match k.fill.request with
        | .pending => .deferred
        | .idle => if k.live then .deferred else .idle
        | q => q }
    let doneNoPlace := fun u : State => (∀ r i, s.soleStop c (fun _ => True) r i → s.stopDone u r i) ∧
      (s.noStop c (fun _ => True) → u.rounds = s.rounds)
    (gone → s.liftBegun station c = s) ∧
    (k.inlet.state = .lifting → s.liftBegun station c = s) ∧
    (∀ v, ¬gone → k.inlet.state = .service → k.inlet.service = some v →
      let u := s.liftBegun station c
      { u with containers := s.containers } = s ∧ (∀ d, d ≠ c → u.container d = s.container d) ∧
      u.container c = { k with inlet := { k.inlet with
        state := .lifting
        service := some { crew := v.crew, round := v.round, stop := v.stop, reserved := v.reserved, windowLeft := none,
                          limitLeft := some 900 } } }) ∧
    (∀ grant : Option Grant, ¬gone →
      k.inlet.state = .opened ∧ grant.isSome = true ∧ k.inlet.grant = grant ∨
        (k.inlet.state = .locked ∨ k.inlet.state = .barred ∨ k.inlet.state = .settling) ∧ grant = none →
      let u := s.liftBegun station c
      let kept := s.journal.reserved - (if (grant.map Grant.reserved).getD false then 1 else 0)
      let room := decide (s.journal.records.length + kept < 1024)
      { u with containers := s.containers, households := s.households, journal := s.journal, classes := s.classes,
               lineA := s.lineA, lineB := s.lineB, link := { u.link with notices := s.link.notices } } = s ∧
      (∀ d, d ≠ c → u.container d = s.container d) ∧
      u.container c = { k with
        inlet := { k.inlet with
          state := .lifting, settleLeft := none
          grant := if grant.isSome then none else k.inlet.grant
          command := if grant.isSome then some InletCommand.closed else k.inlet.command
          service := some { crew := none, round := none, stop := none, reserved := room, windowLeft := none,
                            limitLeft := some 900 } }
        fill := { k.fill with request :=
          if k.fill.request = .deferred ∧ k.inlet.waits = true then .pending else k.fill.request } } ∧
      (∀ g, grant = some g → s.grantGone u g) ∧ (grant = none → u.households = s.households) ∧
      u.journal = { s.journal with reserved := if room then kept + 1 else kept } ∧
      u.told 15 (some c) 0 ∧ (grant.isSome = true → s.turnAsked u c) ∧
      (grant = none → u.lineA = s.lineA ∧ u.lineB = s.lineB) ∧
      (room = false → u.told 22 (some 1024) c) ∧ (room = true → u.noticeClass 22 = s.noticeClass 22)) ∧
    ∀ tipped : Bool,
      let u := s.liftEnded station c tipped
      let away := { u with containers := s.containers, journal := s.journal, rounds := s.rounds, planner := s.planner,
                           classes := s.classes, lineA := s.lineA, lineB := s.lineB,
                           link := { u.link with notices := s.link.notices } } = s
      let late := k.inlet.state = .barred ∧ k.inlet.bars.liftOpen = true
      let settled : Inlet := { k.inlet with
        state := .settling, settleLeft := some s.params.settleTime, bars := { k.inlet.bars with liftOpen := false } }
      away ∧ (∀ d, d ≠ c → u.container d = s.container d) ∧
      (gone ∨ ¬(k.inlet.state = .lifting ∨ late) → u = s) ∧
      (∀ v, ¬gone → k.inlet.state = .lifting → k.inlet.service = some v →
        (u.container c).inlet = { settled with service := none, command := some InletCommand.closed } ∧
        (u.container c).cfg = k.cfg ∧ s.turnAsked u c ∧
        (tipped = true →
          (u.container c).fill = emptied ∧ (u.container c).forced = false ∧ (u.container c).missed = false ∧
          (v.reserved = true → u.journal = { records := s.journal.records ++ [record v.crew]
                                             serial := (s.journal.serial + 1) % 65536
                                             reserved := s.journal.reserved - 1 }) ∧
          (v.reserved = false → u.journal = s.journal) ∧
          (∀ r i, v.round = some r → v.stop = some i →
            (s.round r).state = .active ∨ (s.round r).state = .closing → s.stopDone u r i) ∧
          (v.round = none → doneNoPlace u)) ∧
        (tipped = false →
          (u.container c).fill = { k.fill with request :=
            if k.fill.request = .pending then .deferred else k.fill.request } ∧
          (u.container c).forced = k.forced ∧ s.stopReturned u c v ∧
          u.journal = { s.journal with reserved := s.journal.reserved - (if v.reserved then 1 else 0) })) ∧
      (¬gone → late →
        (u.container c).inlet = settled ∧ (u.container c).cfg = k.cfg ∧ u.lineA = s.lineA ∧ u.lineB = s.lineB ∧
        (tipped = true →
          (u.container c).fill = emptied ∧ (u.container c).forced = false ∧ (u.container c).missed = false ∧
          doneNoPlace u ∧
          (s.journal.records.length + s.journal.reserved < 1024 → u.noticeClass 22 = s.noticeClass 22 ∧
            u.journal = { s.journal with records := s.journal.records ++ [record none]
                                         serial := (s.journal.serial + 1) % 65536 }) ∧
          (1024 ≤ s.journal.records.length + s.journal.reserved → u.told 22 (some 1024) c ∧ u.journal = s.journal)) ∧
        (tipped = false →
          (u.container c).fill = { k.fill with request :=
            if k.fill.request = .pending then .deferred else k.fill.request } ∧
          (u.container c).forced = k.forced ∧ (u.container c).missed = k.missed ∧ u.rounds = s.rounds ∧
          u.journal = s.journal ∧ u.classes = s.classes))

/-! ### The due list and the rounds (chapter 8) -/

/-- FORCE_DUE (R133, R130): two operand bytes, and else BAD_LENGTH, an index up to 127, an action 0 or 1. The forced mark is
set or cleared, and the container's entry follows: none when it is no member; else its class with the since it had, or now
when it joins; every other entry stays in its order. The reply carries the container, its due class and its place, FFh when
it is not on the list. -/
def Obligations.ForceDueSetsTheMark : Prop :=
  ∀ (s : State) (f : Frame) (rest : List Frame) (o : List Byte), s.takes f rest → f.asks 0x13#8 o →
    (o.length ≠ 2 → exec .forceDue s = .next (s.answered f rest 0x06#8 0x13#8 [])) ∧
    (∀ b a : Byte, o = [b, a] → 127 < b.toNat → exec .forceDue s = .next (s.answered f rest 0x05#8 0x13#8 [])) ∧
    (∀ b a : Byte, o = [b, a] → b.toNat ≤ 127 → 1 < a.toNat →
      exec .forceDue s = .next (s.answered f rest 0x07#8 0x13#8 [])) ∧
    (∀ b a : Byte, o = [b, a] → b.toNat ≤ 127 → a.toNat ≤ 1 →
      let c := b.toNat
      let others := fun (due : List DueEntry) => due.filter (fun e => e.container ≠ c)
      ∃ u data, exec .forceDue s = .next u ∧
        { u with containers := s.containers, planner := s.planner } = s.answered f rest 0x00#8 0x13#8 data ∧
        (∀ d, d ≠ c → u.container d = s.container d) ∧
        u.container c = { s.container c with forced := decide (a.toNat = 1) } ∧
        { u.planner with due := s.planner.due } = s.planner ∧
        others u.planner.due = others s.planner.due ∧
        ((u.container c).dueClass = none →
          (∀ e ∈ u.planner.due, e.container ≠ c) ∧ data = be 1 c ++ [0xFF#8, 0xFF#8]) ∧
        (∀ cls, (u.container c).dueClass = some cls →
          ∃ before e after, u.planner.due = before ++ e :: after ∧ e.container = c ∧ e.cls = cls ∧
            (∀ x ∈ before, x.container ≠ c) ∧ (∀ x ∈ after, x.container ≠ c) ∧
            ((∀ x ∈ s.planner.due, x.container ≠ c) → e.since = s.clock.time) ∧
            (∀ first x tail, s.planner.due = first ++ x :: tail → x.container = c → (∀ y ∈ first, y.container ≠ c) →
              e.since = x.since) ∧
            data = be 1 c ++ be 1 cls.code ++ be 1 (before.length + 1)))

/-- ROUND_DRAFT (R138): three operand bytes, and else BAD_LENGTH, a round up to 3, a fraction 0-5, a round neither ACTIVE nor
CLOSING, and no image save in progress (that BUSY comes first is the model's reading, log 15). The draft collects, in
due-list order and up to the maximum clamped to 1-24, the containers of the fraction whose entry is not assigned; the round's
stops become those, its fraction the one asked for, its state LOADED or FREE. The reply carries round, count and containers.
-/
def Obligations.RoundDraftCollectsTheDueList : Prop :=
  ∀ (s : State) (f : Frame) (rest : List Frame) (o : List Byte), s.takes f rest → f.asks 0x0C#8 o →
    (s.part.saving = true → exec .roundDraft s = .next (s.answered f rest 0x02#8 0x0C#8 [])) ∧
    (s.part.saving = false →
      (o.length ≠ 3 → exec .roundDraft s = .next (s.answered f rest 0x06#8 0x0C#8 [])) ∧
      (∀ r q m : Byte, o = [r, q, m] →
        let d := s.round r.toNat
        (3 < r.toNat → exec .roundDraft s = .next (s.answered f rest 0x05#8 0x0C#8 [])) ∧
        (r.toNat ≤ 3 → 5 < q.toNat → exec .roundDraft s = .next (s.answered f rest 0x07#8 0x0C#8 [])) ∧
        (r.toNat ≤ 3 → q.toNat ≤ 5 → d.state = .active ∨ d.state = .closing →
          exec .roundDraft s = .next (s.answered f rest 0x08#8 0x0C#8 [])) ∧
        (∀ fr : Fraction, fr.code = q.toNat → r.toNat ≤ 3 → d.state ≠ .active → d.state ≠ .closing →
          let maximum := if m.toNat = 0 then 1 else if 24 < m.toNat then 24 else m.toNat
          let cs := ((s.planner.due.map DueEntry.container).filter (fun c =>
            decide (s.assignedRound c = none) && decide ((s.container c).cfg.fraction = fr))).take maximum
          let result := if 1 ≤ m.toNat ∧ m.toNat ≤ 24 then 0x00#8 else 0x01#8
          ∃ u, exec .roundDraft s = .next u ∧
            { u with rounds := s.rounds } = s.answered f rest result 0x0C#8
              ([r] ++ be 1 cs.length ++ cs.flatMap (be 1)) ∧
            (∀ j, j ≠ r.toNat → u.round j = s.round j) ∧
            u.round r.toNat = { d with
              cfg := { d.cfg with fraction := fr }
              stops := cs.map (fun c => { container := c, state := none, origin := .drafted, doneTime := none })
              state := if cs = [] then .free else .loaded
              deadline := none, closing := none }))) ∧
    (∀ c, s.assignedRound c = none ↔ ∀ r, r < 4 → (s.round r).state = .active →
      ∀ p ∈ (s.round r).stops, p.container = c → p.state ≠ some .pending ∧ p.state ≠ some .servicing)

/-- ROUND_RELEASE, ROUND_CLOSE and ROUND_ABORT (R139): one operand byte, and else BAD_LENGTH, a round up to 3; the command
becomes the round's requested command, replacing one not yet taken, whatever the round's state, and the answer is OK. -/
def Obligations.RoundCommandsWaitForTheTick : Prop :=
  ∀ (s : State) (f : Frame) (rest : List Frame) (o : List Byte), s.takes f rest →
    ∀ q ∈ [(0x0D#8, Instr.roundRelease, RoundCommand.release), (0x0E#8, Instr.roundClose, RoundCommand.close),
        (0x0F#8, Instr.roundAbort, RoundCommand.abort)], f.asks q.1 o →
      (o.length ≠ 1 → exec q.2.1 s = .next (s.answered f rest 0x06#8 q.1 [])) ∧
      (∀ r : Byte, o = [r] → 3 < r.toNat → exec q.2.1 s = .next (s.answered f rest 0x05#8 q.1 [])) ∧
      (∀ r : Byte, o = [r] → r.toNat ≤ 3 → ∃ u, exec q.2.1 s = .next u ∧
        { u with rounds := s.rounds } = s.answered f rest 0x00#8 q.1 [] ∧
        (∀ j, j ≠ r.toNat → u.round j = s.round j) ∧
        u.round r.toNat = { s.round r.toNat with requested := some q.2.2 })

/-- ROUND_DEADLINE_REACHED, where the tick waits for it (R145, R144, R134): an ACTIVE round that is not complete and whose deadline
has been reached has every PENDING stop MISSED, the missed mark of its container set and STOP_MISSED raised with container and
round, in list order, so that the last such stop stands in the class; it becomes CLOSING with cause DEADLINE while a stop is
SERVICING, and else CLOSED with ROUND_CLOSED, which stands unless a later round closes in the rest of the tick.
STANDING_RELEASE, where the tick waits for it (R147, R141): a standing round in LOADED or CLOSED with a stop, whose release moment is later than the previous tick time, is released: UNPLANNED
stops go, each stop is PENDING or SKIPPED, the deadline is now plus the deadline length.
A CLOCK_ADVANCE onto a minute, with nothing due and one round alone at work, takes that round's tick (R140): its requested command
is taken and becomes absent. RELEASE in LOADED or CLOSED with a stop (R141) releases it, and one left with no PENDING stop is CLOSED at
once. CLOSE in ACTIVE (R142) makes PENDING stops SKIPPED and the round CLOSING under cause CLOSE while a stop is SERVICING, else
CLOSED. ABORT in ACTIVE or CLOSING (R143) makes open stops SKIPPED, frees their service records of round and stop, and the round is
CLOSED. That an expiry which falls at this advance comes after the tick is the model's choice (log 41). Any other command has no
effect, and then a complete ACTIVE round (R144), or a CLOSING one with no stop SERVICING (R146), is
CLOSED. A round that enters CLOSED raises ROUND_CLOSED with the number of its DONE stops.
A time plus minutes carries whole days into the day number, and one past day 65535, second 86399 is that time (R26). -/
def Obligations.TheTickTakesDeadlinesAndStandingReleases : Prop :=
  (∀ (s : State) (r : Nat) (t : Time), r < 4 → s.part.phase = .running →
    s.planner.tickTodo = tickStages.drop (4 * r + 1) →
    let d := s.round r
    d.state = .active → d.deadline = some t → t.day * 86400 + t.sec ≤ s.clock.time.day * 86400 + s.clock.time.sec →
    t.sec < 86400 → s.clock.time.sec < 86400 → d.stops.any Stop.isOpen = true →
    let busy := d.stops.any Stop.isServicing
    ∃ u, exec (.roundDeadlineReached r) s = .next u ∧
      u.round r = { d with
        stops := d.stops.map (fun p => if p.state = some .pending then { p with state := some .missed } else p)
        state := if busy then .closing else .closed
        closing := if busy then some .deadline else none } ∧
      (∀ p ∈ d.stops, p.state = some .pending → (u.container p.container).missed = true) ∧
      (d.stops.any Stop.isPending = true → (u.noticeClass 18).flag = true) ∧
      (∀ before p after, d.stops = before ++ p :: after → p.state = some .pending → after.any Stop.isPending = false →
        u.told 18 (some p.container) r) ∧
      (d.stops.any Stop.isPending = false → u.noticeClass 18 = s.noticeClass 18) ∧
      (busy = false → (u.noticeClass 17).flag = true) ∧
      ((∀ q, r < q → q < 4 → (s.round q).requested = none ∧
          ((s.round q).state = .active → (s.round q).stops.any Stop.isOpen = true) ∧
          ((s.round q).state = .closing → (s.round q).stops.any Stop.isServicing = true)) →
        (busy = false → u.told 17 (some r) (d.stops.filter (fun p => p.state == some .done)).length) ∧
        (busy = true → u.noticeClass 17 = s.noticeClass 17)) ∧ u.clock = s.clock) ∧
  (∀ (s : State) (r : Nat) (t : Time), r < 4 → s.part.phase = .running →
    s.planner.tickTodo = tickStages.drop (4 * r + 3) →
    let d := s.round r
    d.cfg.standing = true → d.state = .loaded ∨ d.state = .closed → d.stops ≠ [] →
    releaseMoment s.clock.time d.cfg.releaseTime = some t → s.planner.prevTick.before t = true →
    ∃ u, exec (.standingRelease r) s = .next u ∧
      u.round r = { d with
        stops := (d.stops.filter (fun p => p.origin ≠ .unplanned)).map (fun p =>
          let skip := (s.container p.container).cfg.present = false ∨
            (s.container p.container).cfg.fraction ≠ d.cfg.fraction ∨
            ∃ q, q < 4 ∧ q ≠ r ∧ (s.round q).holds p.container Stop.isOpen = true
          { p with state := some (if skip then .skipped else .pending), doneTime := none })
        state := .active
        deadline := some (s.clock.time.plusMinutes d.cfg.deadlineLen)
        closing := none }) ∧
  (∀ (now : Time) (release : Nat),
    (release ≤ now.sec → releaseMoment now release = some { day := now.day, sec := release }) ∧
    (now.sec < release → now.day = 0 → releaseMoment now release = none) ∧
    (now.sec < release → 0 < now.day → releaseMoment now release = some { day := now.day - 1, sec := release })) ∧
  (∀ (t : Time) (minutes : Nat),
    let total := t.day * 86400 + t.sec + minutes * 60
    let u := t.plusMinutes minutes
    (total ≤ 65535 * 86400 + 86399 → u.day * 86400 + u.sec = total ∧ u.sec ≤ 86399) ∧
    (65535 * 86400 + 86399 < total → u = { day := 65535, sec := 86399 })) ∧
  ∀ (s : State) (r : Nat), r < 4 → s.part.phase = .running → s.canonical = true → s.nothingDue → s.clock.pending = none →
    let now := s.clock.time.next
    let d := s.round r
    now.sec % 60 = 0 → now.day ≤ 65535 → 1 ≤ d.cfg.deadlineLen → d.cfg.standing = false →
    (∀ t, d.state = .active → d.deadline = some t → t.reached now = false) →
    (∀ q, q < 4 → q ≠ r → (s.round q).cfg.standing = false ∧ (s.round q).requested = none ∧
      (s.round q).state ≠ .active ∧ (s.round q).state ≠ .closing) →
    ∃ u, exec .clockAdvance s = .next u ∧ u.planner.prevTick = now ∧ u.planner.tickTodo = [] ∧
      (∀ q, q ≠ r → u.round q = s.round q) ∧
      let released := (d.stops.filter (fun p => p.origin ≠ .unplanned)).map (fun p =>
        let skip := (s.container p.container).cfg.present = false ∨
          (s.container p.container).cfg.fraction ≠ d.cfg.fraction ∨
          ∃ q, q < 4 ∧ q ≠ r ∧ (s.round q).holds p.container Stop.isOpen = true
        { p with state := some (if skip then StopState.skipped else .pending), doneTime := none })
      let skipped := fun q : Stop → Bool => d.stops.map (fun p => if q p then { p with state := some .skipped } else p)
      let releases := d.requested = some .release ∧ (d.state = .loaded ∨ d.state = .closed) ∧ d.stops ≠ []
      let closes := d.requested = some .close ∧ d.state = .active
      let aborts := d.requested = some .abort ∧ (d.state = .active ∨ d.state = .closing)
      let closed := fun e : Round => u.round r = { e with state := .closed, requested := none, closing := none } ∧
        u.told 17 (some r) (e.stops.filter (fun p => p.state == some .done)).length
      let stays := fun e : Round => u.round r = { e with requested := none } ∧ u.noticeClass 17 = s.noticeClass 17
      let dated := { d with stops := released, deadline := some (now.plusMinutes d.cfg.deadlineLen) }
      (releases →
        (released.any Stop.isPending = true → stays { dated with state := RoundState.active, closing := none }) ∧
        (released.any Stop.isPending = false → closed dated)) ∧
      (closes →
        (d.stops.any Stop.isServicing = true →
          stays { d with stops := skipped Stop.isPending, state := .closing, closing := some .close }) ∧
        (d.stops.any Stop.isServicing = false → closed { d with stops := skipped Stop.isPending })) ∧
      (aborts → closed { d with stops := skipped Stop.isOpen } ∧
        ∀ c v, (s.container c).inlet.service = some v → v.round = some r →
          ∃ v', (u.container c).inlet.service = some v' ∧ v'.round = none ∧ v'.stop = none ∧ v'.crew = v.crew ∧
            v'.reserved = v.reserved) ∧
      (¬releases → ¬closes → ¬aborts →
        (d.state = .active ∧ d.stops.any Stop.isOpen = false ∨
            d.state = .closing ∧ d.stops.any Stop.isServicing = false → closed d) ∧
        (¬(d.state = .active ∧ d.stops.any Stop.isOpen = false ∨
            d.state = .closing ∧ d.stops.any Stop.isServicing = false) → stays d))

/-! ### The Match Watch (chapter 10) -/

/-- WATCH_SET (R165, 10.1): seven operand bytes, and else BAD_LENGTH; a key kind, an action and a filter of their lists and a
key value in its range; the watch not HELD. The specification is replaced, the capture record emptied, step mark and pass
removed, and the watch OFF or ARMED. -/
def Obligations.WatchSetReplacesTheSpecification : Prop :=
  ∀ (s : State) (f : Frame) (rest : List Frame) (o : List Byte), s.takes f rest → f.asks 0x14#8 o →
    (o.length ≠ 7 → exec .watchSet s = .next (s.answered f rest 0x06#8 0x14#8 [])) ∧
    (∀ k v3 v2 v1 v0 x a : Byte, o = [k, v3, v2, v1, v0, x, a] →
      let v := v3.toNat * 16777216 + v2.toNat * 65536 + v1.toNat * 256 + v0.toNat
      let legal := k.toNat ≤ 3 ∧ a.toNat ≤ 3 ∧ x.toNat ≤ 127 ∧ (k.toNat = 1 → v ≤ 4095) ∧ (k.toNat = 2 → v ≤ 127) ∧
        (k.toNat = 3 → v ≤ 31)
      (¬legal → exec .watchSet s = .next (s.answered f rest 0x07#8 0x14#8 [])) ∧
      (legal → s.watch.state = .held → exec .watchSet s = .next (s.answered f rest 0x08#8 0x14#8 [])) ∧
      (∀ (kind : KeyKind) (action : WatchAction), kind.code = k.toNat → action.code = a.toNat → legal → s.watch.state ≠ .held →
        exec .watchSet s = .next
          ({ s with watch := { s.watch with
              keyKind := kind, keyValue := v, filter := x.setWidth 7, action := action
              state := if action = WatchAction.off then WatchState.off else WatchState.armed
              stepMark := none, pass := none, captured := none, matchCount := 0 } }.answered f rest 0x00#8 0x14#8 [])))

/-- WATCH_RESUME in its three modes, and HOLD_TIMEOUT (R173 to R176). Operand bytes that are not one are refused with
BAD_LENGTH and a mode outside the three with BAD_VALUE, by whichever of the three rows handles the frame (log 14). Outside
HELD a resume is refused with BAD_STATE. In HELD the parked frame is dealt with: passed to its consumer, given a pass,
dropped, or removed with its relay entry, which is answered so also when the entry has left the queue, the model's choice
(log 30), and a malformed item that is passed on counts as acted on, its choice too (log 40); the station is released and the watch ARMED, with the step mark under STEP; then the lines choose. The hold timeout
acts as CONTINUE, makes the action CAPTURE and raises HOLD_TIMEOUT. -/
def Obligations.HoldsEnd : Prop :=
  (∀ (s : State) (f : Frame) (rest : List Frame), s.takes f rest →
    ∀ q ∈ [(0x00#8, Instr.watchResumeContinue), (0x01#8, .watchResumeStep), (0x02#8, .watchResumeDiscard)],
      (∀ o : List Byte, f.asks 0x15#8 o → o.length ≠ 1 → exec q.2 s = .next (s.answered f rest 0x06#8 0x15#8 [])) ∧
      (∀ b : Byte, f.asks 0x15#8 [b] → 2 < b.toNat → exec q.2 s = .next (s.answered f rest 0x07#8 0x15#8 [])) ∧
      (f.asks 0x15#8 [q.1] →
        let mark := fun (i : Nat) => if q.1 = 0x01#8 then some i else none
        let v := { s with link := { s.link with rx := rest }, watch := { s.watch with parked := none } }
        let free := fun (w : State) (i : Nat) => { w with watch := { w.watch with
          state := .armed, held := none, timeoutLeft := none, stepMark := mark i } }
        let done := fun (w : State) (outcome : Byte) => w.kickBoth.answered f rest 0x00#8 0x15#8 [outcome]
        (s.watch.state ≠ .held → exec q.2 s = .next (s.answered f rest 0x08#8 0x15#8 [])) ∧
        (∀ i, s.watch.state = .held → s.watch.held = some i →
          (s.watch.parked = none → exec q.2 s = .next (done (free v i) 0x00#8)) ∧
          (∀ p, s.watch.parked = some p → p.how = .received →
            (q.1 ≠ 0x02#8 → exec q.2 s = .next (done (free (v.passFrame p.station p.frame p.age) i) 0x01#8)) ∧
            (q.1 = 0x02#8 → exec q.2 s = .next (done (free v i) 0x03#8))) ∧
          (∀ p what, s.watch.parked = some p → p.how = .toSend what →
            let pass : Pass := { station := p.station, what := what }
            (q.1 ≠ 0x02#8 ∨ (∀ n, what ≠ .relay n) →
              exec q.2 s = .next (done (free (v.updWatch (fun w => { w with pass := some pass })) i) 0x02#8)) ∧
            (∀ n, q.1 = 0x02#8 → what = .relay n →
              exec q.2 s = .next (done (free (v.updLine (lineOf p.station) (fun d =>
                { d with relay := d.relay.filter (fun e => e.number ≠ n) })) i) 0x04#8)))))) ∧
  (∀ (s : State) (i : Nat), s.part.phase = .running → s.watch.held = some i → s.watch.timeoutLeft = some 0 →
    let v := { s with watch := { s.watch with parked := none } }
    let after := fun (w : State) => ({ w with watch := { w.watch with
      state := .armed, held := none, timeoutLeft := none, stepMark := none,
      action := .capture } }.raise .holdTimeout (some i) 0).kickBoth
    (s.watch.parked = none → exec .holdTimeout s = .next (after v)) ∧
    (∀ p, s.watch.parked = some p → p.how = .received →
      exec .holdTimeout s = .next (after (v.passFrame p.station p.frame p.age))) ∧
    (∀ p what, s.watch.parked = some p → p.how = .toSend what → exec .holdTimeout s = .next
      (after (v.updWatch (fun w => { w with pass := some { station := p.station, what := what } })))))

/-! ### The management endpoint (chapter 11) -/

/-- BACKHAUL_FRAME_RECEIVED, BACKHAUL_TRANSMIT_BEGIN and BACKHAUL_TRANSMIT_DONE (R177, R181, R31). A good frame for 00h or a drop
address joins the receive buffer when it holds fewer than 4; any other frame is discarded. The idle transmitter takes the oldest
reply; else the notice of highest priority, and of those the one appended first; else the oldest relayed frame; a frame being
sent is not interrupted. Done, the transmitter is idle. That a stopped part does none of it (11.5), and that a begin
with nothing waiting has no effect, is the model's choice (log 1). -/
def Obligations.BackhaulReceivesAndSends : Prop :=
  ∀ s : State,
    (∀ bytes f, s.part.phase ≠ .stopped → receive bytes = .good f → s.link.rx.length < 4 →
      f.dst = 0x00#8 ∨ (0x01 ≤ f.dst.toNat ∧ f.dst.toNat ≤ 0x10) ∨ (0x21 ≤ f.dst.toNat ∧ f.dst.toNat ≤ 0x30) →
      exec (.backhaulFrameReceived bytes) s = .next { s with link := { s.link with rx := s.link.rx ++ [f] } }) ∧
    (∀ bytes, s.part.phase = .stopped ∨ 4 ≤ s.link.rx.length ∨ (∀ f, receive bytes ≠ .good f) ∨
        (∃ f, receive bytes = .good f ∧ f.dst ≠ 0x00#8 ∧ ¬(0x01 ≤ f.dst.toNat ∧ f.dst.toNat ≤ 0x10) ∧
          ¬(0x21 ≤ f.dst.toNat ∧ f.dst.toNat ≤ 0x30)) →
      exec (.backhaulFrameReceived bytes) s = .next s) ∧
    (s.part.phase = .stopped ∨ s.link.tx ≠ none → exec .backhaulTransmitBegin s = .next s) ∧
    (s.part.phase ≠ .stopped → s.link.tx = none →
      (∀ f others, s.link.replies = f :: others → exec .backhaulTransmitBegin s =
        .next { s with link := { s.link with replies := others, tx := some { rank := .reply, frame := f } } }) ∧
      (∀ before n after, s.link.replies = [] → s.link.notices = before ++ n :: after →
        (∀ m ∈ before, m.priority < n.priority) → (∀ m ∈ after, m.priority ≤ n.priority) →
        exec .backhaulTransmitBegin s = .next { s with link :=
          { s.link with notices := before ++ after, tx := some { rank := .notice, frame := n.frame } } }) ∧
      (∀ f others, s.link.replies = [] → s.link.notices = [] → s.link.toCenter = f :: others →
        exec .backhaulTransmitBegin s =
          .next { s with link := { s.link with toCenter := others, tx := some { rank := .relay, frame := f } } }) ∧
      (s.link.replies = [] → s.link.notices = [] → s.link.toCenter = [] → exec .backhaulTransmitBegin s = .next s)) ∧
    (s.part.phase ≠ .stopped → exec .backhaulTransmitDone s = .next { s with link := { s.link with tx := none } }) ∧
    (s.part.phase = .stopped → exec .backhaulTransmitDone s = .next s)

/-- A frame of the receive buffer is handled by the row of its request alone, and only while fewer than 4 replies wait and no
start has been asked for (R178, R191); a row finds no effect otherwise (log 1). In LOADING every row but STATUS_READ answers
BUSY. A frame outside the request set is answered BAD_KIND. What a frame asks for: the code of a REQUEST to 00h, and
STATION_CMD to a drop address; anything else is outside the request set. The request code byte of the reply to a frame that
carries none is left open (log 11). -/
def Obligations.EndpointHandlesTheOldestFrame : Prop :=
  (∀ (s : State) (q : Instr × Request), q ∈ requestRows →
    (s.part.phase = .stopped ∨ s.link.rx = [] ∨ 4 ≤ s.link.replies.length ∨ s.part.requested ≠ none ∨
      (∃ f rest, s.link.rx = f :: rest ∧ requestOf f ≠ q.2) → exec q.1 s = .next s) ∧
    (∀ f rest, s.part.phase = .loading → s.link.rx = f :: rest → s.link.replies.length < 4 → s.part.requested = none →
      requestOf f = q.2 →
      ∃ code, exec q.1 s =
          .next (s.replied rest (f.reply (if q.2 = .journalRead then 0x24#8 else 0x22#8) 0x02#8 code [])) ∧
        (∀ c o, f.asks c o → code = c) ∧ (f.dst ≠ 0x00#8 → code = 0x00#8))) ∧
  (∀ (s : State) (f : Frame) (rest : List Frame), s.takes f rest → requestOf f = .unknown →
    ∃ code, exec .unknownRequest s = .next (s.replied rest (f.reply 0x22#8 0x03#8 code [])) ∧
      (∀ c o, f.asks c o → code = c) ∧ (f.dst ≠ 0x00#8 → code = 0x00#8)) ∧
  (∀ (s : State) (f : Frame) (rest : List Frame), s.part.phase = .loading → s.link.rx = f :: rest →
    s.link.replies.length < 4 → s.part.requested = none →
    ∀ q ∈ [(0x00#8, Instr.watchResumeContinue), (0x01#8, .watchResumeStep), (0x02#8, .watchResumeDiscard)],
      f.asks 0x15#8 [q.1] → exec q.2 s = .next (s.answered f rest 0x02#8 0x15#8 [])) ∧
  ∀ f : Frame,
    (f.dst ≠ 0x00#8 → requestOf f = if f.kind = 0x04#8 then .relay else .unknown) ∧
    (f.dst = 0x00#8 → f.kind ≠ 0x21#8 ∨ f.payload = [] → requestOf f = .unknown) ∧
    (∀ code o, f.asks code o → code = 0x00#8 ∨ 0x15 < code.toNat → requestOf f = .unknown) ∧
    (∀ o, ∀ q ∈ requestCodes, f.asks q.1 o → requestOf f = q.2)

/-- A relay frame, a STATION_CMD to a drop address (R180): BAD_STATE when the station is LOST or DISABLED, then QUEUE_FULL when its
line's relay queue holds 8 entries; else an entry with the station, TAG and payload joins that queue and the answer is OK. The
request code byte is 00h. -/
def Obligations.RelayFrameJoinsTheQueue : Prop :=
  ∀ (s : State) (f : Frame) (rest : List Frame) (i : Nat), s.takes f rest → i < 32 → f.dst = stationAddress i →
    f.kind = 0x04#8 →
    let k := s.station i
    let l := lineOf i
    let d := s.line l
    (k.state = .lost ∨ k.state = .disabled → exec .relayStationCmd s = .next (s.answered f rest 0x08#8 0x00#8 [])) ∧
    (k.state ≠ .lost → k.state ≠ .disabled → 8 ≤ d.relay.length →
      exec .relayStationCmd s = .next (s.answered f rest 0x09#8 0x00#8 [])) ∧
    (k.state ≠ .lost → k.state ≠ .disabled → d.relay.length < 8 →
      ∃ u, exec .relayStationCmd s = .next u ∧
        { u with lineA := s.lineA, lineB := s.lineB } = s.answered f rest 0x00#8 0x00#8 [] ∧
        (∀ l', l' ≠ l → u.line l' = s.line l') ∧
        u.line l = { d with
          relay := d.relay ++ [{ number := d.nextEntry, station := i, tag := f.tag, payload := f.payload }]
          nextEntry := d.nextEntry + 1 })

/-- TABLE_WRITE (R182): the checks in their order, with the write indices and image lengths of 11.3 and 11.7; a write of a BANK
record, masked byte by byte, with an unlisted residential code refused (that yes is coded 1 and no 0 is the model's reading, log
10); a write of a NOTICE_CLASS record, its priority clamped to 3 with OK_CLAMPED (that it is clamped is the model's reading, log
32). A refused write changes nothing; the reply of a taken one carries table, index and the image as it stands. That BUSY comes
before the other checks during a save is R182's own order.
Of any table: the masked bytes are merged and clamped, a record with a code outside its list or with a slot over its station's slot
count is refused, and else the record takes them with the effects of what changed, before the lines choose. Those effects: a changed
N or A derives the period number again, with PERIOD_ROLLOVER (R27); a station disabled is DISABLED, off the priority list, out of its
turn and without relay entries, and STATION_DISABLED bars its inlets as R108 gives, and one enabled is UNKNOWN with NOT_SEEN (R15); a
changed shape makes E unknown at the present containers that name it (R83); a container that stays present takes a new interval into
its countdown and loses E by a changed geometry alone (R84, R100), one that is no longer present is barred and loses estimate, flags,
countdown, request and marks (R69, R125, R134), one that becomes present has start values (R69, R91, R125), and a changed fraction or
a cleared present makes its PENDING stops SKIPPED (R134, R137); a round written is PLANNED, LOADED or FREE, with its requested
command kept (R136); a card keeps its last seen (R36), a household its used and held counts and its epoch (R51), and a fraction
record is replaced. -/
def Obligations.TableWriteChecksInOrder : Prop :=
  (∀ (s : State) (f : Frame) (rest : List Frame) (o : List Byte), s.takes f rest → f.asks 0x01#8 o →
    let no := fun (result : Byte) => exec .tableWrite s = .next (s.answered f rest result 0x01#8 [])
    (s.part.saving = true → no 0x02#8) ∧
    (s.part.saving = false →
      (o = [] → no 0x06#8) ∧
      (∀ t more, o = t :: more → 9 < t.toNat → no 0x04#8) ∧
      (∀ t more, o = t :: more → t.toNat ≤ 9 → more.length < 2 → no 0x06#8) ∧
      (∀ q ∈ tableForms, ∀ hi lo more, o = q.code :: hi :: lo :: more →
        let i := hi.toNat * 256 + lo.toNat
        (i < q.first ∨ q.last < i → no 0x05#8) ∧
        (q.first ≤ i → i ≤ q.last → more.length ≠ (q.length + 7) / 8 + q.length → no 0x06#8)) ∧
      (∀ (r : Byte) more, o = 0x08#8 :: 0x00#8 :: r :: more → r.toNat ≤ 3 → more.length = 75 →
        (s.round r.toNat).state = .active ∨ (s.round r.toNat).state = .closing → no 0x08#8) ∧
      (∀ b m residential display : Byte, o = [0x02#8, 0x00#8, b, m, residential, display] → b.toNat ≤ 15 →
        let old := s.bank b.toNat
        let r := if m.getLsbD 7 then residential else if old.residentialOnly then 1#8 else 0#8
        let n := if m.getLsbD 6 then display else BitVec.ofNat 8 old.displayNumber
        (1 < r.toNat → no 0x07#8) ∧
        (r.toNat ≤ 1 → ∃ u, exec .tableWrite s = .next u ∧
          ({ s with banks := u.banks }.answered f rest 0x00#8 0x01#8 [0x02#8, 0x00#8, b, r, n]).onlyChose u ∧
          u.bank b.toNat = { residentialOnly := decide (r.toNat = 1), displayNumber := n.toNat } ∧
          ∀ j, j ≠ b.toNat → u.bank j = s.bank j)) ∧
      (∀ (k m p : Byte) more, o = 0x09#8 :: 0x00#8 :: k :: m :: p :: more → more.length = 5 → 1 ≤ k.toNat → k.toNat ≤ 24 →
        let old := s.noticeClass k.toNat
        let v := if m.getLsbD 7 then p.toNat else old.priority % 256
        ∃ (w u : State) (data : List Byte), exec .tableWrite s = .next u ∧ w.onlyChose u ∧
          { w with classes := s.classes } =
            s.answered f rest (if v ≤ 3 then 0x00#8 else 0x01#8) 0x01#8 ([0x09#8, 0x00#8, k] ++ be 1 (min 3 v) ++ data) ∧
          w.noticeClass k.toNat = { old with priority := min 3 v } ∧
          ∀ j, j ≠ k.toNat → w.noticeClass j = s.noticeClass j) ∧
      (∀ (t : Table) (i : Nat) (mask record : List Byte), o = be 1 t.code ++ be 2 i ++ mask ++ record →
        t.writeRange.1 ≤ i → i ≤ t.writeRange.2 → mask.length = t.maskLength → record.length = t.imageLength →
        ¬(t = .round ∧ ((s.round i).state = .active ∨ (s.round i).state = .closing)) →
        let merged := mergeMasked (s.configBytes t i) record mask
        let bytes := t.clampBytes merged
        (t.parse bytes = none → no 0x07#8) ∧
        (∀ r, t.parse bytes = some r → s.crossOk i r = false → no 0x07#8) ∧
        (∀ r, t.parse bytes = some r → s.crossOk i r = true →
          let v := ({ s with link := { s.link with rx := rest } }.writeRecordOf i r).kickBoth
          exec .tableWrite s = .next (v.answered f rest (if bytes = merged then 0x00#8 else 0x01#8) 0x01#8
            (be 1 t.code ++ be 2 i ++ v.image t i)))))) ∧
  (∀ (s : State) (i : Nat),
    (∀ p, s.crossOk i (.container p) = true ↔ p.present = true → i % 4 + 1 ≤ (s.station (i / 4)).cfg.slotCount) ∧
    (∀ p, s.crossOk i (.station p) = true ↔
      ∀ c ∈ containersOf i, (s.container c).cfg.present = true → c % 4 + 1 ≤ p.slotCount)) ∧
  (∀ (s : State) (p : Params),
    let t := { s with params := p }
    s.writeRecordOf 0 (.parameters p) =
      if p.periodLength = s.params.periodLength ∧ p.anchorDay = s.params.anchorDay ∨ t.period = s.period then t
      else t.raise .periodRollover (some t.period) s.period) ∧
  (∀ (s : State) (i : Nat) (p : StationCfg),
    let k := s.station i
    let u := s.writeRecordOf i (.station p)
    (∀ j, j ≠ i → u.station j = s.station j) ∧ (∀ c, c ∉ containersOf i → u.container c = s.container c) ∧
    (k.cfg.enabled = p.enabled → u = s.updStation i (fun k => { k with cfg := p })) ∧
    (k.cfg.enabled = true → p.enabled = false →
      u.station i = { k with cfg := p, state := .disabled } ∧ u.noticeClass 8 = s.noticeClass 8 ∧
      (∀ l, l ≠ lineOf i → u.line l = s.line l) ∧
      u.line (lineOf i) = { s.line (lineOf i) with
        priority := (s.line (lineOf i)).priority.filter (fun j => j ≠ i)
        relay := (s.line (lineOf i)).relay.filter (fun e => e.station ≠ i)
        turn := (s.line (lineOf i)).turn.filter (fun t => decide (t.station ≠ i)) } ∧
      ∀ c ∈ containersOf i,
        let k' := s.container c
        let bars : BarSet := { k'.inlet.bars with
          stationDisabled := true, stationLost := k'.inlet.bars.stationLost && decide (k.state ≠ .lost) }
        (u.container c).cfg = k'.cfg ∧ (u.container c).forced = k'.forced ∧
        (k'.inlet.bars.stationDisabled = false → (u.container c).inlet = k'.inlet.endedBy bars ∧
          (u.container c).fill = { k'.fillEnded with request := k'.outstandingGone k'.fillEnded.request })) ∧
    (k.cfg.enabled = false → p.enabled = true →
      u.station i = { k with cfg := p, state := .unknown, missCount := 0, seen := false } ∧
      ∀ c ∈ containersOf i,
        let n := (s.container c).inlet
        let bars : BarSet := { n.bars with notSeen := true, stationDisabled := false }
        (u.container c).inlet.bars = bars ∧
        (n.state = .barred → u.container c = { s.container c with inlet := { n with bars := bars } }))) ∧
  (∀ (s : State) (i : Nat) (p : Shape),
    let u := s.writeRecordOf i (.shape p)
    { u with containers := s.containers, planner := s.planner } =
      { s with shapes := Tab.set Shape.blank s.shapes i p } ∧
    ∀ c,
      let k := s.container c
      (s.shape i = p ∨ 128 ≤ c ∨ k.cfg.present = false ∨ k.cfg.shape ≠ i → u.container c = k) ∧
      (s.shape i ≠ p → c < 128 → k.cfg.present = true → k.cfg.shape = i → u.container c = { k with fill := { k.fill with
        estimate := none, risePending := false, status := .unknown, fullCount := 0
        request := if k.live = true ∧ k.fill.request = .idle then (if k.inlet.waits then .deferred else .pending)
          else k.fill.request } })) ∧
  (∀ (s : State) (c : Nat) (p : ContainerCfg), s.rounds.wf Round.blank = true →
    let k := s.container c
    let g := k.cfg
    let u := s.writeRecordOf c (.container p)
    let geometry := g.capacity = p.capacity ∧ g.height = p.height ∧ g.deadZone = p.deadZone ∧ g.shape = p.shape
    let kept := { k.fill with countdown :=
      if g.sampleInterval = p.sampleInterval then k.fill.countdown else k.fill.countdown.map (fun n => min p.sampleInterval n) }
    (∀ d, d ≠ c → u.container d = s.container d) ∧
    (g.present = false → p.present = false → u.container c = { k with cfg := p }) ∧
    (g.present = true → p.present = true → u.container c = { k with
      cfg := p
      fill := if geometry then kept else { kept with
        estimate := none, risePending := false, status := .unknown, fullCount := 0
        request := if k.live = true ∧ k.fill.request = .idle then (if k.inlet.waits then .deferred else .pending)
          else k.fill.request } }) ∧
    (g.present = true → p.present = false → (u.container c).cfg = p ∧
      (k.inlet.bars.notPresent = false → (u.container c).inlet = k.inlet.endedBy { k.inlet.bars with notPresent := true }) ∧
      (u.container c).fill = { k.fill with
        estimate := none, risePending := false, postLift := false, countdown := none, request := .idle
        status := .unknown, fullCount := 0 } ∧
      (u.container c).forced = false ∧ (u.container c).missed = false ∧
      ∀ (v : Service) (r i : Nat) (q : Stop), k.inlet.bars.notPresent = false → k.inlet.working = true → k.inlet.service = some v → v.round = some r →
        v.stop = some i → (s.round r).state = .active ∨ (s.round r).state = .closing → (s.round r).stops[i]? = some q →
        (u.round r).stops[i]? = some { q with state := some .skipped }) ∧
    (g.present = false → p.present = true →
      let bars : BarSet := { k.inlet.bars with notPresent := false }
      u.container c = { k with
        cfg := p
        fill := Fill.start (some (c % 8 + 1))
        inlet := { k.inlet with
          lastDrum := none, unattributed := 0, bars := bars
          state := if k.inlet.bars.notPresent = true ∧ bars = BarSet.empty ∧ k.inlet.state = .barred then .locked
            else k.inlet.state } }) ∧
    (g.fraction ≠ p.fraction ∨ g.present = true ∧ p.present = false → ∀ (r j : Nat) (q : Stop), (s.round r).stops[j]? = some q →
      q.container = c → q.state = some .pending → (u.round r).stops[j]? = some { q with state := some .skipped }) ∧
    (g.fraction = p.fraction → (g.present = true → p.present = true) → u.rounds = s.rounds)) ∧
  (∀ (s : State) (i : Nat) (p : CardCfg),
    let u := s.writeRecordOf i (.card p)
    { u with cards := s.cards } = s ∧ u.card i = { cfg := p, lastSeen := (s.card i).lastSeen } ∧
    ∀ j, j ≠ i → u.card j = s.card j) ∧
  (∀ (s : State) (h : Nat) (p : HouseholdCfg),
    let r := s.household h
    let u := s.writeRecordOf h (.household p)
    { u with households := s.households } = s ∧
    u.household h = { cfg := p, used := r.used, epoch := r.epoch, held := r.held } ∧
    ∀ j, j ≠ h → u.household j = s.household j) ∧
  (∀ (s : State) (f : Fraction) (p : FractionRec),
    let u := s.writeRecordOf f.code (.fraction p)
    { u with fractions := s.fractions } = s ∧ u.fraction f = p ∧ ∀ g, g ≠ f → u.fraction g = s.fraction g) ∧
  ∀ (s : State) (r : Nat) (p : RoundCfg) (cs : List Nat),
    let u := s.writeRecordOf r (.round p cs)
    { u with rounds := s.rounds } = s ∧ (∀ q, q ≠ r → u.round q = s.round q) ∧
    u.round r = { cfg := p
                  stops := cs.map (fun c => { container := c, state := none, origin := .planned, doneTime := none })
                  state := if cs = [] then .free else .loaded
                  requested := (s.round r).requested, deadline := none, closing := none }

/-- TABLE_READ (R183): an unknown table is refused, then an index outside the read indices, then operand bytes that do not
match; else n whole images from the first index on, n being the count clamped by the last index and by the images that fit in
106 bytes, with OK_CLAMPED when n is less than the count. It changes nothing. STATUS_READ (R184, 11.7), in LOADING as well as
in RUNNING: with operand bytes BAD_LENGTH, else OK with 110 data bytes, among them the flags, the cause and image state of
the start, the district time, the quota period number, the journal figures, the frames left in the receive buffer and the
replies waiting, and the state and health flags of each station. It changes nothing. The record image of every table,
configuration and runtime positions, and the STATUS_READ data have the layouts of 11.7. The bytes of an absent field to which
11.7 gives no value are left open (log 9). The model's readings there are yes as 1 and no as 0 (log 10), FFh for an absent
command or cause and FFFFh for a window or limit that does not run (log 22), and 0000h for a subject of none (log 26).
Enumerations are coded by their position in their list. -/
def Obligations.ReadsReportAndChangeNothing : Prop :=
  (∀ (s : State) (f : Frame) (rest : List Frame) (o : List Byte), s.takes f rest → f.asks 0x02#8 o →
      let no := fun (result : Byte) => exec .tableRead s = .next (s.answered f rest result 0x02#8 [])
      (o = [] → no 0x06#8) ∧
      (∀ t more, o = t :: more → 9 < t.toNat → no 0x04#8) ∧
      (∀ t more, o = t :: more → t.toNat ≤ 9 → more.length < 2 → no 0x06#8) ∧
      (∀ q ∈ tableForms, ∀ hi lo more, o = q.code :: hi :: lo :: more →
        let i := hi.toNat * 256 + lo.toNat
        let first := if q.code = 0x06#8 then 0 else q.first
        let last := if q.code = 0x08#8 then 11 else q.last
        (i < first ∨ last < i → no 0x05#8) ∧
        (first ≤ i → i ≤ last → more.length ≠ 1 → no 0x06#8) ∧
        (∀ (t : Table) (count : Byte), t.code = q.code.toNat → more = [count] → first ≤ i → i ≤ last →
          let n := min (min count.toNat (last + 1 - i)) (106 / q.length)
          exec .tableRead s = .next (s.answered f rest (if n < count.toNat then 0x01#8 else 0x00#8) 0x02#8
            ([q.code, hi, lo] ++ be 1 n ++ (List.range n).flatMap (fun k => s.image t (i + k))))))) ∧
  (∀ (s : State) (t : Table) (i : Nat), spells (s.image t i) (s.layout t i)) ∧
  codesFollowTheLists ∧
  ∀ (s : State) (f : Frame) (rest : List Frame) (o : List Byte), s.part.phase ≠ .stopped → s.link.rx = f :: rest →
    s.link.replies.length < 4 → s.part.requested = none → f.asks 0x08#8 o →
    (o ≠ [] → exec .statusRead s = .next (s.answered f rest 0x06#8 0x08#8 [])) ∧
    (o = [] → ∃ data, exec .statusRead s = .next (s.answered f rest 0x00#8 0x08#8 data) ∧ data.length = 110 ∧
      spells data ({ s with link := { s.link with rx := rest } } : State).statusLayout ∧
      (∀ flags : Byte, data.head? = some flags →
        flags.getLsbD 0 = decide (s.part.phase = .running) ∧ flags.getLsbD 1 = s.part.openMode ∧
        flags.getLsbD 2 = decide (s.part.kind = .warm) ∧ flags.getLsbD 3 = s.part.saving ∧
        flags.getLsbD 4 = s.clock.set ∧ flags.getLsbD 5 = s.clock.pending.isSome ∧
        flags.getLsbD 6 = decide (s.journal.records ≠ []) ∧ flags.getLsbD 7 = s.watch.captured.isSome) ∧
      (data.drop 1).take 2 = be 1 s.part.cause.code ++ be 1 s.part.image.code ∧
      (data.drop 3).take 5 = be 2 s.clock.time.day ++ be 3 s.clock.time.sec ∧
      (data.drop 13).take 2 = be 2 s.period ∧
      (data.drop 15).take 4 = be 2 s.journal.records.length ++ be 2 s.journal.reserved ∧
      (data.drop 21).take 2 = be 2 s.journal.serial ∧
      (data.drop 24).take 1 = be 1 (16 * rest.length + s.link.replies.length) ∧
      ∀ i, i < 32 → (data.drop (28 + i)).take 1 =
        be 1 ((s.station i).state.code + 16 * (s.station i).health.code))

/-- IMAGE_SAVE, TABLES_CLEAR, RESTART and IMAGE_SAVE_COMPLETE (R185, R186, R191): during a save the first two are answered
BUSY (that this comes before BAD_LENGTH is the model's reading, log 15) and a RESTART abandons it; with operand bytes each is
refused with BAD_LENGTH. A save that succeeds leaves the stored image and raises IMAGE_SAVED; one that fails leaves an image
that is not VALID and raises IMAGE_SAVE_FAILED. The stored image is 50676 bytes, with its header, its CRC-32 over header and
body last, and is judged VALID, and a flash with nothing written BLANK, since its bytes are FFh by the model's choice (log
6). An IMAGE_SAVE_COMPLETE without a save, or outside RUNNING, has no effect, the model's choice (log 1). -/
def Obligations.ImageIsSavedAndJudged : Prop :=
  (∀ (s : State) (f : Frame) (rest : List Frame) (o : List Byte), s.takes f rest →
    (∀ q ∈ [(0x09#8, Instr.imageSave), (0x0A#8, .tablesClear)], f.asks q.1 o →
      (s.part.saving = true → exec q.2 s = .next (s.answered f rest 0x02#8 q.1 [])) ∧
      (s.part.saving = false → o ≠ [] → exec q.2 s = .next (s.answered f rest 0x06#8 q.1 []))) ∧
    (f.asks 0x09#8 [] → s.part.saving = false →
      exec .imageSave s = .next ({ s with part := { s.part with saving := true } }.answered f rest 0x00#8 0x09#8 [])) ∧
    (f.asks 0x0A#8 [] → s.part.saving = false → exec .tablesClear s =
      .next ({ s with part := { s.part with requested := some .tablesClear } }.answered f rest 0x00#8 0x0A#8 [])) ∧
    (f.asks 0x0B#8 o → o ≠ [] → exec .restart s = .next (s.answered f rest 0x06#8 0x0B#8 [])) ∧
    (f.asks 0x0B#8 [] → ∃ u, exec .restart s = .next u ∧ (s.part.saving = false → u.flash = s.flash) ∧
      { u with flash := s.flash, draws := s.draws } =
        { s with part := { s.part with requested := some .restart, saving := false } }.answered f rest 0x00#8 0x0B#8 [])) ∧
  (∀ (s : State) (success : Bool),
    (s.part.phase ≠ .running ∨ s.part.saving = false → exec (.imageSaveComplete success) s = .next s) ∧
    (s.part.phase = .running → s.part.saving = true →
      (∃ u, exec (.imageSaveComplete true) s = .next u ∧ u.flash = Memory.ofBytes 0 s.storedImage ∧
        u.part = { s.part with saving := false } ∧ (u.noticeClass 3).flag = true ∧
        (u.noticeClass 3).last = some { subject := none, value := 0 } ∧ ∀ n, n ≠ 3 → u.noticeClass n = s.noticeClass n) ∧
      ∃ u, exec (.imageSaveComplete false) s = .next u ∧ judge true u.flash ≠ .valid ∧
        u.part = { s.part with saving := false } ∧ (u.noticeClass 4).flag = true ∧
        (u.noticeClass 4).last = some { subject := none, value := 0 } ∧ ∀ n, n ≠ 4 → u.noticeClass n = s.noticeClass n)) ∧
  ∀ s : State,
    s.storedImage.length = 50676 ∧
    s.storedImage.take 6 = [0x00#8, 0x01#8, 0x00#8, 0x00#8, 0xC5#8, 0xEA#8] ∧
    s.storedImage.drop 50672 = be 4 (crc32 (s.storedImage.take 50672)).toNat ∧
    judge true (Memory.ofBytes 0 s.storedImage) = .valid ∧
    judge false (Memory.ofBytes 0 s.storedImage) = .corrupt ∧ judge true [] = .blank

/-! ### Supplies and starts (11.5) -/

/-- The supplies and the RESET pin (R187, R188, R191, R21, R24): main power with the marker present, or the pin released,
makes a warm start, and with the marker missing a cold one (that a pin's release then counts as cause power is the model's
reading, log 13); the loss of main power, or the pin asserted, stops the part, its lines idle and a pending time dropped,
with journal and households kept; the marker is lost when both supplies are absent. A requested start is made once no reply
waits or is being sent. A start whose image judges VALID takes every table's configuration from it: that of a legal
configuration gives that configuration back, a round's UNPLANNED stops and card record 0 apart (R185, R188, R50). That the
backup supply is the level sampled at MAIN_POWER_UP is the model's choice (log 12). Without its condition each has no effect
(log 1). -/
def Obligations.SuppliesAndRequestsMakeStarts : Prop :=
  ∀ (s : State) (levels : StartLevels), s.canonical = true →
    (s.power.main = true → exec (.mainPowerUp levels) s = .next s) ∧
    (s.power.main = false →
      let power := { s.power with main := true, backup := levels.backupPresent }
      (s.power.resetAsserted = true → exec (.mainPowerUp levels) s = .next { s with power := power }) ∧
      (s.power.resetAsserted = false → s.power.marker = true → ∃ u, exec (.mainPowerUp levels) s = .next u ∧
        s.loadingFrom u .warm .power levels ∧ u.power = power) ∧
      (s.power.resetAsserted = false → s.power.marker = false → ∃ u, exec (.mainPowerUp levels) s = .next u ∧
        s.loadingFrom u .cold .power levels ∧ u.power = { power with marker := true })) ∧
    (s.power.resetAsserted = false → exec (.resetPinReleased levels) s = .next s) ∧
    (s.power.resetAsserted = true →
      (s.power.main = false →
        exec (.resetPinReleased levels) s = .next { s with power := { s.power with resetAsserted := false } }) ∧
      (s.power.main = true → s.power.marker = true → ∃ u, exec (.resetPinReleased levels) s = .next u ∧
        s.loadingFrom u .warm .resetPin levels) ∧
      (s.power.main = true → s.power.marker = false → ∃ u, exec (.resetPinReleased levels) s = .next u ∧
        s.loadingFrom u .cold .power levels)) ∧
    (s.power.main = false → exec .mainPowerLost s = .next s) ∧
    (s.power.main = true → ∃ u, exec .mainPowerLost s = .next u ∧ u.part.phase = .stopped ∧
      u.power = { s.power with main := false, marker := s.power.marker && s.power.backup } ∧
      u.lineA.turn = none ∧ u.lineB.turn = none ∧ u.clock = { s.clock with pending := none } ∧ u.journal = s.journal ∧
      u.households = s.households ∧ u.part.requested = none ∧ (s.part.saving = false → u.flash = s.flash)) ∧
    (∃ u, exec .resetPinAsserted s = .next u ∧ u.part.phase = .stopped ∧
      u.power = { s.power with resetAsserted := true } ∧
      u.lineA.turn = none ∧ u.lineB.turn = none ∧ u.clock = { s.clock with pending := none } ∧ u.journal = s.journal ∧
      u.households = s.households ∧ u.part.requested = none ∧ (s.part.saving = false → u.flash = s.flash)) ∧
    exec .backupSupplyLost s =
      .next { s with power := { s.power with backup := false, marker := s.power.marker && s.power.main } } ∧
    (s.part.requested = none ∨ s.part.phase ≠ .running ∨ s.link.replies ≠ [] ∨
        (∃ t, s.link.tx = some t ∧ t.rank = .reply) → exec (.requestedStart levels) s = .next s) ∧
    (∀ cause, s.part.requested = some cause → s.part.phase = .running → s.link.replies = [] →
      (∀ t, s.link.tx = some t → t.rank ≠ .reply) →
      ∃ u, exec (.requestedStart levels) s = .next u ∧ s.loadingFrom u .warm cause levels)

/-- ENTER_RUNNING in LOADING (R189, R190, and the start values of R12, R28, R69, R91, R107, R129, R135, R147, R164): open mode stands
when the strap was in force and the image was not VALID; RESTARTED is raised with the cause as subject and 0 for a cold start
or 1 for a warm one, then IMAGE_FAULT for a CORRUPT image; then the lines choose their first turns. Outside LOADING it has no
effect (log 1). -/
def Obligations.EnterRunningTakesStartValues : Prop :=
  ∀ s : State, s.canonical = true →
    (s.part.phase ≠ .loading → exec .enterRunning s = .next s) ∧
    (s.part.phase = .loading → ∃ w u : State, exec .enterRunning s = .next u ∧ w.onlyChose u ∧
      w.part = { s.part with phase := .running, openMode := s.part.strap && decide (s.part.image ≠ .valid) } ∧
      (∀ i, i < 32 → w.station i =
        { cfg := (s.station i).cfg, state := if (s.station i).cfg.enabled then .unknown else .disabled, missCount := 0,
          seen := false, lastItem := none, acceptOwed := false, health := Health.clear }) ∧
      (∀ c, c < 128 →
        let cfg := (s.container c).cfg
        (w.container c).cfg = cfg ∧
        (w.container c).inlet =
          { state := .barred
            bars := { center := false, stationLost := false, liftOpen := false, notSeen := true,
                      stationDisabled := !(s.station (stationOf c)).cfg.enabled, notPresent := !cfg.present }
            grant := none, service := none, command := none, lastDrum := none, unattributed := 0, settleLeft := none } ∧
        (w.container c).fill =
          { estimate := none, risePending := false, postLift := false, lastTof := none, deposits := 0
            countdown := if cfg.present then some (c % 8 + 1) else none
            request := .idle, status := .unknown, fullCount := 0, sensor := .good, streak := 0, stuck := 0 } ∧
        (w.container c).forced = false ∧ (w.container c).missed = false) ∧
      w.planner.due = [] ∧ w.planner.prevTick = s.clock.time ∧
      (∀ r, r < 4 → (w.round r).cfg = (s.round r).cfg ∧ (w.round r).requested = none ∧ (w.round r).deadline = none ∧
        (w.round r).closing = none ∧ (w.round r).state = (if (w.round r).stops = [] then .free else .loaded) ∧
        (w.round r).stops = ((s.round r).stops.filter (fun p => p.origin ≠ .unplanned)).map (fun p =>
          { container := p.container, state := none, origin := .planned, doneTime := none })) ∧
      w.watch = Watch.start ∧ w.clock = s.clock ∧ w.flash = s.flash ∧ w.journal = { s.journal with reserved := 0 } ∧
      (∀ h, w.household h = { s.household h with held := PerFraction.zero }) ∧
      (∀ i, w.card i = { s.card i with lastSeen := none }) ∧
      (w.noticeClass 1).flag = true ∧
      (w.noticeClass 1).last =
        some { subject := some s.part.cause.code, value := if s.part.kind = .warm then 1 else 0 } ∧
      (w.noticeClass 2).flag = decide (s.part.image = .corrupt) ∧
      (w.noticeClass 2).last = (if s.part.image = .corrupt then some { subject := none, value := 0 } else none) ∧
      ∀ n, 2 < n → w.noticeClass n =
        { priority := (s.noticeClass n).priority, flag := false, overrun := false, last := none })
end

