-- ==== Sys2Proof/Laws/Tab.lean ====
section
/-! SUPPORT. What reading a sparse table gives after each operation on it, and that each keeps the canonical form. -/

namespace Sys2Proof.Machine

variable {α : Type} [DecidableEq α]

theorem Tab.find_eq_none_of_wfFrom {d : α} {l : List (Nat × α)} {lo k : Nat} (h : Tab.wfFrom d lo l = true)
    (hk : k < lo) : Tab.find l k = none := by
  induction l generalizing lo with
  | nil => rfl
  | cons e rest ih =>
    obtain ⟨j, w⟩ := e
    simp only [Tab.wfFrom, Bool.and_eq_true, decide_eq_true_eq] at h
    have : j ≠ k := by omega
    simp only [Tab.find, this, if_false]
    exact ih h.2 (by omega)

theorem Tab.wfFrom_mono {d : α} {l : List (Nat × α)} {lo lo' : Nat} (h : Tab.wfFrom d lo l = true) (hl : lo' ≤ lo) :
    Tab.wfFrom d lo' l = true := by
  cases l with
  | nil => rfl
  | cons e rest =>
    obtain ⟨j, w⟩ := e
    simp only [Tab.wfFrom, Bool.and_eq_true, decide_eq_true_eq] at h ⊢
    exact ⟨⟨by omega, h.1.2⟩, h.2⟩

theorem Tab.wfFrom_without {d : α} {l : List (Nat × α)} {lo k : Nat} (h : Tab.wfFrom d lo l = true) :
    Tab.wfFrom d lo (Tab.without l k) = true := by
  induction l generalizing lo with
  | nil => rfl
  | cons e rest ih =>
    obtain ⟨j, w⟩ := e
    simp only [Tab.wfFrom, Bool.and_eq_true, decide_eq_true_eq] at h
    simp only [Tab.without]
    split_ifs with hj
    · exact Tab.wfFrom_mono (ih h.2) (by omega)
    · simp only [Tab.wfFrom, Bool.and_eq_true, decide_eq_true_eq]
      exact ⟨h.1, ih h.2⟩

theorem Tab.wfFrom_insert {d : α} {l : List (Nat × α)} {lo k : Nat} {v : α} (h : Tab.wfFrom d lo l = true)
    (hk : lo ≤ k) (hv : v ≠ d) (hn : Tab.find l k = none) : Tab.wfFrom d lo (Tab.insert l k v) = true := by
  induction l generalizing lo with
  | nil => simp [Tab.insert, Tab.wfFrom, hv, hk]
  | cons e rest ih =>
    obtain ⟨j, w⟩ := e
    simp only [Tab.wfFrom, Bool.and_eq_true, decide_eq_true_eq] at h
    simp only [Tab.insert]
    simp only [Tab.find] at hn
    split_ifs at hn with hj
    split_ifs with h1
    · simp [Tab.wfFrom, hk, hv, h.1.2, h.2]; omega
    · simp only [Tab.wfFrom, Bool.and_eq_true, decide_eq_true_eq]
      exact ⟨h.1, ih h.2 (by omega) hn⟩

omit [DecidableEq α] in
theorem Tab.find_without {l : List (Nat × α)} {k m : Nat} :
    Tab.find (Tab.without l k) m = if m = k then none else Tab.find l m := by
  induction l with
  | nil => simp [Tab.without, Tab.find]
  | cons e rest ih =>
    obtain ⟨j, w⟩ := e
    simp only [Tab.without]
    by_cases hj : j = k
    · subst hj
      rw [if_pos rfl, ih]
      by_cases hm : m = j
      · simp [hm]
      · simp [Tab.find, hm, Ne.symm hm]
    · rw [if_neg hj]
      simp only [Tab.find]
      by_cases hm : j = m
      · subst hm; simp [hj]
      · simp [hm, ih]

omit [DecidableEq α] in
theorem Tab.find_insert {l : List (Nat × α)} {k m : Nat} {v : α} (hn : Tab.find l k = none) :
    Tab.find (Tab.insert l k v) m = if m = k then some v else Tab.find l m := by
  induction l with
  | nil => by_cases hm : m = k <;> simp [Tab.insert, Tab.find, hm, Ne.symm]
  | cons e rest ih =>
    obtain ⟨j, w⟩ := e
    simp only [Tab.find] at hn
    split_ifs at hn with hj
    simp only [Tab.insert]
    split_ifs with h1 hm hm
    · simp [Tab.find, hm]
    · simp [Tab.find, Ne.symm hm]
    · subst hm; simp [Tab.find, hj, ih hn]
    · simp [Tab.find, ih hn, hm]

/-- Writing a record keeps the canonical form. -/
theorem Tab.wf_set {d : α} {t : Tab α} {k : Nat} {v : α} (h : t.wf d = true) : (t.set d k v).wf d = true := by
  unfold Tab.wf Tab.set
  split_ifs with hv
  · exact Tab.wfFrom_without h
  · exact Tab.wfFrom_insert (Tab.wfFrom_without h) (Nat.zero_le k) hv (by simp [Tab.find_without])

/-- What any index reads after a write, in any table. -/
theorem Tab.get_set {d : α} {t : Tab α} {k m : Nat} {v : α} :
    (t.set d k v).get d m = if m = k then v else t.get d m := by
  unfold Tab.get Tab.set
  split_ifs with hv hm hm
  · simp [Tab.find_without, hm, hv]
  · simp [Tab.find_without, hm]
  · simp [Tab.find_insert, Tab.find_without, hm]
  · simp [Tab.find_insert, Tab.find_without, hm]

/-- The record just written is read back. -/
@[simp] theorem Tab.get_set_same {d : α} {t : Tab α} {k : Nat} {v : α} : (t.set d k v).get d k = v := by
  simp [Tab.get_set]

/-- Writing a record changes no other. -/
theorem Tab.get_set_other {d : α} {t : Tab α} {k m : Nat} {v : α} (hm : m ≠ k) :
    (t.set d k v).get d m = t.get d m := by
  simp [Tab.get_set, hm]

theorem Tab.wfFrom_mapList {d : α} {f : Nat → α → α} {l : List (Nat × α)} {lo : Nat} (h : Tab.wfFrom d lo l = true) :
    Tab.wfFrom d lo (Tab.mapList d f l) = true := by
  induction l generalizing lo with
  | nil => rfl
  | cons e rest ih =>
    obtain ⟨j, w⟩ := e
    simp only [Tab.wfFrom, Bool.and_eq_true, decide_eq_true_eq] at h
    simp only [Tab.mapList]
    split_ifs with hv
    · exact Tab.wfFrom_mono (ih h.2) (by omega)
    · simp only [Tab.wfFrom, Bool.and_eq_true, decide_eq_true_eq]
      exact ⟨⟨h.1.1, hv⟩, ih h.2⟩

/-- Mapping the records keeps the canonical form. -/
theorem Tab.wf_map {d : α} {f : Nat → α → α} {t : Tab α} (h : t.wf d = true) : (t.map d f).wf d = true :=
  Tab.wfFrom_mapList h

theorem Tab.wfFrom_keep {d : α} {f : Nat → α} {n lo : Nat} :
    Tab.wfFrom d lo (Tab.keep d f (List.range' lo n)) = true := by
  induction n generalizing lo with
  | zero => rfl
  | succ n ih =>
    simp only [List.range'_succ, Tab.keep]
    split_ifs with hv
    · exact Tab.wfFrom_mono ih (by omega)
    · simp only [Tab.wfFrom, Bool.and_eq_true, decide_eq_true_eq]
      exact ⟨⟨le_refl _, hv⟩, ih⟩

/-- A table of given records is in canonical form. -/
theorem Tab.wf_ofFn {d : α} {n : Nat} {f : Nat → α} : (Tab.ofFn d n f).wf d = true := by
  unfold Tab.wf Tab.ofFn
  rw [List.range_eq_range']
  exact Tab.wfFrom_keep

/-- The empty table is in canonical form. -/
theorem Tab.wf_empty {d : α} : ({ entries := [] } : Tab α).wf d = true := rfl

/-- What any index reads after a mapping that leaves the unlisted record as it is. -/
theorem Tab.get_map {d : α} {f : Nat → α → α} {t : Tab α} {m : Nat} (hd : f m d = d) (h : t.wf d = true) :
    (t.map d f).get d m = f m (t.get d m) := by
  unfold Tab.get Tab.map Tab.wf at *
  generalize t.entries = l at *
  generalize 0 = lo at h
  induction l generalizing lo with
  | nil => simp [Tab.find, Tab.mapList, hd]
  | cons e rest ih =>
    obtain ⟨j, w⟩ := e
    simp only [Tab.wfFrom, Bool.and_eq_true, decide_eq_true_eq] at h
    simp only [Tab.mapList]
    by_cases hj : j = m
    · subst hj
      split_ifs with hv
      · rw [Tab.find_eq_none_of_wfFrom (Tab.wfFrom_mapList h.2) (by omega)]; simp [Tab.find, hv]
      · simp [Tab.find]
    · split_ifs with hv
      · simp only [Tab.find, hj, if_false]; exact ih _ h.2
      · simp only [Tab.find, hj, if_false]; exact ih _ h.2

/-- What any index reads of a table of given records. -/
theorem Tab.get_ofFn {d : α} {n m : Nat} {f : Nat → α} : (Tab.ofFn d n f).get d m = if m < n then f m else d := by
  have key : ∀ (n lo : Nat), (Tab.find (Tab.keep d f (List.range' lo n)) m).getD d =
      if lo ≤ m ∧ m < lo + n then f m else d := by
    intro n
    induction n with
    | zero => intro lo; simp [Tab.keep, Tab.find]
    | succ n ih =>
      intro lo
      simp only [List.range'_succ, Tab.keep]
      by_cases hm : lo = m
      · subst hm
        split_ifs with hv
        · rw [ih]; simp [hv]
        · rw [ih]; simp
        · simp [Tab.find]
        · omega
      · split_ifs with hv h2 h2
        · rw [ih]; simp; omega
        · rw [ih]; simp; omega
        · simp only [Tab.find, hm, if_false]; rw [ih]; simp; omega
        · simp only [Tab.find, hm, if_false]; rw [ih]; simp; omega
  unfold Tab.get Tab.ofFn
  rw [List.range_eq_range']
  simpa using key n 0

end Sys2Proof.Machine
end

