-- ==== Sys2Proof/Laws/State.lean ====
section
/-! SUPPORT. What every field of the state reads after each named update: one lemma per field per update. -/

namespace Sys2Proof.Machine

namespace State

variable (s : State)

/-! ### updContainer -/

@[simp] theorem updContainer_power (c : Nat) (f : Container → Container) : (s.updContainer c f).power = s.power := rfl

@[simp] theorem updContainer_part (c : Nat) (f : Container → Container) : (s.updContainer c f).part = s.part := rfl

@[simp] theorem updContainer_clock (c : Nat) (f : Container → Container) : (s.updContainer c f).clock = s.clock := rfl

@[simp] theorem updContainer_classes (c : Nat) (f : Container → Container) : (s.updContainer c f).classes = s.classes :=
  rfl

@[simp] theorem updContainer_link (c : Nat) (f : Container → Container) : (s.updContainer c f).link = s.link := rfl

@[simp] theorem updContainer_lineA (c : Nat) (f : Container → Container) : (s.updContainer c f).lineA = s.lineA := rfl

@[simp] theorem updContainer_lineB (c : Nat) (f : Container → Container) : (s.updContainer c f).lineB = s.lineB := rfl

@[simp] theorem updContainer_params (c : Nat) (f : Container → Container) : (s.updContainer c f).params = s.params :=
  rfl

@[simp] theorem updContainer_stations (c : Nat) (f : Container → Container) : (s.updContainer c f).stations = s.stations :=
  rfl

@[simp] theorem updContainer_banks (c : Nat) (f : Container → Container) : (s.updContainer c f).banks = s.banks := rfl

@[simp] theorem updContainer_fractions (c : Nat) (f : Container → Container) : (s.updContainer c f).fractions = s.fractions :=
  rfl

@[simp] theorem updContainer_shapes (c : Nat) (f : Container → Container) : (s.updContainer c f).shapes = s.shapes :=
  rfl

@[simp] theorem updContainer_cards (c : Nat) (f : Container → Container) : (s.updContainer c f).cards = s.cards := rfl

@[simp] theorem updContainer_households (c : Nat) (f : Container → Container) : (s.updContainer c f).households = s.households :=
  rfl

@[simp] theorem updContainer_rounds (c : Nat) (f : Container → Container) : (s.updContainer c f).rounds = s.rounds :=
  rfl

@[simp] theorem updContainer_journal (c : Nat) (f : Container → Container) : (s.updContainer c f).journal = s.journal :=
  rfl

@[simp] theorem updContainer_planner (c : Nat) (f : Container → Container) : (s.updContainer c f).planner = s.planner :=
  rfl

@[simp] theorem updContainer_watch (c : Nat) (f : Container → Container) : (s.updContainer c f).watch = s.watch := rfl

@[simp] theorem updContainer_flash (c : Nat) (f : Container → Container) : (s.updContainer c f).flash = s.flash := rfl

@[simp] theorem updContainer_draws (c : Nat) (f : Container → Container) : (s.updContainer c f).draws = s.draws := rfl

@[simp] theorem updContainer_pending (c : Nat) (f : Container → Container) : (s.updContainer c f).pending = s.pending :=
  rfl

/-! ### updFill -/

@[simp] theorem updFill_power (c : Nat) (f : Fill → Fill) : (s.updFill c f).power = s.power := rfl

@[simp] theorem updFill_part (c : Nat) (f : Fill → Fill) : (s.updFill c f).part = s.part := rfl

@[simp] theorem updFill_clock (c : Nat) (f : Fill → Fill) : (s.updFill c f).clock = s.clock := rfl

@[simp] theorem updFill_classes (c : Nat) (f : Fill → Fill) : (s.updFill c f).classes = s.classes := rfl

@[simp] theorem updFill_link (c : Nat) (f : Fill → Fill) : (s.updFill c f).link = s.link := rfl

@[simp] theorem updFill_lineA (c : Nat) (f : Fill → Fill) : (s.updFill c f).lineA = s.lineA := rfl

@[simp] theorem updFill_lineB (c : Nat) (f : Fill → Fill) : (s.updFill c f).lineB = s.lineB := rfl

@[simp] theorem updFill_params (c : Nat) (f : Fill → Fill) : (s.updFill c f).params = s.params := rfl

@[simp] theorem updFill_stations (c : Nat) (f : Fill → Fill) : (s.updFill c f).stations = s.stations := rfl

@[simp] theorem updFill_banks (c : Nat) (f : Fill → Fill) : (s.updFill c f).banks = s.banks := rfl

@[simp] theorem updFill_fractions (c : Nat) (f : Fill → Fill) : (s.updFill c f).fractions = s.fractions := rfl

@[simp] theorem updFill_shapes (c : Nat) (f : Fill → Fill) : (s.updFill c f).shapes = s.shapes := rfl

@[simp] theorem updFill_cards (c : Nat) (f : Fill → Fill) : (s.updFill c f).cards = s.cards := rfl

@[simp] theorem updFill_households (c : Nat) (f : Fill → Fill) : (s.updFill c f).households = s.households := rfl

@[simp] theorem updFill_rounds (c : Nat) (f : Fill → Fill) : (s.updFill c f).rounds = s.rounds := rfl

@[simp] theorem updFill_journal (c : Nat) (f : Fill → Fill) : (s.updFill c f).journal = s.journal := rfl

@[simp] theorem updFill_planner (c : Nat) (f : Fill → Fill) : (s.updFill c f).planner = s.planner := rfl

@[simp] theorem updFill_watch (c : Nat) (f : Fill → Fill) : (s.updFill c f).watch = s.watch := rfl

@[simp] theorem updFill_flash (c : Nat) (f : Fill → Fill) : (s.updFill c f).flash = s.flash := rfl

@[simp] theorem updFill_draws (c : Nat) (f : Fill → Fill) : (s.updFill c f).draws = s.draws := rfl

@[simp] theorem updFill_pending (c : Nat) (f : Fill → Fill) : (s.updFill c f).pending = s.pending := rfl

/-! ### updInlet -/

@[simp] theorem updInlet_power (c : Nat) (f : Inlet → Inlet) : (s.updInlet c f).power = s.power := rfl

@[simp] theorem updInlet_part (c : Nat) (f : Inlet → Inlet) : (s.updInlet c f).part = s.part := rfl

@[simp] theorem updInlet_clock (c : Nat) (f : Inlet → Inlet) : (s.updInlet c f).clock = s.clock := rfl

@[simp] theorem updInlet_classes (c : Nat) (f : Inlet → Inlet) : (s.updInlet c f).classes = s.classes := rfl

@[simp] theorem updInlet_link (c : Nat) (f : Inlet → Inlet) : (s.updInlet c f).link = s.link := rfl

@[simp] theorem updInlet_lineA (c : Nat) (f : Inlet → Inlet) : (s.updInlet c f).lineA = s.lineA := rfl

@[simp] theorem updInlet_lineB (c : Nat) (f : Inlet → Inlet) : (s.updInlet c f).lineB = s.lineB := rfl

@[simp] theorem updInlet_params (c : Nat) (f : Inlet → Inlet) : (s.updInlet c f).params = s.params := rfl

@[simp] theorem updInlet_stations (c : Nat) (f : Inlet → Inlet) : (s.updInlet c f).stations = s.stations := rfl

@[simp] theorem updInlet_banks (c : Nat) (f : Inlet → Inlet) : (s.updInlet c f).banks = s.banks := rfl

@[simp] theorem updInlet_fractions (c : Nat) (f : Inlet → Inlet) : (s.updInlet c f).fractions = s.fractions := rfl

@[simp] theorem updInlet_shapes (c : Nat) (f : Inlet → Inlet) : (s.updInlet c f).shapes = s.shapes := rfl

@[simp] theorem updInlet_cards (c : Nat) (f : Inlet → Inlet) : (s.updInlet c f).cards = s.cards := rfl

@[simp] theorem updInlet_households (c : Nat) (f : Inlet → Inlet) : (s.updInlet c f).households = s.households := rfl

@[simp] theorem updInlet_rounds (c : Nat) (f : Inlet → Inlet) : (s.updInlet c f).rounds = s.rounds := rfl

@[simp] theorem updInlet_journal (c : Nat) (f : Inlet → Inlet) : (s.updInlet c f).journal = s.journal := rfl

@[simp] theorem updInlet_planner (c : Nat) (f : Inlet → Inlet) : (s.updInlet c f).planner = s.planner := rfl

@[simp] theorem updInlet_watch (c : Nat) (f : Inlet → Inlet) : (s.updInlet c f).watch = s.watch := rfl

@[simp] theorem updInlet_flash (c : Nat) (f : Inlet → Inlet) : (s.updInlet c f).flash = s.flash := rfl

@[simp] theorem updInlet_draws (c : Nat) (f : Inlet → Inlet) : (s.updInlet c f).draws = s.draws := rfl

@[simp] theorem updInlet_pending (c : Nat) (f : Inlet → Inlet) : (s.updInlet c f).pending = s.pending := rfl

/-! ### updStation -/

@[simp] theorem updStation_power (i : Nat) (f : Station → Station) : (s.updStation i f).power = s.power := rfl

@[simp] theorem updStation_part (i : Nat) (f : Station → Station) : (s.updStation i f).part = s.part := rfl

@[simp] theorem updStation_clock (i : Nat) (f : Station → Station) : (s.updStation i f).clock = s.clock := rfl

@[simp] theorem updStation_classes (i : Nat) (f : Station → Station) : (s.updStation i f).classes = s.classes := rfl

@[simp] theorem updStation_link (i : Nat) (f : Station → Station) : (s.updStation i f).link = s.link := rfl

@[simp] theorem updStation_lineA (i : Nat) (f : Station → Station) : (s.updStation i f).lineA = s.lineA := rfl

@[simp] theorem updStation_lineB (i : Nat) (f : Station → Station) : (s.updStation i f).lineB = s.lineB := rfl

@[simp] theorem updStation_params (i : Nat) (f : Station → Station) : (s.updStation i f).params = s.params := rfl

@[simp] theorem updStation_banks (i : Nat) (f : Station → Station) : (s.updStation i f).banks = s.banks := rfl

@[simp] theorem updStation_fractions (i : Nat) (f : Station → Station) : (s.updStation i f).fractions = s.fractions :=
  rfl

@[simp] theorem updStation_shapes (i : Nat) (f : Station → Station) : (s.updStation i f).shapes = s.shapes := rfl

@[simp] theorem updStation_containers (i : Nat) (f : Station → Station) : (s.updStation i f).containers = s.containers :=
  rfl

@[simp] theorem updStation_cards (i : Nat) (f : Station → Station) : (s.updStation i f).cards = s.cards := rfl

@[simp] theorem updStation_households (i : Nat) (f : Station → Station) : (s.updStation i f).households = s.households :=
  rfl

@[simp] theorem updStation_rounds (i : Nat) (f : Station → Station) : (s.updStation i f).rounds = s.rounds := rfl

@[simp] theorem updStation_journal (i : Nat) (f : Station → Station) : (s.updStation i f).journal = s.journal := rfl

@[simp] theorem updStation_planner (i : Nat) (f : Station → Station) : (s.updStation i f).planner = s.planner := rfl

@[simp] theorem updStation_watch (i : Nat) (f : Station → Station) : (s.updStation i f).watch = s.watch := rfl

@[simp] theorem updStation_flash (i : Nat) (f : Station → Station) : (s.updStation i f).flash = s.flash := rfl

@[simp] theorem updStation_draws (i : Nat) (f : Station → Station) : (s.updStation i f).draws = s.draws := rfl

@[simp] theorem updStation_pending (i : Nat) (f : Station → Station) : (s.updStation i f).pending = s.pending := rfl

/-! ### updCard -/

@[simp] theorem updCard_power (i : Nat) (f : Card → Card) : (s.updCard i f).power = s.power := rfl

@[simp] theorem updCard_part (i : Nat) (f : Card → Card) : (s.updCard i f).part = s.part := rfl

@[simp] theorem updCard_clock (i : Nat) (f : Card → Card) : (s.updCard i f).clock = s.clock := rfl

@[simp] theorem updCard_classes (i : Nat) (f : Card → Card) : (s.updCard i f).classes = s.classes := rfl

@[simp] theorem updCard_link (i : Nat) (f : Card → Card) : (s.updCard i f).link = s.link := rfl

@[simp] theorem updCard_lineA (i : Nat) (f : Card → Card) : (s.updCard i f).lineA = s.lineA := rfl

@[simp] theorem updCard_lineB (i : Nat) (f : Card → Card) : (s.updCard i f).lineB = s.lineB := rfl

@[simp] theorem updCard_params (i : Nat) (f : Card → Card) : (s.updCard i f).params = s.params := rfl

@[simp] theorem updCard_stations (i : Nat) (f : Card → Card) : (s.updCard i f).stations = s.stations := rfl

@[simp] theorem updCard_banks (i : Nat) (f : Card → Card) : (s.updCard i f).banks = s.banks := rfl

@[simp] theorem updCard_fractions (i : Nat) (f : Card → Card) : (s.updCard i f).fractions = s.fractions := rfl

@[simp] theorem updCard_shapes (i : Nat) (f : Card → Card) : (s.updCard i f).shapes = s.shapes := rfl

@[simp] theorem updCard_containers (i : Nat) (f : Card → Card) : (s.updCard i f).containers = s.containers := rfl

@[simp] theorem updCard_households (i : Nat) (f : Card → Card) : (s.updCard i f).households = s.households := rfl

@[simp] theorem updCard_rounds (i : Nat) (f : Card → Card) : (s.updCard i f).rounds = s.rounds := rfl

@[simp] theorem updCard_journal (i : Nat) (f : Card → Card) : (s.updCard i f).journal = s.journal := rfl

@[simp] theorem updCard_planner (i : Nat) (f : Card → Card) : (s.updCard i f).planner = s.planner := rfl

@[simp] theorem updCard_watch (i : Nat) (f : Card → Card) : (s.updCard i f).watch = s.watch := rfl

@[simp] theorem updCard_flash (i : Nat) (f : Card → Card) : (s.updCard i f).flash = s.flash := rfl

@[simp] theorem updCard_draws (i : Nat) (f : Card → Card) : (s.updCard i f).draws = s.draws := rfl

@[simp] theorem updCard_pending (i : Nat) (f : Card → Card) : (s.updCard i f).pending = s.pending := rfl

/-! ### updHousehold -/

@[simp] theorem updHousehold_power (h : Nat) (f : Household → Household) : (s.updHousehold h f).power = s.power := rfl

@[simp] theorem updHousehold_part (h : Nat) (f : Household → Household) : (s.updHousehold h f).part = s.part := rfl

@[simp] theorem updHousehold_clock (h : Nat) (f : Household → Household) : (s.updHousehold h f).clock = s.clock := rfl

@[simp] theorem updHousehold_classes (h : Nat) (f : Household → Household) : (s.updHousehold h f).classes = s.classes :=
  rfl

@[simp] theorem updHousehold_link (h : Nat) (f : Household → Household) : (s.updHousehold h f).link = s.link := rfl

@[simp] theorem updHousehold_lineA (h : Nat) (f : Household → Household) : (s.updHousehold h f).lineA = s.lineA := rfl

@[simp] theorem updHousehold_lineB (h : Nat) (f : Household → Household) : (s.updHousehold h f).lineB = s.lineB := rfl

@[simp] theorem updHousehold_params (h : Nat) (f : Household → Household) : (s.updHousehold h f).params = s.params :=
  rfl

@[simp] theorem updHousehold_stations (h : Nat) (f : Household → Household) : (s.updHousehold h f).stations = s.stations :=
  rfl

@[simp] theorem updHousehold_banks (h : Nat) (f : Household → Household) : (s.updHousehold h f).banks = s.banks := rfl

@[simp] theorem updHousehold_fractions (h : Nat) (f : Household → Household) : (s.updHousehold h f).fractions = s.fractions :=
  rfl

@[simp] theorem updHousehold_shapes (h : Nat) (f : Household → Household) : (s.updHousehold h f).shapes = s.shapes :=
  rfl

@[simp] theorem updHousehold_containers (h : Nat) (f : Household → Household) : (s.updHousehold h f).containers = s.containers :=
  rfl

@[simp] theorem updHousehold_cards (h : Nat) (f : Household → Household) : (s.updHousehold h f).cards = s.cards := rfl

@[simp] theorem updHousehold_rounds (h : Nat) (f : Household → Household) : (s.updHousehold h f).rounds = s.rounds :=
  rfl

@[simp] theorem updHousehold_journal (h : Nat) (f : Household → Household) : (s.updHousehold h f).journal = s.journal :=
  rfl

@[simp] theorem updHousehold_planner (h : Nat) (f : Household → Household) : (s.updHousehold h f).planner = s.planner :=
  rfl

@[simp] theorem updHousehold_watch (h : Nat) (f : Household → Household) : (s.updHousehold h f).watch = s.watch := rfl

@[simp] theorem updHousehold_flash (h : Nat) (f : Household → Household) : (s.updHousehold h f).flash = s.flash := rfl

@[simp] theorem updHousehold_draws (h : Nat) (f : Household → Household) : (s.updHousehold h f).draws = s.draws := rfl

@[simp] theorem updHousehold_pending (h : Nat) (f : Household → Household) : (s.updHousehold h f).pending = s.pending :=
  rfl

/-! ### updRound -/

@[simp] theorem updRound_power (r : Nat) (f : Round → Round) : (s.updRound r f).power = s.power := rfl

@[simp] theorem updRound_part (r : Nat) (f : Round → Round) : (s.updRound r f).part = s.part := rfl

@[simp] theorem updRound_clock (r : Nat) (f : Round → Round) : (s.updRound r f).clock = s.clock := rfl

@[simp] theorem updRound_classes (r : Nat) (f : Round → Round) : (s.updRound r f).classes = s.classes := rfl

@[simp] theorem updRound_link (r : Nat) (f : Round → Round) : (s.updRound r f).link = s.link := rfl

@[simp] theorem updRound_lineA (r : Nat) (f : Round → Round) : (s.updRound r f).lineA = s.lineA := rfl

@[simp] theorem updRound_lineB (r : Nat) (f : Round → Round) : (s.updRound r f).lineB = s.lineB := rfl

@[simp] theorem updRound_params (r : Nat) (f : Round → Round) : (s.updRound r f).params = s.params := rfl

@[simp] theorem updRound_stations (r : Nat) (f : Round → Round) : (s.updRound r f).stations = s.stations := rfl

@[simp] theorem updRound_banks (r : Nat) (f : Round → Round) : (s.updRound r f).banks = s.banks := rfl

@[simp] theorem updRound_fractions (r : Nat) (f : Round → Round) : (s.updRound r f).fractions = s.fractions := rfl

@[simp] theorem updRound_shapes (r : Nat) (f : Round → Round) : (s.updRound r f).shapes = s.shapes := rfl

@[simp] theorem updRound_containers (r : Nat) (f : Round → Round) : (s.updRound r f).containers = s.containers := rfl

@[simp] theorem updRound_cards (r : Nat) (f : Round → Round) : (s.updRound r f).cards = s.cards := rfl

@[simp] theorem updRound_households (r : Nat) (f : Round → Round) : (s.updRound r f).households = s.households := rfl

@[simp] theorem updRound_journal (r : Nat) (f : Round → Round) : (s.updRound r f).journal = s.journal := rfl

@[simp] theorem updRound_planner (r : Nat) (f : Round → Round) : (s.updRound r f).planner = s.planner := rfl

@[simp] theorem updRound_watch (r : Nat) (f : Round → Round) : (s.updRound r f).watch = s.watch := rfl

@[simp] theorem updRound_flash (r : Nat) (f : Round → Round) : (s.updRound r f).flash = s.flash := rfl

@[simp] theorem updRound_draws (r : Nat) (f : Round → Round) : (s.updRound r f).draws = s.draws := rfl

@[simp] theorem updRound_pending (r : Nat) (f : Round → Round) : (s.updRound r f).pending = s.pending := rfl

/-! ### updClass -/

@[simp] theorem updClass_power (n : Nat) (f : NoticeClass → NoticeClass) : (s.updClass n f).power = s.power := rfl

@[simp] theorem updClass_part (n : Nat) (f : NoticeClass → NoticeClass) : (s.updClass n f).part = s.part := rfl

@[simp] theorem updClass_clock (n : Nat) (f : NoticeClass → NoticeClass) : (s.updClass n f).clock = s.clock := rfl

@[simp] theorem updClass_link (n : Nat) (f : NoticeClass → NoticeClass) : (s.updClass n f).link = s.link := rfl

@[simp] theorem updClass_lineA (n : Nat) (f : NoticeClass → NoticeClass) : (s.updClass n f).lineA = s.lineA := rfl

@[simp] theorem updClass_lineB (n : Nat) (f : NoticeClass → NoticeClass) : (s.updClass n f).lineB = s.lineB := rfl

@[simp] theorem updClass_params (n : Nat) (f : NoticeClass → NoticeClass) : (s.updClass n f).params = s.params := rfl

@[simp] theorem updClass_stations (n : Nat) (f : NoticeClass → NoticeClass) : (s.updClass n f).stations = s.stations :=
  rfl

@[simp] theorem updClass_banks (n : Nat) (f : NoticeClass → NoticeClass) : (s.updClass n f).banks = s.banks := rfl

@[simp] theorem updClass_fractions (n : Nat) (f : NoticeClass → NoticeClass) : (s.updClass n f).fractions = s.fractions :=
  rfl

@[simp] theorem updClass_shapes (n : Nat) (f : NoticeClass → NoticeClass) : (s.updClass n f).shapes = s.shapes := rfl

@[simp] theorem updClass_containers (n : Nat) (f : NoticeClass → NoticeClass) : (s.updClass n f).containers = s.containers :=
  rfl

@[simp] theorem updClass_cards (n : Nat) (f : NoticeClass → NoticeClass) : (s.updClass n f).cards = s.cards := rfl

@[simp] theorem updClass_households (n : Nat) (f : NoticeClass → NoticeClass) : (s.updClass n f).households = s.households :=
  rfl

@[simp] theorem updClass_rounds (n : Nat) (f : NoticeClass → NoticeClass) : (s.updClass n f).rounds = s.rounds := rfl

@[simp] theorem updClass_journal (n : Nat) (f : NoticeClass → NoticeClass) : (s.updClass n f).journal = s.journal := rfl

@[simp] theorem updClass_planner (n : Nat) (f : NoticeClass → NoticeClass) : (s.updClass n f).planner = s.planner := rfl

@[simp] theorem updClass_watch (n : Nat) (f : NoticeClass → NoticeClass) : (s.updClass n f).watch = s.watch := rfl

@[simp] theorem updClass_flash (n : Nat) (f : NoticeClass → NoticeClass) : (s.updClass n f).flash = s.flash := rfl

@[simp] theorem updClass_draws (n : Nat) (f : NoticeClass → NoticeClass) : (s.updClass n f).draws = s.draws := rfl

@[simp] theorem updClass_pending (n : Nat) (f : NoticeClass → NoticeClass) : (s.updClass n f).pending = s.pending := rfl

/-! ### updLine -/

@[simp] theorem updLine_power (l : Line) (f : LineState → LineState) : (s.updLine l f).power = s.power :=
  by cases l <;> rfl

@[simp] theorem updLine_part (l : Line) (f : LineState → LineState) : (s.updLine l f).part = s.part :=
  by cases l <;> rfl

@[simp] theorem updLine_clock (l : Line) (f : LineState → LineState) : (s.updLine l f).clock = s.clock :=
  by cases l <;> rfl

@[simp] theorem updLine_classes (l : Line) (f : LineState → LineState) : (s.updLine l f).classes = s.classes :=
  by cases l <;> rfl

@[simp] theorem updLine_link (l : Line) (f : LineState → LineState) : (s.updLine l f).link = s.link :=
  by cases l <;> rfl

@[simp] theorem updLine_params (l : Line) (f : LineState → LineState) : (s.updLine l f).params = s.params :=
  by cases l <;> rfl

@[simp] theorem updLine_stations (l : Line) (f : LineState → LineState) : (s.updLine l f).stations = s.stations :=
  by cases l <;> rfl

@[simp] theorem updLine_banks (l : Line) (f : LineState → LineState) : (s.updLine l f).banks = s.banks :=
  by cases l <;> rfl

@[simp] theorem updLine_fractions (l : Line) (f : LineState → LineState) : (s.updLine l f).fractions = s.fractions :=
  by cases l <;> rfl

@[simp] theorem updLine_shapes (l : Line) (f : LineState → LineState) : (s.updLine l f).shapes = s.shapes :=
  by cases l <;> rfl

@[simp] theorem updLine_containers (l : Line) (f : LineState → LineState) : (s.updLine l f).containers = s.containers :=
  by cases l <;> rfl

@[simp] theorem updLine_cards (l : Line) (f : LineState → LineState) : (s.updLine l f).cards = s.cards :=
  by cases l <;> rfl

@[simp] theorem updLine_households (l : Line) (f : LineState → LineState) : (s.updLine l f).households = s.households :=
  by cases l <;> rfl

@[simp] theorem updLine_rounds (l : Line) (f : LineState → LineState) : (s.updLine l f).rounds = s.rounds :=
  by cases l <;> rfl

@[simp] theorem updLine_journal (l : Line) (f : LineState → LineState) : (s.updLine l f).journal = s.journal :=
  by cases l <;> rfl

@[simp] theorem updLine_planner (l : Line) (f : LineState → LineState) : (s.updLine l f).planner = s.planner :=
  by cases l <;> rfl

@[simp] theorem updLine_watch (l : Line) (f : LineState → LineState) : (s.updLine l f).watch = s.watch :=
  by cases l <;> rfl

@[simp] theorem updLine_flash (l : Line) (f : LineState → LineState) : (s.updLine l f).flash = s.flash :=
  by cases l <;> rfl

@[simp] theorem updLine_draws (l : Line) (f : LineState → LineState) : (s.updLine l f).draws = s.draws :=
  by cases l <;> rfl

@[simp] theorem updLine_pending (l : Line) (f : LineState → LineState) : (s.updLine l f).pending = s.pending :=
  by cases l <;> rfl

/-! ### updPlanner -/

@[simp] theorem updPlanner_power (f : Planner → Planner) : (s.updPlanner f).power = s.power := rfl

@[simp] theorem updPlanner_part (f : Planner → Planner) : (s.updPlanner f).part = s.part := rfl

@[simp] theorem updPlanner_clock (f : Planner → Planner) : (s.updPlanner f).clock = s.clock := rfl

@[simp] theorem updPlanner_classes (f : Planner → Planner) : (s.updPlanner f).classes = s.classes := rfl

@[simp] theorem updPlanner_link (f : Planner → Planner) : (s.updPlanner f).link = s.link := rfl

@[simp] theorem updPlanner_lineA (f : Planner → Planner) : (s.updPlanner f).lineA = s.lineA := rfl

@[simp] theorem updPlanner_lineB (f : Planner → Planner) : (s.updPlanner f).lineB = s.lineB := rfl

@[simp] theorem updPlanner_params (f : Planner → Planner) : (s.updPlanner f).params = s.params := rfl

@[simp] theorem updPlanner_stations (f : Planner → Planner) : (s.updPlanner f).stations = s.stations := rfl

@[simp] theorem updPlanner_banks (f : Planner → Planner) : (s.updPlanner f).banks = s.banks := rfl

@[simp] theorem updPlanner_fractions (f : Planner → Planner) : (s.updPlanner f).fractions = s.fractions := rfl

@[simp] theorem updPlanner_shapes (f : Planner → Planner) : (s.updPlanner f).shapes = s.shapes := rfl

@[simp] theorem updPlanner_containers (f : Planner → Planner) : (s.updPlanner f).containers = s.containers := rfl

@[simp] theorem updPlanner_cards (f : Planner → Planner) : (s.updPlanner f).cards = s.cards := rfl

@[simp] theorem updPlanner_households (f : Planner → Planner) : (s.updPlanner f).households = s.households := rfl

@[simp] theorem updPlanner_rounds (f : Planner → Planner) : (s.updPlanner f).rounds = s.rounds := rfl

@[simp] theorem updPlanner_journal (f : Planner → Planner) : (s.updPlanner f).journal = s.journal := rfl

@[simp] theorem updPlanner_watch (f : Planner → Planner) : (s.updPlanner f).watch = s.watch := rfl

@[simp] theorem updPlanner_flash (f : Planner → Planner) : (s.updPlanner f).flash = s.flash := rfl

@[simp] theorem updPlanner_draws (f : Planner → Planner) : (s.updPlanner f).draws = s.draws := rfl

@[simp] theorem updPlanner_pending (f : Planner → Planner) : (s.updPlanner f).pending = s.pending := rfl

@[simp] theorem updPlanner_planner (f : Planner → Planner) : (s.updPlanner f).planner = f s.planner := rfl

/-! ### updWatch -/

@[simp] theorem updWatch_power (f : Watch → Watch) : (s.updWatch f).power = s.power := rfl

@[simp] theorem updWatch_part (f : Watch → Watch) : (s.updWatch f).part = s.part := rfl

@[simp] theorem updWatch_clock (f : Watch → Watch) : (s.updWatch f).clock = s.clock := rfl

@[simp] theorem updWatch_classes (f : Watch → Watch) : (s.updWatch f).classes = s.classes := rfl

@[simp] theorem updWatch_link (f : Watch → Watch) : (s.updWatch f).link = s.link := rfl

@[simp] theorem updWatch_lineA (f : Watch → Watch) : (s.updWatch f).lineA = s.lineA := rfl

@[simp] theorem updWatch_lineB (f : Watch → Watch) : (s.updWatch f).lineB = s.lineB := rfl

@[simp] theorem updWatch_params (f : Watch → Watch) : (s.updWatch f).params = s.params := rfl

@[simp] theorem updWatch_stations (f : Watch → Watch) : (s.updWatch f).stations = s.stations := rfl

@[simp] theorem updWatch_banks (f : Watch → Watch) : (s.updWatch f).banks = s.banks := rfl

@[simp] theorem updWatch_fractions (f : Watch → Watch) : (s.updWatch f).fractions = s.fractions := rfl

@[simp] theorem updWatch_shapes (f : Watch → Watch) : (s.updWatch f).shapes = s.shapes := rfl

@[simp] theorem updWatch_containers (f : Watch → Watch) : (s.updWatch f).containers = s.containers := rfl

@[simp] theorem updWatch_cards (f : Watch → Watch) : (s.updWatch f).cards = s.cards := rfl

@[simp] theorem updWatch_households (f : Watch → Watch) : (s.updWatch f).households = s.households := rfl

@[simp] theorem updWatch_rounds (f : Watch → Watch) : (s.updWatch f).rounds = s.rounds := rfl

@[simp] theorem updWatch_journal (f : Watch → Watch) : (s.updWatch f).journal = s.journal := rfl

@[simp] theorem updWatch_planner (f : Watch → Watch) : (s.updWatch f).planner = s.planner := rfl

@[simp] theorem updWatch_flash (f : Watch → Watch) : (s.updWatch f).flash = s.flash := rfl

@[simp] theorem updWatch_draws (f : Watch → Watch) : (s.updWatch f).draws = s.draws := rfl

@[simp] theorem updWatch_pending (f : Watch → Watch) : (s.updWatch f).pending = s.pending := rfl

@[simp] theorem updWatch_watch (f : Watch → Watch) : (s.updWatch f).watch = f s.watch := rfl

/-! ### updLink -/

@[simp] theorem updLink_power (f : Endpoint → Endpoint) : (s.updLink f).power = s.power := rfl

@[simp] theorem updLink_part (f : Endpoint → Endpoint) : (s.updLink f).part = s.part := rfl

@[simp] theorem updLink_clock (f : Endpoint → Endpoint) : (s.updLink f).clock = s.clock := rfl

@[simp] theorem updLink_classes (f : Endpoint → Endpoint) : (s.updLink f).classes = s.classes := rfl

@[simp] theorem updLink_lineA (f : Endpoint → Endpoint) : (s.updLink f).lineA = s.lineA := rfl

@[simp] theorem updLink_lineB (f : Endpoint → Endpoint) : (s.updLink f).lineB = s.lineB := rfl

@[simp] theorem updLink_params (f : Endpoint → Endpoint) : (s.updLink f).params = s.params := rfl

@[simp] theorem updLink_stations (f : Endpoint → Endpoint) : (s.updLink f).stations = s.stations := rfl

@[simp] theorem updLink_banks (f : Endpoint → Endpoint) : (s.updLink f).banks = s.banks := rfl

@[simp] theorem updLink_fractions (f : Endpoint → Endpoint) : (s.updLink f).fractions = s.fractions := rfl

@[simp] theorem updLink_shapes (f : Endpoint → Endpoint) : (s.updLink f).shapes = s.shapes := rfl

@[simp] theorem updLink_containers (f : Endpoint → Endpoint) : (s.updLink f).containers = s.containers := rfl

@[simp] theorem updLink_cards (f : Endpoint → Endpoint) : (s.updLink f).cards = s.cards := rfl

@[simp] theorem updLink_households (f : Endpoint → Endpoint) : (s.updLink f).households = s.households := rfl

@[simp] theorem updLink_rounds (f : Endpoint → Endpoint) : (s.updLink f).rounds = s.rounds := rfl

@[simp] theorem updLink_journal (f : Endpoint → Endpoint) : (s.updLink f).journal = s.journal := rfl

@[simp] theorem updLink_planner (f : Endpoint → Endpoint) : (s.updLink f).planner = s.planner := rfl

@[simp] theorem updLink_watch (f : Endpoint → Endpoint) : (s.updLink f).watch = s.watch := rfl

@[simp] theorem updLink_flash (f : Endpoint → Endpoint) : (s.updLink f).flash = s.flash := rfl

@[simp] theorem updLink_draws (f : Endpoint → Endpoint) : (s.updLink f).draws = s.draws := rfl

@[simp] theorem updLink_pending (f : Endpoint → Endpoint) : (s.updLink f).pending = s.pending := rfl

@[simp] theorem updLink_link (f : Endpoint → Endpoint) : (s.updLink f).link = f s.link := rfl

/-! ### updPart -/

@[simp] theorem updPart_power (f : Part → Part) : (s.updPart f).power = s.power := rfl

@[simp] theorem updPart_clock (f : Part → Part) : (s.updPart f).clock = s.clock := rfl

@[simp] theorem updPart_classes (f : Part → Part) : (s.updPart f).classes = s.classes := rfl

@[simp] theorem updPart_link (f : Part → Part) : (s.updPart f).link = s.link := rfl

@[simp] theorem updPart_lineA (f : Part → Part) : (s.updPart f).lineA = s.lineA := rfl

@[simp] theorem updPart_lineB (f : Part → Part) : (s.updPart f).lineB = s.lineB := rfl

@[simp] theorem updPart_params (f : Part → Part) : (s.updPart f).params = s.params := rfl

@[simp] theorem updPart_stations (f : Part → Part) : (s.updPart f).stations = s.stations := rfl

@[simp] theorem updPart_banks (f : Part → Part) : (s.updPart f).banks = s.banks := rfl

@[simp] theorem updPart_fractions (f : Part → Part) : (s.updPart f).fractions = s.fractions := rfl

@[simp] theorem updPart_shapes (f : Part → Part) : (s.updPart f).shapes = s.shapes := rfl

@[simp] theorem updPart_containers (f : Part → Part) : (s.updPart f).containers = s.containers := rfl

@[simp] theorem updPart_cards (f : Part → Part) : (s.updPart f).cards = s.cards := rfl

@[simp] theorem updPart_households (f : Part → Part) : (s.updPart f).households = s.households := rfl

@[simp] theorem updPart_rounds (f : Part → Part) : (s.updPart f).rounds = s.rounds := rfl

@[simp] theorem updPart_journal (f : Part → Part) : (s.updPart f).journal = s.journal := rfl

@[simp] theorem updPart_planner (f : Part → Part) : (s.updPart f).planner = s.planner := rfl

@[simp] theorem updPart_watch (f : Part → Part) : (s.updPart f).watch = s.watch := rfl

@[simp] theorem updPart_flash (f : Part → Part) : (s.updPart f).flash = s.flash := rfl

@[simp] theorem updPart_draws (f : Part → Part) : (s.updPart f).draws = s.draws := rfl

@[simp] theorem updPart_pending (f : Part → Part) : (s.updPart f).pending = s.pending := rfl

@[simp] theorem updPart_part (f : Part → Part) : (s.updPart f).part = f s.part := rfl

/-! ### updJournal -/

@[simp] theorem updJournal_power (f : Journal → Journal) : (s.updJournal f).power = s.power := rfl

@[simp] theorem updJournal_part (f : Journal → Journal) : (s.updJournal f).part = s.part := rfl

@[simp] theorem updJournal_clock (f : Journal → Journal) : (s.updJournal f).clock = s.clock := rfl

@[simp] theorem updJournal_classes (f : Journal → Journal) : (s.updJournal f).classes = s.classes := rfl

@[simp] theorem updJournal_link (f : Journal → Journal) : (s.updJournal f).link = s.link := rfl

@[simp] theorem updJournal_lineA (f : Journal → Journal) : (s.updJournal f).lineA = s.lineA := rfl

@[simp] theorem updJournal_lineB (f : Journal → Journal) : (s.updJournal f).lineB = s.lineB := rfl

@[simp] theorem updJournal_params (f : Journal → Journal) : (s.updJournal f).params = s.params := rfl

@[simp] theorem updJournal_stations (f : Journal → Journal) : (s.updJournal f).stations = s.stations := rfl

@[simp] theorem updJournal_banks (f : Journal → Journal) : (s.updJournal f).banks = s.banks := rfl

@[simp] theorem updJournal_fractions (f : Journal → Journal) : (s.updJournal f).fractions = s.fractions := rfl

@[simp] theorem updJournal_shapes (f : Journal → Journal) : (s.updJournal f).shapes = s.shapes := rfl

@[simp] theorem updJournal_containers (f : Journal → Journal) : (s.updJournal f).containers = s.containers := rfl

@[simp] theorem updJournal_cards (f : Journal → Journal) : (s.updJournal f).cards = s.cards := rfl

@[simp] theorem updJournal_households (f : Journal → Journal) : (s.updJournal f).households = s.households := rfl

@[simp] theorem updJournal_rounds (f : Journal → Journal) : (s.updJournal f).rounds = s.rounds := rfl

@[simp] theorem updJournal_planner (f : Journal → Journal) : (s.updJournal f).planner = s.planner := rfl

@[simp] theorem updJournal_watch (f : Journal → Journal) : (s.updJournal f).watch = s.watch := rfl

@[simp] theorem updJournal_flash (f : Journal → Journal) : (s.updJournal f).flash = s.flash := rfl

@[simp] theorem updJournal_draws (f : Journal → Journal) : (s.updJournal f).draws = s.draws := rfl

@[simp] theorem updJournal_pending (f : Journal → Journal) : (s.updJournal f).pending = s.pending := rfl

@[simp] theorem updJournal_journal (f : Journal → Journal) : (s.updJournal f).journal = f s.journal := rfl

/-! ### updPower -/

@[simp] theorem updPower_part (f : Power → Power) : (s.updPower f).part = s.part := rfl

@[simp] theorem updPower_clock (f : Power → Power) : (s.updPower f).clock = s.clock := rfl

@[simp] theorem updPower_classes (f : Power → Power) : (s.updPower f).classes = s.classes := rfl

@[simp] theorem updPower_link (f : Power → Power) : (s.updPower f).link = s.link := rfl

@[simp] theorem updPower_lineA (f : Power → Power) : (s.updPower f).lineA = s.lineA := rfl

@[simp] theorem updPower_lineB (f : Power → Power) : (s.updPower f).lineB = s.lineB := rfl

@[simp] theorem updPower_params (f : Power → Power) : (s.updPower f).params = s.params := rfl

@[simp] theorem updPower_stations (f : Power → Power) : (s.updPower f).stations = s.stations := rfl

@[simp] theorem updPower_banks (f : Power → Power) : (s.updPower f).banks = s.banks := rfl

@[simp] theorem updPower_fractions (f : Power → Power) : (s.updPower f).fractions = s.fractions := rfl

@[simp] theorem updPower_shapes (f : Power → Power) : (s.updPower f).shapes = s.shapes := rfl

@[simp] theorem updPower_containers (f : Power → Power) : (s.updPower f).containers = s.containers := rfl

@[simp] theorem updPower_cards (f : Power → Power) : (s.updPower f).cards = s.cards := rfl

@[simp] theorem updPower_households (f : Power → Power) : (s.updPower f).households = s.households := rfl

@[simp] theorem updPower_rounds (f : Power → Power) : (s.updPower f).rounds = s.rounds := rfl

@[simp] theorem updPower_journal (f : Power → Power) : (s.updPower f).journal = s.journal := rfl

@[simp] theorem updPower_planner (f : Power → Power) : (s.updPower f).planner = s.planner := rfl

@[simp] theorem updPower_watch (f : Power → Power) : (s.updPower f).watch = s.watch := rfl

@[simp] theorem updPower_flash (f : Power → Power) : (s.updPower f).flash = s.flash := rfl

@[simp] theorem updPower_draws (f : Power → Power) : (s.updPower f).draws = s.draws := rfl

@[simp] theorem updPower_pending (f : Power → Power) : (s.updPower f).pending = s.pending := rfl

@[simp] theorem updPower_power (f : Power → Power) : (s.updPower f).power = f s.power := rfl

/-! ### Records by index -/

theorem container_updContainer (c d : Nat) (f : Container → Container) :
    (s.updContainer c f).container d = if d = c then f (s.container c) else s.container d := Tab.get_set

@[simp] theorem container_updContainer_same (c : Nat) (f : Container → Container) :
    (s.updContainer c f).container c = f (s.container c) := Tab.get_set_same

theorem container_updContainer_other {c d : Nat} (f : Container → Container) (h : d ≠ c) :
    (s.updContainer c f).container d = s.container d := Tab.get_set_other h

theorem container_updFill (c d : Nat) (f : Fill → Fill) :
    (s.updFill c f).container d =
      if d = c then { s.container c with fill := f (s.container c).fill } else s.container d := Tab.get_set

theorem container_updInlet (c d : Nat) (f : Inlet → Inlet) :
    (s.updInlet c f).container d =
      if d = c then { s.container c with inlet := f (s.container c).inlet } else s.container d := Tab.get_set

theorem station_updStation (i j : Nat) (f : Station → Station) :
    (s.updStation i f).station j = if j = i then f (s.station i) else s.station j := Tab.get_set

@[simp] theorem station_updStation_same (i : Nat) (f : Station → Station) :
    (s.updStation i f).station i = f (s.station i) := Tab.get_set_same

theorem card_updCard (i j : Nat) (f : Card → Card) :
    (s.updCard i f).card j = if j = i then f (s.card i) else s.card j := Tab.get_set

theorem household_updHousehold (i j : Nat) (f : Household → Household) :
    (s.updHousehold i f).household j = if j = i then f (s.household i) else s.household j := Tab.get_set

@[simp] theorem household_updHousehold_same (i : Nat) (f : Household → Household) :
    (s.updHousehold i f).household i = f (s.household i) := Tab.get_set_same

theorem round_updRound (i j : Nat) (f : Round → Round) :
    (s.updRound i f).round j = if j = i then f (s.round i) else s.round j := Tab.get_set

@[simp] theorem round_updRound_same (i : Nat) (f : Round → Round) :
    (s.updRound i f).round i = f (s.round i) := Tab.get_set_same

theorem noticeClass_updClass (i j : Nat) (f : NoticeClass → NoticeClass) :
    (s.updClass i f).noticeClass j = if j = i then f (s.noticeClass i) else s.noticeClass j := Tab.get_set

@[simp] theorem noticeClass_updClass_same (i : Nat) (f : NoticeClass → NoticeClass) :
    (s.updClass i f).noticeClass i = f (s.noticeClass i) := Tab.get_set_same

theorem line_updLine (l m : Line) (f : LineState → LineState) :
    (s.updLine l f).line m = if m = l then f (s.line l) else s.line m := by
  cases l <;> cases m <;> rfl

@[simp] theorem line_updLine_same (l : Line) (f : LineState → LineState) : (s.updLine l f).line l = f (s.line l) := by
  cases l <;> rfl

end State

/-! ### Records across updates of other tables -/

@[simp] theorem State.container_updStation (s : State) (i : Nat) (f : Station → Station) (k : Nat) :
    (s.updStation i f).container k = s.container k := rfl

@[simp] theorem State.container_updCard (s : State) (i : Nat) (f : Card → Card) (k : Nat) :
    (s.updCard i f).container k = s.container k := rfl

@[simp] theorem State.container_updHousehold (s : State) (h : Nat) (f : Household → Household) (k : Nat) :
    (s.updHousehold h f).container k = s.container k := rfl

@[simp] theorem State.container_updRound (s : State) (r : Nat) (f : Round → Round) (k : Nat) :
    (s.updRound r f).container k = s.container k := rfl

@[simp] theorem State.container_updClass (s : State) (n : Nat) (f : NoticeClass → NoticeClass) (k : Nat) :
    (s.updClass n f).container k = s.container k := rfl

@[simp] theorem State.container_updLine (s : State) (l : Line) (f : LineState → LineState) (k : Nat) :
    (s.updLine l f).container k = s.container k := by cases l <;> rfl

@[simp] theorem State.container_updPlanner (s : State) (f : Planner → Planner) (k : Nat) :
    (s.updPlanner f).container k = s.container k := rfl

@[simp] theorem State.container_updWatch (s : State) (f : Watch → Watch) (k : Nat) :
    (s.updWatch f).container k = s.container k := rfl

@[simp] theorem State.container_updLink (s : State) (f : Endpoint → Endpoint) (k : Nat) :
    (s.updLink f).container k = s.container k := rfl

@[simp] theorem State.container_updPart (s : State) (f : Part → Part) (k : Nat) :
    (s.updPart f).container k = s.container k := rfl

@[simp] theorem State.container_updJournal (s : State) (f : Journal → Journal) (k : Nat) :
    (s.updJournal f).container k = s.container k := rfl

@[simp] theorem State.container_updPower (s : State) (f : Power → Power) (k : Nat) :
    (s.updPower f).container k = s.container k := rfl

@[simp] theorem State.station_updContainer (s : State) (c : Nat) (f : Container → Container) (k : Nat) :
    (s.updContainer c f).station k = s.station k := rfl

@[simp] theorem State.station_updFill (s : State) (c : Nat) (f : Fill → Fill) (k : Nat) :
    (s.updFill c f).station k = s.station k := rfl

@[simp] theorem State.station_updInlet (s : State) (c : Nat) (f : Inlet → Inlet) (k : Nat) :
    (s.updInlet c f).station k = s.station k := rfl

@[simp] theorem State.station_updCard (s : State) (i : Nat) (f : Card → Card) (k : Nat) :
    (s.updCard i f).station k = s.station k := rfl

@[simp] theorem State.station_updHousehold (s : State) (h : Nat) (f : Household → Household) (k : Nat) :
    (s.updHousehold h f).station k = s.station k := rfl

@[simp] theorem State.station_updRound (s : State) (r : Nat) (f : Round → Round) (k : Nat) :
    (s.updRound r f).station k = s.station k := rfl

@[simp] theorem State.station_updClass (s : State) (n : Nat) (f : NoticeClass → NoticeClass) (k : Nat) :
    (s.updClass n f).station k = s.station k := rfl

@[simp] theorem State.station_updLine (s : State) (l : Line) (f : LineState → LineState) (k : Nat) :
    (s.updLine l f).station k = s.station k := by cases l <;> rfl

@[simp] theorem State.station_updPlanner (s : State) (f : Planner → Planner) (k : Nat) :
    (s.updPlanner f).station k = s.station k := rfl

@[simp] theorem State.station_updWatch (s : State) (f : Watch → Watch) (k : Nat) :
    (s.updWatch f).station k = s.station k := rfl

@[simp] theorem State.station_updLink (s : State) (f : Endpoint → Endpoint) (k : Nat) :
    (s.updLink f).station k = s.station k := rfl

@[simp] theorem State.station_updPart (s : State) (f : Part → Part) (k : Nat) :
    (s.updPart f).station k = s.station k := rfl

@[simp] theorem State.station_updJournal (s : State) (f : Journal → Journal) (k : Nat) :
    (s.updJournal f).station k = s.station k := rfl

@[simp] theorem State.station_updPower (s : State) (f : Power → Power) (k : Nat) :
    (s.updPower f).station k = s.station k := rfl

@[simp] theorem State.household_updContainer (s : State) (c : Nat) (f : Container → Container) (k : Nat) :
    (s.updContainer c f).household k = s.household k := rfl

@[simp] theorem State.household_updFill (s : State) (c : Nat) (f : Fill → Fill) (k : Nat) :
    (s.updFill c f).household k = s.household k := rfl

@[simp] theorem State.household_updInlet (s : State) (c : Nat) (f : Inlet → Inlet) (k : Nat) :
    (s.updInlet c f).household k = s.household k := rfl

@[simp] theorem State.household_updStation (s : State) (i : Nat) (f : Station → Station) (k : Nat) :
    (s.updStation i f).household k = s.household k := rfl

@[simp] theorem State.household_updCard (s : State) (i : Nat) (f : Card → Card) (k : Nat) :
    (s.updCard i f).household k = s.household k := rfl

@[simp] theorem State.household_updRound (s : State) (r : Nat) (f : Round → Round) (k : Nat) :
    (s.updRound r f).household k = s.household k := rfl

@[simp] theorem State.household_updClass (s : State) (n : Nat) (f : NoticeClass → NoticeClass) (k : Nat) :
    (s.updClass n f).household k = s.household k := rfl

@[simp] theorem State.household_updLine (s : State) (l : Line) (f : LineState → LineState) (k : Nat) :
    (s.updLine l f).household k = s.household k := by cases l <;> rfl

@[simp] theorem State.household_updPlanner (s : State) (f : Planner → Planner) (k : Nat) :
    (s.updPlanner f).household k = s.household k := rfl

@[simp] theorem State.household_updWatch (s : State) (f : Watch → Watch) (k : Nat) :
    (s.updWatch f).household k = s.household k := rfl

@[simp] theorem State.household_updLink (s : State) (f : Endpoint → Endpoint) (k : Nat) :
    (s.updLink f).household k = s.household k := rfl

@[simp] theorem State.household_updPart (s : State) (f : Part → Part) (k : Nat) :
    (s.updPart f).household k = s.household k := rfl

@[simp] theorem State.household_updJournal (s : State) (f : Journal → Journal) (k : Nat) :
    (s.updJournal f).household k = s.household k := rfl

@[simp] theorem State.household_updPower (s : State) (f : Power → Power) (k : Nat) :
    (s.updPower f).household k = s.household k := rfl

@[simp] theorem State.round_updContainer (s : State) (c : Nat) (f : Container → Container) (k : Nat) :
    (s.updContainer c f).round k = s.round k := rfl

@[simp] theorem State.round_updFill (s : State) (c : Nat) (f : Fill → Fill) (k : Nat) :
    (s.updFill c f).round k = s.round k := rfl

@[simp] theorem State.round_updInlet (s : State) (c : Nat) (f : Inlet → Inlet) (k : Nat) :
    (s.updInlet c f).round k = s.round k := rfl

@[simp] theorem State.round_updStation (s : State) (i : Nat) (f : Station → Station) (k : Nat) :
    (s.updStation i f).round k = s.round k := rfl

@[simp] theorem State.round_updCard (s : State) (i : Nat) (f : Card → Card) (k : Nat) :
    (s.updCard i f).round k = s.round k := rfl

@[simp] theorem State.round_updHousehold (s : State) (h : Nat) (f : Household → Household) (k : Nat) :
    (s.updHousehold h f).round k = s.round k := rfl

@[simp] theorem State.round_updClass (s : State) (n : Nat) (f : NoticeClass → NoticeClass) (k : Nat) :
    (s.updClass n f).round k = s.round k := rfl

@[simp] theorem State.round_updLine (s : State) (l : Line) (f : LineState → LineState) (k : Nat) :
    (s.updLine l f).round k = s.round k := by cases l <;> rfl

@[simp] theorem State.round_updPlanner (s : State) (f : Planner → Planner) (k : Nat) :
    (s.updPlanner f).round k = s.round k := rfl

@[simp] theorem State.round_updWatch (s : State) (f : Watch → Watch) (k : Nat) :
    (s.updWatch f).round k = s.round k := rfl

@[simp] theorem State.round_updLink (s : State) (f : Endpoint → Endpoint) (k : Nat) :
    (s.updLink f).round k = s.round k := rfl

@[simp] theorem State.round_updPart (s : State) (f : Part → Part) (k : Nat) :
    (s.updPart f).round k = s.round k := rfl

@[simp] theorem State.round_updJournal (s : State) (f : Journal → Journal) (k : Nat) :
    (s.updJournal f).round k = s.round k := rfl

@[simp] theorem State.round_updPower (s : State) (f : Power → Power) (k : Nat) :
    (s.updPower f).round k = s.round k := rfl

@[simp] theorem State.card_updContainer (s : State) (c : Nat) (f : Container → Container) (k : Nat) :
    (s.updContainer c f).card k = s.card k := rfl

@[simp] theorem State.card_updFill (s : State) (c : Nat) (f : Fill → Fill) (k : Nat) :
    (s.updFill c f).card k = s.card k := rfl

@[simp] theorem State.card_updInlet (s : State) (c : Nat) (f : Inlet → Inlet) (k : Nat) :
    (s.updInlet c f).card k = s.card k := rfl

@[simp] theorem State.card_updStation (s : State) (i : Nat) (f : Station → Station) (k : Nat) :
    (s.updStation i f).card k = s.card k := rfl

@[simp] theorem State.card_updHousehold (s : State) (h : Nat) (f : Household → Household) (k : Nat) :
    (s.updHousehold h f).card k = s.card k := rfl

@[simp] theorem State.card_updRound (s : State) (r : Nat) (f : Round → Round) (k : Nat) :
    (s.updRound r f).card k = s.card k := rfl

@[simp] theorem State.card_updClass (s : State) (n : Nat) (f : NoticeClass → NoticeClass) (k : Nat) :
    (s.updClass n f).card k = s.card k := rfl

@[simp] theorem State.card_updLine (s : State) (l : Line) (f : LineState → LineState) (k : Nat) :
    (s.updLine l f).card k = s.card k := by cases l <;> rfl

@[simp] theorem State.card_updPlanner (s : State) (f : Planner → Planner) (k : Nat) :
    (s.updPlanner f).card k = s.card k := rfl

@[simp] theorem State.card_updWatch (s : State) (f : Watch → Watch) (k : Nat) :
    (s.updWatch f).card k = s.card k := rfl

@[simp] theorem State.card_updLink (s : State) (f : Endpoint → Endpoint) (k : Nat) :
    (s.updLink f).card k = s.card k := rfl

@[simp] theorem State.card_updPart (s : State) (f : Part → Part) (k : Nat) :
    (s.updPart f).card k = s.card k := rfl

@[simp] theorem State.card_updJournal (s : State) (f : Journal → Journal) (k : Nat) :
    (s.updJournal f).card k = s.card k := rfl

@[simp] theorem State.card_updPower (s : State) (f : Power → Power) (k : Nat) :
    (s.updPower f).card k = s.card k := rfl

@[simp] theorem State.noticeClass_updContainer (s : State) (c : Nat) (f : Container → Container) (k : Nat) :
    (s.updContainer c f).noticeClass k = s.noticeClass k := rfl

@[simp] theorem State.noticeClass_updFill (s : State) (c : Nat) (f : Fill → Fill) (k : Nat) :
    (s.updFill c f).noticeClass k = s.noticeClass k := rfl

@[simp] theorem State.noticeClass_updInlet (s : State) (c : Nat) (f : Inlet → Inlet) (k : Nat) :
    (s.updInlet c f).noticeClass k = s.noticeClass k := rfl

@[simp] theorem State.noticeClass_updStation (s : State) (i : Nat) (f : Station → Station) (k : Nat) :
    (s.updStation i f).noticeClass k = s.noticeClass k := rfl

@[simp] theorem State.noticeClass_updCard (s : State) (i : Nat) (f : Card → Card) (k : Nat) :
    (s.updCard i f).noticeClass k = s.noticeClass k := rfl

@[simp] theorem State.noticeClass_updHousehold (s : State) (h : Nat) (f : Household → Household) (k : Nat) :
    (s.updHousehold h f).noticeClass k = s.noticeClass k := rfl

@[simp] theorem State.noticeClass_updRound (s : State) (r : Nat) (f : Round → Round) (k : Nat) :
    (s.updRound r f).noticeClass k = s.noticeClass k := rfl

@[simp] theorem State.noticeClass_updLine (s : State) (l : Line) (f : LineState → LineState) (k : Nat) :
    (s.updLine l f).noticeClass k = s.noticeClass k := by cases l <;> rfl

@[simp] theorem State.noticeClass_updPlanner (s : State) (f : Planner → Planner) (k : Nat) :
    (s.updPlanner f).noticeClass k = s.noticeClass k := rfl

@[simp] theorem State.noticeClass_updWatch (s : State) (f : Watch → Watch) (k : Nat) :
    (s.updWatch f).noticeClass k = s.noticeClass k := rfl

@[simp] theorem State.noticeClass_updLink (s : State) (f : Endpoint → Endpoint) (k : Nat) :
    (s.updLink f).noticeClass k = s.noticeClass k := rfl

@[simp] theorem State.noticeClass_updPart (s : State) (f : Part → Part) (k : Nat) :
    (s.updPart f).noticeClass k = s.noticeClass k := rfl

@[simp] theorem State.noticeClass_updJournal (s : State) (f : Journal → Journal) (k : Nat) :
    (s.updJournal f).noticeClass k = s.noticeClass k := rfl

@[simp] theorem State.noticeClass_updPower (s : State) (f : Power → Power) (k : Nat) :
    (s.updPower f).noticeClass k = s.noticeClass k := rfl

/-- Two states with the same container table hold the same containers. -/
theorem State.container_congr {s t : State} (h : s.containers = t.containers) (c : Nat) :
    s.container c = t.container c := by unfold State.container; rw [h]

/-- Two states with the same station table hold the same stations. -/
theorem State.station_congr {s t : State} (h : s.stations = t.stations) (i : Nat) : s.station i = t.station i := by
  unfold State.station; rw [h]

/-- Two states with the same round table hold the same rounds. -/
theorem State.round_congr {s t : State} (h : s.rounds = t.rounds) (r : Nat) : s.round r = t.round r := by
  unfold State.round; rw [h]

/-- Two states with the same household table hold the same households. -/
theorem State.household_congr {s t : State} (h : s.households = t.households) (i : Nat) :
    s.household i = t.household i := by unfold State.household; rw [h]

/-- Two states with the same class table hold the same classes. -/
theorem State.noticeClass_congr {s t : State} (h : s.classes = t.classes) (n : Nat) :
    s.noticeClass n = t.noticeClass n := by unfold State.noticeClass; rw [h]

/-! ### A raise (R29): it touches the classes and the notice queue alone -/

@[simp] theorem State.raise_power (s : State) (n : Notice) (a : Option Nat) (v : Nat) :
    (s.raise n a v).power = s.power := by unfold State.raise; dsimp only; split_ifs <;> rfl

@[simp] theorem State.raise_part (s : State) (n : Notice) (a : Option Nat) (v : Nat) :
    (s.raise n a v).part = s.part := by unfold State.raise; dsimp only; split_ifs <;> rfl

@[simp] theorem State.raise_clock (s : State) (n : Notice) (a : Option Nat) (v : Nat) :
    (s.raise n a v).clock = s.clock := by unfold State.raise; dsimp only; split_ifs <;> rfl

@[simp] theorem State.raise_lineA (s : State) (n : Notice) (a : Option Nat) (v : Nat) :
    (s.raise n a v).lineA = s.lineA := by unfold State.raise; dsimp only; split_ifs <;> rfl

@[simp] theorem State.raise_lineB (s : State) (n : Notice) (a : Option Nat) (v : Nat) :
    (s.raise n a v).lineB = s.lineB := by unfold State.raise; dsimp only; split_ifs <;> rfl

@[simp] theorem State.raise_params (s : State) (n : Notice) (a : Option Nat) (v : Nat) :
    (s.raise n a v).params = s.params := by unfold State.raise; dsimp only; split_ifs <;> rfl

@[simp] theorem State.raise_stations (s : State) (n : Notice) (a : Option Nat) (v : Nat) :
    (s.raise n a v).stations = s.stations := by unfold State.raise; dsimp only; split_ifs <;> rfl

@[simp] theorem State.raise_banks (s : State) (n : Notice) (a : Option Nat) (v : Nat) :
    (s.raise n a v).banks = s.banks := by unfold State.raise; dsimp only; split_ifs <;> rfl

@[simp] theorem State.raise_fractions (s : State) (n : Notice) (a : Option Nat) (v : Nat) :
    (s.raise n a v).fractions = s.fractions := by unfold State.raise; dsimp only; split_ifs <;> rfl

@[simp] theorem State.raise_shapes (s : State) (n : Notice) (a : Option Nat) (v : Nat) :
    (s.raise n a v).shapes = s.shapes := by unfold State.raise; dsimp only; split_ifs <;> rfl

@[simp] theorem State.raise_containers (s : State) (n : Notice) (a : Option Nat) (v : Nat) :
    (s.raise n a v).containers = s.containers := by unfold State.raise; dsimp only; split_ifs <;> rfl

@[simp] theorem State.raise_cards (s : State) (n : Notice) (a : Option Nat) (v : Nat) :
    (s.raise n a v).cards = s.cards := by unfold State.raise; dsimp only; split_ifs <;> rfl

@[simp] theorem State.raise_households (s : State) (n : Notice) (a : Option Nat) (v : Nat) :
    (s.raise n a v).households = s.households := by unfold State.raise; dsimp only; split_ifs <;> rfl

@[simp] theorem State.raise_rounds (s : State) (n : Notice) (a : Option Nat) (v : Nat) :
    (s.raise n a v).rounds = s.rounds := by unfold State.raise; dsimp only; split_ifs <;> rfl

@[simp] theorem State.raise_journal (s : State) (n : Notice) (a : Option Nat) (v : Nat) :
    (s.raise n a v).journal = s.journal := by unfold State.raise; dsimp only; split_ifs <;> rfl

@[simp] theorem State.raise_planner (s : State) (n : Notice) (a : Option Nat) (v : Nat) :
    (s.raise n a v).planner = s.planner := by unfold State.raise; dsimp only; split_ifs <;> rfl

@[simp] theorem State.raise_watch (s : State) (n : Notice) (a : Option Nat) (v : Nat) :
    (s.raise n a v).watch = s.watch := by unfold State.raise; dsimp only; split_ifs <;> rfl

@[simp] theorem State.raise_flash (s : State) (n : Notice) (a : Option Nat) (v : Nat) :
    (s.raise n a v).flash = s.flash := by unfold State.raise; dsimp only; split_ifs <;> rfl

@[simp] theorem State.raise_draws (s : State) (n : Notice) (a : Option Nat) (v : Nat) :
    (s.raise n a v).draws = s.draws := by unfold State.raise; dsimp only; split_ifs <;> rfl

@[simp] theorem State.raise_pending (s : State) (n : Notice) (a : Option Nat) (v : Nat) :
    (s.raise n a v).pending = s.pending := by unfold State.raise; dsimp only; split_ifs <;> rfl

@[simp] theorem State.container_raise (s : State) (n : Notice) (a : Option Nat) (v i : Nat) :
    (s.raise n a v).container i = s.container i := by unfold State.container; rw [State.raise_containers]

@[simp] theorem State.station_raise (s : State) (n : Notice) (a : Option Nat) (v i : Nat) :
    (s.raise n a v).station i = s.station i := by unfold State.station; rw [State.raise_stations]

@[simp] theorem State.household_raise (s : State) (n : Notice) (a : Option Nat) (v i : Nat) :
    (s.raise n a v).household i = s.household i := by unfold State.household; rw [State.raise_households]

@[simp] theorem State.round_raise (s : State) (n : Notice) (a : Option Nat) (v i : Nat) :
    (s.raise n a v).round i = s.round i := by unfold State.round; rw [State.raise_rounds]

@[simp] theorem State.card_raise (s : State) (n : Notice) (a : Option Nat) (v i : Nat) :
    (s.raise n a v).card i = s.card i := by unfold State.card; rw [State.raise_cards]

end Sys2Proof.Machine
end

