-- ==== Sys2Proof/Laws/Choose.lean ====
section
/-! SUPPORT. What a line's choice of its next turn can do: everything that kick may change, said once. -/

namespace Sys2Proof.Machine

theorem InletCommand.markSent_markSent (c : InletCommand) : c.markSent.markSent = c.markSent := rfl

theorem onlyChose_refl (s : State) : s.onlyChose s := ⟨rfl, rfl, rfl, fun _ _ => rfl, fun _ => rfl⟩

theorem onlyChose_trans {s t u : State} (h : s.onlyChose t) (g : t.onlyChose u) : s.onlyChose u := by
  obtain ⟨h1, h2, h3, h4, h5⟩ := h
  obtain ⟨g1, g2, g3, g4, g5⟩ := g
  refine ⟨?_, g2.trans h2, g3.trans h3, fun n hn => (g4 n hn).trans (h4 n hn), fun c => (g5 c).trans (h5 c)⟩
  rw [← h1, ← g1]

theorem onlyChose_updWatch (s : State) (f : Watch → Watch) : s.onlyChose (s.updWatch f) :=
  ⟨rfl, rfl, rfl, fun _ _ => rfl, fun _ => rfl⟩

theorem onlyChose_updLine (s : State) (l : Line) (f : LineState → LineState) (h : ∀ d, (f d).relay = d.relay) :
    s.onlyChose (s.updLine l f) := by
  cases l
  · exact ⟨rfl, h _, rfl, fun _ _ => rfl, fun _ => rfl⟩
  · exact ⟨rfl, rfl, h _, fun _ _ => rfl, fun _ => rfl⟩

theorem onlyChose_raiseHeld (s : State) (i : Option Nat) (v : Nat) : s.onlyChose (s.raise .watchHeld i v) := by
  have hc : ∀ (f : NoticeClass → NoticeClass) n, n ≠ 23 → (s.updClass 23 f).noticeClass n = s.noticeClass n := by
    intro f n hn
    simp only [State.noticeClass, State.updClass]
    rw [Tab.get_set]
    simp [hn]
  unfold State.raise
  dsimp only [Notice.number]
  by_cases h1 : (s.noticeClass 23).priority = 0
  · rw [if_pos h1]
    exact ⟨rfl, rfl, rfl, hc _, fun _ => rfl⟩
  · rw [if_neg h1]
    by_cases h2 : s.link.notices.length < 16
    · rw [if_pos h2]
      exact ⟨rfl, rfl, rfl, hc (fun c => c.raised { subject := i, value := v } s.link.notices.length), fun _ => rfl⟩
    · rw [if_neg h2]
      exact ⟨rfl, rfl, rfl, hc _, fun _ => rfl⟩

theorem onlyChose_beginHold (s : State) (i : Nat) (p : Option Parked) (v : Nat) : s.onlyChose (s.beginHold i p v) :=
  onlyChose_trans (onlyChose_updWatch s _) (onlyChose_raiseHeld _ _ _)

theorem onlyChose_captureIf (s : State) (i : Nat) (f : Frame) : s.onlyChose (s.captureIf i f) := by
  unfold State.captureIf
  split_ifs
  · exact onlyChose_updWatch s _
  · exact onlyChose_refl s

theorem onlyChose_markSent (s : State) (c : Nat) :
    s.onlyChose (s.updInlet c (fun n => { n with command := n.command.map InletCommand.markSent })) := by
  refine ⟨rfl, rfl, rfl, fun _ _ => rfl, fun d => ?_⟩
  simp only [State.container, State.updInlet, State.updContainer]
  rw [Tab.get_set]
  by_cases h : d = c
  · subst h
    simp only [↓reduceIte, Container.asSent]
    cases (Tab.get Container.blank s.containers d).inlet.command <;> simp [InletCommand.markSent]
  · simp [h]

theorem onlyChose_send (s : State) (l : Line) (i : Nat) (todo : List Look) (what : Sent) (f : Frame) (b : Bool) :
    s.onlyChose (s.send l i todo what f b) := by
  unfold State.send
  cases what
  · exact onlyChose_trans (onlyChose_markSent s _) (onlyChose_updLine _ l _ (fun _ => rfl))
  all_goals exact onlyChose_updLine _ l _ (fun _ => rfl)

theorem onlyChose_presentFrame (s : State) (l : Line) (i : Nat) (todo : List Look) (what : Sent) (f : Frame) :
    s.onlyChose (s.presentFrame l i todo what f).1 := by
  unfold State.presentFrame
  split_ifs
  · exact onlyChose_send s ..
  · exact onlyChose_trans (onlyChose_updWatch s _) (onlyChose_send _ ..)
  · split
    · exact onlyChose_trans (onlyChose_captureIf s i f) (onlyChose_send _ ..)
    · exact onlyChose_trans (onlyChose_captureIf s i f) (onlyChose_send _ ..)
    · exact onlyChose_trans (onlyChose_captureIf s i f) (onlyChose_beginHold _ ..)

theorem onlyChose_sendNext (l : Line) (i : Nat) (ks : List Look) (s : State) :
    s.onlyChose (State.sendNext l i ks s).1 := by
  induction ks with
  | nil => exact onlyChose_refl s
  | cons k ks ih =>
    simp only [State.sendNext]
    split
    · exact ih
    · exact onlyChose_presentFrame s ..

theorem onlyChose_beginTurn (s : State) (l : Line) (i : Nat) (rot : Option Rotation) :
    s.onlyChose (s.beginTurn l i rot).1 := by
  refine onlyChose_trans (onlyChose_updLine s l _ ?_) (onlyChose_sendNext l i turnLooks _)
  intro d
  cases rot with
  | none => rfl
  | some r => cases r <;> rfl

theorem onlyChose_arbitrate (l : Line) (n : Nat) (s : State) : s.onlyChose (State.arbitrate l n s) := by
  induction n generalizing s with
  | zero => exact onlyChose_refl s
  | succ n ih =>
    simp only [State.arbitrate]
    split
    · exact onlyChose_refl s
    · split_ifs
      · exact onlyChose_beginTurn s ..
      · exact onlyChose_trans (onlyChose_beginTurn s ..) (ih _)

theorem onlyChose_kick (s : State) (l : Line) : s.onlyChose (s.kick l) := by
  unfold State.kick
  split_ifs
  · exact onlyChose_arbitrate l 2 s
  · exact onlyChose_refl s

theorem onlyChose_kickBoth (s : State) : s.onlyChose s.kickBoth :=
  onlyChose_trans (onlyChose_kick s .a) (onlyChose_kick _ .b)

theorem onlyChose_clearTurn (s : State) (l : Line) : s.onlyChose (s.clearTurn l) :=
  onlyChose_updLine s l _ (fun _ => rfl)

theorem onlyChose_stepRehold (s : State) (i : Nat) : s.onlyChose (s.stepRehold i) := by
  unfold State.stepRehold
  split_ifs
  · exact onlyChose_beginHold s ..
  · exact onlyChose_refl s

theorem onlyChose_holdIf (s : State) (i : Nat) (b : Bool) : s.onlyChose (s.holdIf i b) := by
  unfold State.holdIf
  split_ifs
  · exact onlyChose_beginHold s ..
  · exact onlyChose_refl s

theorem onlyChose_endTurn (s : State) (l : Line) (i : Nat) : s.onlyChose (s.endTurn l i) :=
  onlyChose_trans (onlyChose_clearTurn s l) (onlyChose_trans (onlyChose_stepRehold _ i) (onlyChose_kick _ l))

theorem onlyChose_continueTurn (s : State) (l : Line) (t : Turn) : s.onlyChose (s.continueTurn l t) := by
  unfold State.continueTurn
  dsimp only
  split_ifs
  · exact onlyChose_trans (onlyChose_clearTurn s l) (onlyChose_sendNext l _ _ _)
  · exact onlyChose_trans (onlyChose_trans (onlyChose_clearTurn s l) (onlyChose_sendNext l _ _ _))
      (onlyChose_endTurn _ l _)

end Sys2Proof.Machine
end

