-- ==== Sys2Proof/Laws/Small.lean ====
section
/-! SUPPORT. What a running part can do at all: every operation of the blocks is made of a few small updates, so a property
that each of them keeps is kept by every operation. -/

namespace Sys2Proof.Machine

/-- From one round to the other the configuration stays, and stops at most go or change in place. -/
def Round.keepsPlan (d e : Round) : Prop :=
  e.cfg = d.cfg ∧ (e.stops.map Stop.container).Sublist (d.stops.map Stop.container)

theorem Round.keepsPlan_of_stops {d e : Round} (h1 : e.cfg = d.cfg) (h2 : e.stops = d.stops) : d.keepsPlan e :=
  ⟨h1, by rw [h2]⟩

theorem Round.keepsPlan_of_map {d e : Round} (h1 : e.cfg = d.cfg)
    (h2 : e.stops.map Stop.container = d.stops.map Stop.container) : d.keepsPlan e := ⟨h1, by rw [h2]⟩

theorem map_container_modifyStop (f : Stop → Stop) (hf : ∀ p, (f p).container = p.container) (l : List Stop) (i : Nat) :
    (modifyStop f l i).map Stop.container = l.map Stop.container := by
  induction l generalizing i with
  | nil => rfl
  | cons p rest ih => cases i with
    | zero => simp [modifyStop, hf]
    | succ i => simp [modifyStop, ih]

theorem map_container_setStops (q : Stop → Bool) (st : StopState) (l : List Stop) :
    (setStops q st l).map Stop.container = l.map Stop.container := by
  unfold setStops; rw [List.map_map]; apply List.map_congr_left
  intro p _; simp only [Function.comp]; split <;> rfl

theorem Household.cfg_lazyReset (r : Household) (p : Nat) : (r.lazyReset p).cfg = r.cfg := by
  unfold Household.lazyReset; split <;> rfl

theorem Household.cfg_countDeposit (r : Household) (f : Fraction) (now p : Nat) : (r.countDeposit f now p).cfg = r.cfg := by
  unfold Household.countDeposit; dsimp only
  split
  · exact Household.cfg_lazyReset r now
  · exact Household.cfg_lazyReset r now

theorem Round.keepsPlan_skipPendingOf (d : Round) (c : Nat) : d.keepsPlan (d.skipPendingOf c) := by
  refine Round.keepsPlan_of_map rfl ?_
  unfold Round.skipPendingOf; rw [List.map_map]; apply List.map_congr_left
  intro p _; simp only [Function.comp]; split <;> rfl

theorem State.cfg_dropGrant (s : State) (c d : Nat) : ((s.dropGrant c).container d).cfg = (s.container d).cfg := by
  unfold State.dropGrant
  split
  · rfl
  · rename_i g hg
    have h1 : (((s.updInlet c (fun n => { n with grant := none })).unhold g.household g.fraction).unreserveIf
        g.reserved).containers = (s.updInlet c (fun n => { n with grant := none })).containers := by
      unfold State.unreserveIf State.unhold; split <;> split <;> rfl
    unfold State.container; rw [h1]
    show ((s.updInlet c (fun n => { n with grant := none })).container d).cfg = _
    rw [show s.updInlet c (fun n => { n with grant := none }) = s.updContainer c (fun k =>
      { k with inlet := { k.inlet with grant := none } }) from rfl, State.container_updContainer]
    split
    · rename_i e; rw [e]; rfl
    · rfl

/-- The small updates that leave every inlet and every configuration alone, but for the UNPLANNED stop that a service at a
present container puts in a round. A container changes with its due class kept, but for the four
operations that re-derive its due entry with it. A line's relay queue grows only by appendRelay, which is not among
them. A place in the relay queue to the center is taken, or kept by the watch, only while there is room (R11). -/
structure Quiet (P : State → Prop) : Prop where
  fillOnly : ∀ s c f, (∀ k, (f k).dueClass = k.dueClass) → (∀ k, (f k).inlet = k.inlet) →
    (∀ k, (f k).cfg = k.cfg) → P s → P (s.updContainer c f)
  setStatus : ∀ s c st n, P s → P (s.setStatus c st n)
  setForced : ∀ s c b, P s → P (s.setForced c b)
  setMissed : ∀ s c, P s → P (s.setMissed c)
  clearMarks : ∀ s c, P s → P (s.clearMarks c)
  station : ∀ s i f, (∀ k, (f k).cfg = k.cfg) → P s → P (s.updStation i f)
  card : ∀ s i f, (∀ k, (f k).cfg = k.cfg) → P s → P (s.updCard i f)
  household : ∀ s i f, (∀ k, (f k).cfg = k.cfg) → P s → P (s.updHousehold i f)
  round : ∀ s r f, (∀ d : Round, d.keepsPlan (f d)) → P s → P (s.updRound r f)
  appendStop : ∀ s c i r, (s.container c).cfg.present = true → s.appendRound c i = some r → P s →
    P (s.updRound r (fun d => { d with stops := d.stops ++
      [{ container := c, state := some .servicing, origin := .unplanned, doneTime := none }] }))
  rounds : ∀ s f, (∀ r, f r Round.blank = Round.blank) → (∀ r (d : Round), d.keepsPlan (f r d)) → P s → P { s with rounds := Tab.map Round.blank f s.rounds }
  planner : ∀ s f, (∀ p, (f p).due = p.due) → P s → P (s.updPlanner f)
  watch : ∀ s f, (f s.watch).keptPlaces ≤ s.watch.keptPlaces ∨ s.centerPlaces < 8 → P s → P (s.updWatch f)
  line : ∀ s l f, (∀ d, (f d).relay.length ≤ d.relay.length) → P s → P (s.updLine l f)
  journal : ∀ s f, P s → P (s.updJournal f)
  raise : ∀ s n a v, P s → P (s.raise n a v)
  toCenter : ∀ s i f, s.centerPlaces < 8 → P s → P (s.relayMaint i f)
  /-- A parked STATION_MAINT leaves the watch and takes the place kept for it. -/
  takeParked : ∀ s p, s.watch.parked = some p → p.keepsPlace = true → P s →
    P ((s.updWatch (fun w => { w with parked := none })).relayMaint p.station p.frame)

/-- The small updates a property of a running part must be kept under: the quiet ones, and any change of an inlet. No
configuration changes. -/
structure Small (P : State → Prop) : Prop extends Quiet P where
  containers : ∀ s f, (∀ c, f c Container.blank = Container.blank) → (∀ c k, (f c k).dueClass = k.dueClass) →
    (∀ c k, (f c k).cfg = k.cfg) → P s →
    P { s with containers := Tab.map Container.blank f s.containers }
  container : ∀ s c f, (∀ k, (f k).dueClass = k.dueClass) → (∀ k, (f k).cfg = k.cfg) → P s → P (s.updContainer c f)

/-- A container's due class is a matter of its present field, its fill status and its two marks alone (R130). -/
theorem Container.dueClass_congr {k l : Container} (h1 : k.cfg.present = l.cfg.present)
    (h2 : k.fill.status = l.fill.status) (h3 : k.missed = l.missed) (h4 : k.forced = l.forced) :
    k.dueClass = l.dueClass := by
  unfold Container.dueClass; rw [h1, h2, h3, h4]

/-- Aging a parked frame keeps the place kept for it. -/
theorem Watch.keptPlaces_second (w : Watch) : w.second.keptPlaces = w.keptPlaces := by
  unfold Watch.keptPlaces Watch.second
  cases w.parked <;> rfl

@[simp] theorem State.centerPlaces_captureIf (s : State) (i : Nat) (f : Frame) :
    (s.captureIf i f).centerPlaces = s.centerPlaces := by
  unfold State.captureIf; split <;> rfl

/-- Only a STATION_MAINT reads as one (R3). -/
theorem kind_of_parseItem_maint {kind : Byte} {p q : List Byte} (h : parseItem kind p = some (.maint q)) :
    kind = kindStationMaint := by
  unfold parseItem at h
  split at h
  case h_6 hk => exact BitVec.eq_of_toNat_eq hk
  all_goals
    first
    | (unfold parseCard at h; repeat' split at h) <;> simp at h
    | (unfold parseEcho at h; repeat' split at h) <;> simp at h
    | (repeat' split at h) <;> simp at h

namespace Quiet

variable {P : State → Prop} (h : Quiet P) {s : State} (hs : P s)
include h hs

omit h in
theorem foldl {α : Type} (g : State → α → State) (hg : ∀ t a, P t → P (g t a)) (l : List α) : P (l.foldl g s) := by
  induction l generalizing s with
  | nil => exact hs
  | cons a rest ih => exact ih (hg s a hs)

theorem fill (c : Nat) (f : Fill → Fill) (hf : ∀ k, (f k).status = k.status := by intro; rfl) : P (s.updFill c f) :=
  h.fillOnly s c _ (fun _ => Container.dueClass_congr rfl (hf _) rfl rfl) (fun _ => rfl) (fun _ => rfl) hs

theorem lazyReset (i : Nat) : P (s.lazyReset i) :=
  h.household s i _ (by intro _; exact Household.cfg_lazyReset _ _) hs

theorem unhold (i : Option Nat) (f : Fraction) : P (s.unhold i f) := by
  cases i with
  | none => exact hs
  | some i => exact h.household s i (fun r => r.unhold f) (by intro _; rfl) hs

theorem unreserveIf (b : Bool) : P (s.unreserveIf b) := by
  unfold State.unreserveIf; split
  · exact h.journal s _ hs
  · exact hs

theorem rollover (old : Nat) : P (s.rollover old) := by
  unfold State.rollover; split
  · exact hs
  · exact h.raise s _ _ _ hs

theorem writeRecord (r : JournalRecord) : P (s.writeRecord r) := by
  unfold State.writeRecord; dsimp only; split
  · exact h.raise _ _ _ _ (h.journal s _ hs)
  · exact h.journal s _ hs

theorem writeReserved (r : JournalRecord) : P (s.writeReserved r) := h.writeRecord (h.journal s _ hs) r

theorem setStop (r i : Nat) (st : StopState) : P (s.setStop r i st) :=
  h.round s r _ (by intro _; exact Round.keepsPlan_of_map rfl (map_container_modifyStop _ (by intro _; rfl) _ _)) hs

theorem doneStop (r i : Nat) : P (s.doneStop r i) :=
  h.round s r _ (by intro _; exact Round.keepsPlan_of_map rfl (map_container_modifyStop _ (by intro _; rfl) _ _)) hs

theorem reportMissed (r c : Nat) : P (s.reportMissed r c) := h.raise _ _ _ _ (h.setMissed _ _ hs)

theorem returnStop (c : Nat) (place : Option (Nat × Nat)) (why : WorkEnd) : P (s.returnStop c place why) := by
  unfold State.returnStop
  split
  · exact hs
  · split
    · exact h.setStop hs _ _ _
    · split
      · exact h.reportMissed (h.setStop hs _ _ _) _ _
      · exact h.setStop hs _ _ _
    · exact hs

theorem completeStop (c : Nat) (place : Option (Nat × Nat)) : P (s.completeStop c place) := by
  unfold State.completeStop
  split
  · split
    · exact h.doneStop hs _ _
    · exact hs
  · split
    · exact h.doneStop hs _ _
    · exact hs

theorem skipPendingOf (c : Nat) : P (s.skipPendingOf c) := by
  exact h.rounds s _ (fun _ => rfl) (fun _ d => d.keepsPlan_skipPendingOf c) hs

theorem requestDue (c : Nat) : P (s.requestDue c) := by
  unfold State.requestDue; dsimp only; split
  · exact hs
  · exact h.fill hs _ _

theorem endOutstanding (i : Nat) : P (s.endOutstanding i) :=
  Quiet.foldl hs _ (fun _ _ ht => by
    refine h.fillOnly _ _ _ ?_ ?_ ?_ ht
    · exact fun _ => rfl
    · exact fun _ => rfl
    · exact fun _ => rfl) _

theorem acknowledgeSample (c : Nat) : P (s.acknowledgeSample c) := h.fill hs _ _

theorem raiseIf (n : Option Notice) (a : Option Nat) (v : Nat) : P (s.raiseIf n a v) := by
  cases n with
  | none => exact hs
  | some k => exact h.raise s _ _ _ hs

theorem evaluate (c : Nat) : P (s.evaluate c) := by
  unfold State.evaluate; dsimp only; split
  · exact h.setStatus _ _ _ _ hs
  · exact h.raiseIf (h.setStatus _ _ _ _ hs) _ _ _

theorem makeUnknown (c : Nat) : P (s.makeUnknown c) := h.requestDue (h.evaluate (h.fill hs _ _) _) _

theorem tippedFill (c : Nat) : P (s.tippedFill c) := h.requestDue (h.setStatus _ _ _ _ (h.fill hs _ _)) _

theorem reportTurns (c n : Nat) : P (s.reportTurns c n) := by
  unfold State.reportTurns; dsimp only; split
  · exact hs
  · have key : P (match (s.container c).fill.estimate with
        | none => s.updFill c (fun f => { f with deposits := min 65535 ((s.container c).fill.deposits + n) })
        | some e =>
          ((s.updFill c (fun f => { f with deposits := min 65535 ((s.container c).fill.deposits + n) })).updFill c
            (fun f => { f with estimate := (some
              (min (e + n * (s.fraction (s.container c).cfg.fraction).nominal) (s.container c).cfg.cap)) })).evaluate c) := by
      split
      · exact h.fill hs _ _
      · exact h.evaluate (h.fill (h.fill hs _ _) _ _) _
    split
    · exact h.requestDue key _
    · exact key

theorem invalidSample (c : Nat) : P (s.invalidSample c) := by
  unfold State.invalidSample; dsimp only; split
  · exact h.raise _ _ _ _ (h.fill hs _ _)
  · exact h.fill hs _ _

theorem fuseSample (c tof : Nat) (temperature : Int) : P (s.fuseSample c tof temperature) := by
  unfold State.fuseSample; dsimp only
  split
  · exact h.evaluate (h.fill (h.raise _ _ _ _ (h.fill hs _ _)) _ _) _
  · exact h.evaluate (h.fill (h.fill hs _ _) _ _) _

theorem validSample (c tof : Nat) (temperature : Int) : P (s.validSample c tof temperature) := by
  unfold State.validSample; dsimp only
  split
  · split
    · exact h.raise _ _ _ _ (h.fill hs _ _)
    · exact h.fuseSample (h.fill hs _ _) _ _ _
  · split
    · exact h.raise _ _ _ _ (h.fill hs _ _)
    · exact h.fuseSample (h.fill hs _ _) _ _ _

theorem echoSample (c tof quality : Nat) (temperature : Int) : P (s.echoSample c tof quality temperature) := by
  unfold State.echoSample; dsimp only
  have h1 := h.fill hs c (fun f =>
    { f with request := f.request.answered (s.container c).cfg.present (s.container c).fill.sensor
              (s.container c).inlet.state })
  split_ifs
  · exact h1
  · exact h1
  · exact h1
  · exact h.invalidSample h1 _
  · exact h.validSample h1 _ _ _

theorem requestTurn (i : Nat) : P (s.requestTurn i) := by
  unfold State.requestTurn; split
  · exact hs
  · refine h.line s _ _ (fun d => ?_) hs
    split <;> exact le_refl _

theorem see (i c : Nat) (code : DisplayCode) : P (s.see i c code) := by
  unfold State.see; split
  · exact hs
  · exact h.card s _ _ (by intro _; rfl) hs

theorem matchRound (c i : Nat) (hp : (s.container c).cfg.present = true) : P (s.matchRound c i).1 := by
  unfold State.matchRound
  split
  · exact h.setStop hs _ _ _
  · split
    · rename_i r hr
      exact h.appendStop s c i r hp hr hs
    · exact hs

theorem emptied (c : Nat) : P (s.emptied c) := h.clearMarks _ _ (h.tippedFill hs _)

theorem passStatus (i : Nat) (f : Frame) : P (s.passStatus i f) := by
  unfold State.passStatus
  split
  · exact hs
  · exact h.station s _ _ (by intro _; rfl) hs

theorem captureIf (i : Nat) (f : Frame) : P (s.captureIf i f) := by
  unfold State.captureIf; split
  · exact h.watch s _ (Or.inl (le_refl _)) hs
  · exact hs

/-- A hold begins, with a STATION_MAINT parked only while there is room for it. -/
theorem beginHold (i : Nat) (p : Option Parked) (v : Nat)
    (hp : p.any Parked.keepsPlace = true → s.centerPlaces < 8 := by intro h; cases h) : P (s.beginHold i p v) := by
  refine h.raise _ _ _ _ (h.watch s _ ?_ hs)
  by_cases hk : p.any Parked.keepsPlace = true
  · exact Or.inr (hp hk)
  · left; simp [Watch.keptPlaces, hk]

theorem discardParked (p : Parked) : P (s.discardParked p).1 := by
  unfold State.discardParked
  split
  · exact hs
  · exact h.line s _ (fun l => { l with relay := l.relay.filter _ }) (fun _ => List.length_filter_le _ _) hs
  · exact h.watch s (fun w => { w with pass := _ }) (Or.inl (le_refl _)) hs

theorem release (m : Option Nat) : P (s.release m) := h.watch s _ (Or.inl (le_refl _)) hs

theorem dropRelay (i : Nat) : P (s.dropRelay i) := h.line s _ _ (fun _ => List.length_filter_le _ _) hs

theorem oweAccept (i : Nat) (b : Bool) : P (s.oweAccept i b) := h.station s _ _ (by intro _; rfl) hs

theorem clearTurn (l : Line) : P (s.clearTurn l) := h.line s _ _ (fun _ => le_refl _) hs

theorem stepRehold (i : Nat) : P (s.stepRehold i) := by
  unfold State.stepRehold; split
  · exact h.beginHold hs _ _ _
  · exact hs

theorem holdIf (i : Nat) (b : Bool) : P (s.holdIf i b) := by
  unfold State.holdIf; split
  · exact h.beginHold hs _ _ _
  · exact hs

theorem refusedPassesWatch (i : Nat) (f : Frame) : P (s.refusedPassesWatch i f) := by
  unfold State.refusedPassesWatch; dsimp only
  have h1 := h.captureIf hs i f
  split
  · exact h1
  · exact h.beginHold h1 _ _ _
  · exact h.beginHold h1 _ _ _

theorem dropTurn (i : Nat) : P (s.dropTurn i) := by
  refine h.line s _ _ (fun d => ?_) hs
  split
  · split <;> exact le_refl _
  · exact le_refl _

theorem releaseRound (r : Nat) : P (s.releaseRound r) := by
  unfold State.releaseRound; dsimp only
  split
  · refine h.round s _ _ (fun d => ⟨rfl, ?_⟩) hs
    rw [List.map_map]
    exact (List.filter_sublist.map _)
  · exact hs

theorem closeRound (r : Nat) : P (s.closeRound r) :=
  h.raise _ _ _ _ (h.round s _ _ (by intro _; exact Round.keepsPlan_of_stops rfl rfl) hs)

theorem leaveActive (r : Nat) (cause : ClosingCause) : P (s.leaveActive r cause) := by
  unfold State.leaveActive; split
  · exact h.round s _ _ (by intro _; exact Round.keepsPlan_of_stops rfl rfl) hs
  · exact h.closeRound hs _

theorem takeClose (r : Nat) : P (s.takeClose r) := by
  unfold State.takeClose; split
  · exact h.leaveActive (h.round s _ _ (by intro _; exact Round.keepsPlan_of_map rfl (map_container_setStops _ _ _)) hs) _ _
  · exact hs

theorem takeDeadline (r : Nat) : P (s.takeDeadline r) :=
  h.leaveActive (Quiet.foldl (h.round s _ _ (by intro _; exact Round.keepsPlan_of_map rfl (map_container_setStops _ _ _)) hs) _ (fun _ _ ht => h.reportMissed ht _ _) _) _ _

theorem checkRound (r : Nat) : P (s.checkRound r) := by
  unfold State.checkRound; split_ifs
  · exact h.closeRound hs _
  · exact h.takeDeadline hs _
  · exact hs

theorem checkClosing (r : Nat) : P (s.checkClosing r) := by
  unfold State.checkClosing; split
  · exact h.closeRound hs _
  · exact hs

theorem checkStanding (r : Nat) : P (s.checkStanding r) := by
  unfold State.checkStanding; split
  · exact h.releaseRound hs _
  · exact hs

theorem endTick : P s.endTick := h.planner s _ (fun _ => rfl) hs

theorem outstandingExpired (c : Nat) : P (s.outstandingExpired c) := by
  unfold State.outstandingExpired; dsimp only
  split
  · exact h.invalidSample (h.fill hs _ _) _
  · exact h.fill hs _ _

theorem countdownExpired (c : Nat) : P (s.countdownExpired c) := h.fill (h.requestDue hs _) _ _

theorem clearSensor (c : Nat) : P (s.clearSensor c) := by
  unfold State.clearSensor; dsimp only
  split
  · exact h.fill hs _ _
  · exact h.requestDue (h.fill hs _ _) _

theorem setWatch (k : KeyKind) (v : Nat) (filter : BitVec 7) (a : WatchAction) : P (s.setWatch k v filter a) :=
  h.watch s _ (Or.inl (le_refl _)) hs

theorem fillAbsent (c : Nat) : P (s.fillAbsent c) := h.evaluate (h.fill hs _ _) _

theorem keepPresent (c : Nat) (old new : ContainerCfg) : P (s.keepPresent c old new) := by
  have h1 : P (if old.sampleInterval = new.sampleInterval then s
      else s.updFill c (fun f => f.limitCountdown new.sampleInterval)) := by
    split
    · exact hs
    · exact h.fill hs _ _
  unfold State.keepPresent; dsimp only
  split
  · exact h1
  · exact h.makeUnknown h1 _

end Quiet

namespace Small

variable {P : State → Prop} (h : Small P) {s : State} (hs : P s)
include h hs

theorem inlet (c : Nat) (f : Inlet → Inlet) : P (s.updInlet c f) := h.container s c _ (by intro _; rfl) (by intro _; rfl) hs

theorem setInlet (c : Nat) (st : InletState) : P (s.setInlet c st) :=
  h.container s c _ (by intro _; rfl) (by intro _; rfl) hs

theorem setCommand (c : Nat) (a : InletAction) (w : Nat) (code : DisplayCode) (v : Nat) :
    P (s.setCommand c a w code v) := h.toQuiet.requestTurn (h.inlet hs _ _) _

theorem lockClosed (c : Nat) : P (s.lockClosed c) := h.setCommand hs _ _ _ _ _

theorem shown (c : Nat) (code : DisplayCode) (v : Nat) : P (s.show c code v) := by
  unfold State.show
  split
  · split
    · exact h.setCommand hs _ _ _ _ _
    · exact hs
  · exact h.setCommand hs _ _ _ _ _

theorem dropGrant (c : Nat) : P (s.dropGrant c) := by
  unfold State.dropGrant
  split
  · exact hs
  · exact h.toQuiet.unreserveIf (h.toQuiet.unhold (h.inlet hs _ _) _ _) _

theorem grantLost (c : Nat) : P (s.grantLost c) := h.lockClosed (h.setInlet (h.dropGrant hs _) _ _) _

theorem endWork (c : Nat) (why : WorkEnd) : P (s.endWork c why) := by
  unfold State.endWork
  split
  · exact hs
  · exact h.inlet (h.toQuiet.unreserveIf (h.toQuiet.returnStop hs _ _ _) _) _ _

theorem crewLost (c : Nat) (why : WorkEnd) : P (s.crewLost c why) :=
  h.toQuiet.makeUnknown (h.lockClosed (h.setInlet (h.endWork hs _ _) _ _) _) _

theorem putBar (c : Nat) (r : BarReason) (v : Bool) : P (s.putBar c r v) := h.inlet hs _ _

theorem addBar (c : Nat) (r : BarReason) : P (s.addBar c r) := by
  unfold State.addBar; dsimp only
  have h1 := h.putBar hs c r true
  split
  · exact hs
  · split
    · exact h.setInlet h1 _ _
    · exact h.grantLost h1 _
    · exact h1
    · split
      · exact h.crewLost h1 _ _
      · exact h1
    · split
      · exact h.crewLost h1 _ _
      · exact h1
    · split
      · exact h.setInlet (h.inlet h1 _ _) _ _
      · exact h1

theorem removeBar (c : Nat) (r : BarReason) : P (s.removeBar c r) := by
  unfold State.removeBar; dsimp only
  have h1 := h.putBar hs c r false
  split
  · exact hs
  · split
    · exact h.setInlet h1 _ _
    · exact h1

theorem toRest (c : Nat) : P (s.toRest c) := h.setInlet hs _ _

theorem addBars (i : Nat) (r : BarReason) : P (s.addBars i r) := Quiet.foldl hs _ (fun _ _ ht => h.addBar ht _ _) _

theorem removeBars (i : Nat) (r : BarReason) : P (s.removeBars i r) :=
  Quiet.foldl hs _ (fun _ _ ht => h.removeBar ht _ _) _

/-! ### Cards, grants and services -/

theorem refuseSeen (i c : Nat) (code : DisplayCode) (v : Nat) : P (s.refuseSeen i c code v) :=
  h.shown (h.toQuiet.see hs _ _ _) _ _ _

theorem openGrant (c i : Nat) (hh : Option Nat) (b : Bool) (v : Nat) : P (s.openGrant c i hh b v) :=
  h.setCommand (h.setInlet (h.inlet hs _ _) _ _) _ _ _ _ _

theorem grant (c i hh : Nat) : P (s.grant c i hh) := by
  unfold State.grant; dsimp only
  split
  · exact h.toQuiet.see (h.openGrant (h.household _ _ _ (by intro _; rfl) (h.journal s _ hs)) _ _ _ _ _) _ _ _
  · exact h.toQuiet.see (h.openGrant (h.household _ _ _ (by intro _; rfl) hs) _ _ _ _ _) _ _ _

theorem quotaAndRoom (c i hh : Nat) : P (s.quotaAndRoom c i hh) := by
  unfold State.quotaAndRoom; dsimp only
  have h1 := h.toQuiet.lazyReset hs hh
  split
  · exact h.refuseSeen h1 _ _ _ _
  · split
    · exact h.raise _ _ _ _ (h.refuseSeen h1 _ _ _ _)
    · exact h.grant h1 _ _ _

theorem residentDecision (c i : Nat) : P (s.residentDecision c i) := by
  unfold State.residentDecision; dsimp only
  split
  · exact h.refuseSeen hs _ _ _ _
  · split
    · exact h.refuseSeen hs _ _ _ _
    · split
      · exact h.refuseSeen hs _ _ _ _
      · exact h.quotaAndRoom hs _ _ _

theorem openDecision (c i : Nat) : P (s.openDecision c i) := by
  unfold State.openDecision
  split
  · exact h.refuseSeen hs _ _ _ _
  · exact h.openGrant hs _ _ _ _ _

theorem openService (c i : Nat) (place : Option (Nat × Nat)) (b : Bool) : P (s.openService c i place b) :=
  h.setCommand (h.setInlet (h.inlet hs _ _) _ _) _ _ _ _ _

theorem serviceRoom (c i : Nat) (cut : Bool) (hp : (s.container c).cfg.present = true) : P (s.serviceRoom c i cut) := by
  unfold State.serviceRoom; dsimp only
  split
  · exact h.openService hs _ _ _ _
  · split
    · have h1 := h.raise _ .journalFull (some 1024) c (h.toQuiet.see hs i c .journalFull)
      split
      · exact h.lockClosed (h.setInlet h1 _ _) _
      · exact h.shown h1 _ _ _
    · exact h.toQuiet.see (h.openService (h.toQuiet.matchRound (h.journal s _ hs) _ _ hp) _ _ _ _) _ _ _

theorem restartService (c i : Nat) (v : Service) : P (s.restartService c i v) :=
  h.toQuiet.see (h.setCommand (h.inlet hs _ _) _ _ _ _ _) _ _ _

theorem crewDecision (c i : Nat) (hp : (s.container c).cfg.present = true) : P (s.crewDecision c i) := by
  unfold State.crewDecision; dsimp only
  split
  · exact h.refuseSeen hs _ _ _ _
  · exact h.refuseSeen hs _ _ _ _
  · exact h.refuseSeen hs _ _ _ _
  · split
    · split
      · exact h.restartService hs _ _ _
      · exact h.refuseSeen hs _ _ _ _
    · exact h.refuseSeen hs _ _ _ _
  · exact h.serviceRoom hs _ _ _ hp
  · exact h.serviceRoom (h.dropGrant hs _) _ _ _ (by rw [State.cfg_dropGrant]; exact hp)

theorem cardShown (i c : Nat) (b : Bool) (n age : Nat) : P (s.cardShown i c b n age) := by
  unfold State.cardShown; dsimp only
  split
  · exact h.shown hs _ _ _
  · rename_i hp
    replace hp : (s.container c).cfg.present = true := by simpa [State.present] using hp
    split
    · split
      · exact h.shown (h.raise _ _ _ _ hs) _ _ _
      · exact h.shown hs _ _ _
    · split_ifs
      · exact h.refuseSeen hs _ _ _ _
      · exact h.crewDecision hs _ _ hp
      · exact h.openDecision hs _ _
      · exact h.crewDecision hs _ _ hp
      · exact h.refuseSeen hs _ _ _ _
      · exact h.residentDecision hs _ _

/-! ### The drum -/

theorem closeGrant (c : Nat) (g : Grant) : P (s.closeGrant c g) := by
  have h1 : P (match g.household with
      | some k => s.updHousehold k (fun r => r.countDeposit g.fraction s.period g.period)
      | none => s) := by
    split
    · exact h.household s _ _ (by intro _; exact Household.cfg_countDeposit _ _ _ _) hs
    · exact hs
  unfold State.closeGrant; dsimp only
  split
  · exact h.setCommand (h.setInlet (h.inlet (h.toQuiet.writeReserved h1 _) _ _) _ _) _ _ _ _ _
  · exact h.setCommand (h.setInlet (h.inlet h1 _ _) _ _) _ _ _ _ _

theorem unattributedTurns (c u : Nat) : P (s.unattributedTurns c u) := by
  unfold State.unattributedTurns; split
  · exact hs
  · exact h.raise _ _ _ _ (h.inlet hs _ _)

theorem shareTurns (c n : Nat) : P (s.shareTurns c n) := by
  unfold State.shareTurns; dsimp only
  split
  · exact h.toQuiet.reportTurns (h.unattributedTurns (h.closeGrant hs _ _) _ _) _ _
  · exact h.toQuiet.reportTurns (h.unattributedTurns hs _ _) _ _

theorem depositDone (c count : Nat) : P (s.depositDone c count) := by
  unfold State.depositDone; dsimp only
  have h1 := h.inlet hs c (fun k => { k with lastDrum := some count })
  split_ifs
  · exact h1
  · exact h1
  · exact h.shareTurns h1 _ _

/-! ### Lifts -/

theorem startSettling (c : Nat) : P (s.startSettling c) := h.setInlet (h.inlet hs _ _) _ _

theorem authorizedLift (c : Nat) (v : Service) : P (s.authorizedLift c v) := h.setInlet (h.inlet hs _ _) _ _

theorem unplannedLift (c : Nat) : P (s.unplannedLift c) := by
  unfold State.unplannedLift; dsimp only
  split
  · exact h.raise _ _ _ _ (h.setInlet (h.inlet (h.journal s _ hs) _ _) _ _)
  · exact h.raise _ _ _ _ (h.setInlet (h.inlet (h.raise s _ _ _ hs) _ _) _ _)

theorem liftBegun (i c : Nat) : P (s.liftBegun i c) := by
  unfold State.liftBegun
  split
  · exact hs
  · split
    · split
      · exact h.authorizedLift hs _ _
      · exact hs
    · exact hs
    · exact h.unplannedLift (h.lockClosed (h.dropGrant hs _) _) _
    · exact h.unplannedLift hs _
    · exact h.unplannedLift hs _
    · exact h.unplannedLift hs _

theorem liftTipped (c : Nat) (v : Service) : P (s.liftTipped c v) := by
  unfold State.liftTipped; dsimp only
  have h1 := h.toQuiet.completeStop hs c v.place
  split
  · exact h.toQuiet.emptied (h.lockClosed (h.startSettling (h.putBar (h.inlet (h.toQuiet.writeReserved h1 _) _ _) _ _ _) _) _) _
  · exact h.toQuiet.emptied (h.lockClosed (h.startSettling (h.putBar (h.inlet h1 _ _) _ _ _) _) _) _

theorem liftUntipped (c : Nat) : P (s.liftUntipped c) :=
  h.lockClosed (h.startSettling (h.putBar (h.endWork hs _ _) _ _ _) _) _

theorem lateEnd (c : Nat) (b : Bool) : P (s.lateEnd c b) := by
  unfold State.lateEnd; dsimp only
  have h1 := h.putBar hs c .liftOpen false
  split
  · split
    · exact h.toQuiet.emptied (h.startSettling (h.toQuiet.writeRecord (h.toQuiet.completeStop h1 _ _) _) _) _
    · exact h.toQuiet.emptied (h.startSettling (h.raise _ _ _ _ (h.toQuiet.completeStop h1 _ _)) _) _
  · exact h.startSettling h1 _

theorem liftEnded (i c : Nat) (b : Bool) : P (s.liftEnded i c b) := by
  unfold State.liftEnded
  split
  · exact hs
  · split
    · split
      · split
        · exact h.liftTipped hs _ _
        · exact h.liftUntipped hs _
      · exact hs
    · split
      · exact h.lateEnd hs _ _
      · exact hs
    · exact hs

theorem serviceExpired (c : Nat) : P (s.serviceExpired c) := h.lockClosed (h.toRest (h.endWork hs _ _) _) _

theorem liftExpired (c : Nat) : P (s.liftExpired c) :=
  h.toQuiet.makeUnknown (h.lockClosed (h.setInlet (h.putBar (h.endWork (h.raise _ _ _ _ hs) _ _) _ _ _) _ _) _) _

theorem settled (c : Nat) : P (s.settled c) := h.toRest (h.inlet hs _ _) _

/-! ### The watch and the frames it lets pass -/

theorem passItem (i : Nat) (f : Frame) (age : Nat) (hm : f.kind = kindStationMaint → s.centerPlaces < 8) :
    P (s.passItem i f age) := by
  unfold State.passItem
  split
  · exact hs
  · exact h.cardShown hs _ _ _ _ _
  · exact h.depositDone hs _ _
  · exact h.toQuiet.echoSample hs _ _ _ _
  · exact h.liftBegun hs _ _
  · exact h.liftEnded hs _ _ _
  · rename_i hp; exact h.toCenter s _ _ (hm (kind_of_parseItem_maint hp)) hs

theorem passFrame (i : Nat) (f : Frame) (age : Nat) (hm : f.kind = kindStationMaint → s.centerPlaces < 8) :
    P (s.passFrame i f age) := by
  unfold State.passFrame; split
  · exact h.toQuiet.passStatus hs _ _
  · exact h.passItem hs _ _ _ hm

omit h hs in
/-- A STATION_MAINT is passed to the relay queue to the center, whatever its age (R11). -/
theorem passFrame_maint (i : Nat) (f : Frame) (age : Nat) (hk : f.kind = kindStationMaint) :
    s.passFrame i f age = s.relayMaint i f := by
  have h1 : kindStationMaint ≠ kindStationStatus := by decide
  simp only [State.passFrame, hk, h1, if_false, State.passItem]
  rfl

theorem dealParked (m : ResumeMode) : P (s.dealParked m).1 := by
  have h1 := h.watch s (fun w => { w with parked := none }) (Or.inl (Nat.zero_le _)) hs
  unfold State.dealParked; dsimp only
  split
  · exact h1
  · rename_i p hp
    split
    · exact h.toQuiet.discardParked h1 _
    · unfold State.resumeParked
      split
      · rename_i hr
        by_cases hk : p.frame.kind = kindStationMaint
        · rw [passFrame_maint _ _ _ hk]
          exact h.takeParked s p hp (by simp [Parked.keepsPlace, hr, hk]) hs
        · exact h.passFrame h1 _ _ _ (fun e => absurd e hk)
      · exact h.watch _ (fun w => { w with pass := _ }) (Or.inl (le_refl _)) h1

/-! ### The lines -/

theorem becomeLost (i : Nat) : P (s.becomeLost i) :=
  h.raise _ _ _ _ (h.toQuiet.endOutstanding (h.toQuiet.dropRelay (h.addBars (h.station s _ _ (by intro _; rfl) hs) _ _) _) _)

theorem miss (i : Nat) : P (s.miss i) := by
  unfold State.miss; dsimp only
  split
  · exact h.station s _ _ (by intro _; rfl) hs
  · exact hs
  · exact hs
  · split
    · exact h.becomeLost hs _
    · exact h.station s _ _ (by intro _; rfl) hs

theorem goodFrame (i : Nat) : P (s.goodFrame i) := by
  have h1 := h.station s i (fun t => { t with state := .online, missCount := 0, seen := true }) (by intro _; rfl) hs
  have h2 := h.raise _ .stationBack (some i) 0 (h.removeBars h1 i .stationLost)
  unfold State.goodFrame; dsimp only
  by_cases hl : (s.station i).state = .lost <;> by_cases hn : (s.station i).seen = true <;>
    simp only [hl, hn, if_true, if_false, Bool.false_eq_true]
  · exact h2
  · exact h.removeBars h2 _ _
  · exact h1
  · exact h.removeBars h1 _ _

theorem send (l : Line) (i : Nat) (todo : List Look) (what : Sent) (f : Frame) (b : Bool) :
    P (s.send l i todo what f b) := by
  unfold State.send; dsimp only
  refine h.line _ _ _ (fun _ => le_refl _) ?_
  split
  · exact h.inlet hs _ _
  · exact hs

theorem presentFrame (l : Line) (i : Nat) (todo : List Look) (what : Sent) (f : Frame) :
    P (s.presentFrame l i todo what f).1 := by
  unfold State.presentFrame; dsimp only
  split
  · exact h.send hs _ _ _ _ _ _
  · split
    · exact h.send (h.watch s _ (Or.inl (le_refl _)) hs) _ _ _ _ _ _
    · split
      · exact h.send (h.toQuiet.captureIf hs _ _) _ _ _ _ _ _
      · exact h.send (h.toQuiet.captureIf hs _ _) _ _ _ _ _ _
      · exact h.toQuiet.beginHold (h.toQuiet.captureIf hs _ _) _ _ _

theorem sendNext (l : Line) (i : Nat) (todo : List Look) : P (State.sendNext l i todo s).1 := by
  induction todo with
  | nil => exact hs
  | cons k rest ih =>
    unfold State.sendNext
    split
    · exact ih
    · exact h.presentFrame hs _ _ _ _ _

theorem beginTurn (l : Line) (i : Nat) (rot : Option Rotation) : P (s.beginTurn l i rot).1 := by
  unfold State.beginTurn; dsimp only
  refine h.sendNext (h.line _ _ _ (fun d => ?_) hs) _ _ _
  cases rot with
  | none => exact le_refl _
  | some r => cases r <;> exact le_refl _

theorem arbitrate (l : Line) (n : Nat) : P (State.arbitrate l n s) := by
  induction n generalizing s with
  | zero => exact hs
  | succ n ih =>
    unfold State.arbitrate; dsimp only
    split
    · exact hs
    · split
      · exact h.beginTurn hs _ _ _
      · exact ih (h.beginTurn hs _ _ _)

theorem kick (l : Line) : P (s.kick l) := by
  unfold State.kick; split
  · exact h.arbitrate hs _ _
  · exact hs

theorem kickBoth : P s.kickBoth := h.kick (h.kick hs _) _

theorem endTurn (l : Line) (i : Nat) : P (s.endTurn l i) := h.kick (h.toQuiet.stepRehold (h.toQuiet.clearTurn hs _) _) _

theorem exchangeFailed (l : Line) (t : Turn) : P (s.exchangeFailed l t) := by
  unfold State.exchangeFailed; dsimp only
  split
  · exact h.endTurn (h.toQuiet.holdIf (h.miss (h.toQuiet.oweAccept hs _ _) _) _ _) _ _
  · exact h.endTurn (h.toQuiet.holdIf (h.miss hs _) _ _) _ _

theorem nonAnswer (l : Line) (t : Turn) : P (s.nonAnswer l t) := by
  unfold State.nonAnswer; dsimp only
  split
  · exact h.endTurn (h.toQuiet.holdIf (h.toQuiet.oweAccept hs _ _) _ _) _ _
  · exact h.endTurn (h.toQuiet.holdIf hs _ _) _ _

theorem acked (i : Nat) (what : Sent) : P (s.acked i what) := by
  unfold State.acked
  split
  · exact h.inlet hs _ _
  · exact h.toQuiet.acknowledgeSample hs _
  · exact h.line s _ _ (fun _ => List.length_filter_le _ _) hs
  · exact hs

theorem continueTurn (l : Line) (t : Turn) : P (s.continueTurn l t) := by
  unfold State.continueTurn; dsimp only
  split
  · exact h.sendNext (h.toQuiet.clearTurn hs _) _ _ _
  · exact h.endTurn (h.sendNext (h.toQuiet.clearTurn hs _) _ _ _) _ _

theorem ackReceived (l : Line) (t : Turn) : P (s.ackReceived l t) := by
  unfold State.ackReceived; dsimp only
  split
  · exact h.endTurn (h.toQuiet.beginHold (h.acked hs _ _) _ _ _) _ _
  · exact h.continueTurn (h.acked hs _ _) _ _

theorem passWatch (i : Nat) (f : Frame) (hm : f.kind = kindStationMaint → s.centerPlaces < 8) :
    P (s.passWatch i f) := by
  unfold State.passWatch; dsimp only
  have h1 := h.toQuiet.captureIf hs i f
  have hm1 : f.kind = kindStationMaint → (s.captureIf i f).centerPlaces < 8 := by simpa using hm
  split
  · exact h.passFrame h1 _ _ _ hm1
  · exact h.toQuiet.beginHold (h.passFrame h1 _ _ _ hm1) _ _ _
  · exact h.toQuiet.beginHold h1 _ _ _ (by simpa [Parked.keepsPlace, State.parkReceived] using hm)

theorem itemAnswer (i : Nat) (f : Frame) : P (s.itemAnswer i f) := by
  unfold State.itemAnswer
  split_ifs
  · exact h.toQuiet.oweAccept hs _ _
  · exact h.toQuiet.refusedPassesWatch (h.toQuiet.oweAccept hs _ _) _ _
  · rename_i hn
    exact h.passWatch (h.station s _ _ (by intro _; rfl) hs) _ _ (fun hk => Nat.lt_of_not_le (fun h8 => hn ⟨hk, h8⟩))

theorem pollAnswer (l : Line) (t : Turn) (f : Frame) : P (s.pollAnswer l t f) := by
  unfold State.pollAnswer
  split_ifs
  · rename_i hk
    exact h.endTurn (h.passWatch (h.toQuiet.oweAccept hs _ _) _ _ (fun e => by rw [hk] at e; simp [kindStationStatus, kindStationMaint] at e)) _ _
  · exact h.endTurn (h.itemAnswer hs _ _) _ _
  · exact h.nonAnswer hs _ _

theorem takeAnswer (l : Line) (t : Turn) (f : Frame) : P (s.takeAnswer l t f) := by
  unfold State.takeAnswer; dsimp only
  have h1 := h.goodFrame hs t.station
  split_ifs
  · exact h.pollAnswer h1 _ _ _
  · exact h.ackReceived h1 _ _
  · exact h.nonAnswer h1 _ _

theorem frameArrives (l : Line) (t : Turn) (bytes : List Byte) : P (s.frameArrives l t bytes) := by
  unfold State.frameArrives
  split
  · exact hs
  · exact h.exchangeFailed hs _ _
  · split
    · exact h.takeAnswer hs _ _ _
    · exact hs

theorem disableStation (i : Nat) : P (s.disableStation i) := by
  have h1 := h.addBars (h.station s i (fun t => { t with state := .disabled }) (by intro _; rfl) hs) i .stationDisabled
  unfold State.disableStation; dsimp only
  apply h.toQuiet.endOutstanding
  apply h.toQuiet.dropTurn
  apply h.toQuiet.dropRelay
  refine h.line _ _ _ ?_ ?_
  · exact fun _ => le_refl _
  split
  · exact h.removeBars h1 _ _
  · exact h1

theorem enableStation (i : Nat) : P (s.enableStation i) :=
  h.removeBars (h.addBars (h.station s _ _ (by intro _; rfl) hs) _ _) _ _

/-! ### Rounds and the tick -/

theorem freeServices (r : Nat) : P (s.freeServices r) := by
  refine h.containers s _ (fun _ => rfl) (fun _ k => ?_) (fun _ k => ?_) hs
  · split
    · split <;> rfl
    · rfl
  · split
    · split <;> rfl
    · rfl

theorem takeAbort (r : Nat) : P (s.takeAbort r) := by
  unfold State.takeAbort; split
  · exact h.toQuiet.closeRound (h.freeServices (h.round s _ _ (by intro _; exact Round.keepsPlan_of_map rfl (map_container_setStops _ _ _)) hs) _) _
  · exact hs

theorem takeCommand (r : Nat) : P (s.takeCommand r) := by
  unfold State.takeCommand; dsimp only
  have h1 := h.round s r (fun d => { d with requested := none }) (by intro _; exact Round.keepsPlan_of_stops rfl rfl) hs
  split
  · exact h.toQuiet.releaseRound h1 _
  · exact h.toQuiet.takeClose h1 _
  · exact h.takeAbort h1 _
  · exact h1

theorem runStage (g : TickStage) : P (s.runStage g) := by
  cases g with
  | command r => exact h.takeCommand hs r
  | check r => exact h.toQuiet.checkRound hs r
  | closing r => exact h.toQuiet.checkClosing hs r
  | standing r => exact h.toQuiet.checkStanding hs r

theorem runTick (auto : Bool) (n : Nat) (todo : List TickStage) : P (State.runTick auto n todo s) := by
  induction n generalizing s todo with
  | zero => exact h.toQuiet.endTick hs
  | succ n ih =>
    cases todo with
    | nil => exact h.toQuiet.endTick hs
    | cons g rest =>
      unfold State.runTick
      split
      · exact h.planner s _ (fun _ => rfl) hs
      · exact ih (h.runStage hs _) _

theorem beginTick : P s.beginTick := h.runTick hs _ _ _

theorem finishTick : P s.finishTick := by
  unfold State.finishTick
  split
  · exact hs
  · exact h.runTick hs _ _ _

theorem takeStage (g : TickStage) : P (s.takeStage g) := by
  unfold State.takeStage
  split
  · split
    · exact h.runTick (h.runStage (h.planner s (fun p => { p with tickTodo := [] }) (fun _ => rfl) hs) _) _ _ _
    · exact hs
  · exact hs

/-! ### Expiries and the second and minute events -/

theorem grantExpired (c : Nat) : P (s.grantExpired c) := h.lockClosed (h.setInlet (h.dropGrant hs _) _ _) _

theorem holdExpired (i : Nat) : P (s.holdExpired i) :=
  h.kickBoth (h.raise _ _ _ _ (h.watch _ _ (Or.inl (le_refl _)) (h.toQuiet.release (h.dealParked hs _) _)))

omit h in
theorem takeIf (c : Nat) (due : Container → Bool) (f : State → Nat → State) (hf : ∀ t, P t → P (f t c)) :
    P (s.takeIf c due f) := by
  unfold State.takeIf; split
  · exact hf s hs
  · exact hs

theorem takeHold : P s.takeHold := by
  unfold State.takeHold
  split
  · exact h.holdExpired hs _
  · exact hs

theorem flushContainer (c : Nat) : P (s.flushContainer c) :=
  Small.takeIf (Small.takeIf (Small.takeIf (Small.takeIf (Small.takeIf (Small.takeIf hs c _ _ (fun _ ht => h.toQuiet.outstandingExpired ht c)) c _ _
    (fun _ ht => h.toQuiet.countdownExpired ht c)) c _ _ (fun _ ht => h.grantExpired ht c)) c _ _
    (fun _ ht => h.serviceExpired ht c)) c _ _ (fun _ ht => h.liftExpired ht c)) c _ _ (fun _ ht => h.settled ht c)

theorem flush : P s.flush := h.takeHold (Quiet.foldl (h.finishTick hs) _ (fun _ _ ht => h.flushContainer ht _) _)

theorem secondEvent : P s.secondEvent := by
  refine h.watch _ Watch.second (Or.inl (Watch.keptPlaces_second _).le) (h.containers s _ (fun c => ?_) (fun c k => ?_)
    (fun c k => ?_) hs)
  · cases s.isHeld (stationOf c) <;> rfl
  · cases s.isHeld (stationOf c) <;> rfl
  · cases s.isHeld (stationOf c) <;> rfl

theorem minuteEvent : P s.minuteEvent := by
  refine h.beginTick (h.containers s _ (fun _ => rfl) (fun _ k => ?_) (fun _ k => ?_) hs)
  · unfold Container.minute; split <;> rfl
  · unfold Container.minute; split <;> rfl

/-! ### Requests -/

theorem resume (m : ResumeMode) (i : Nat) : P (s.resume m i).1 := h.kickBoth (h.toQuiet.release (h.dealParked hs _) _)

theorem barByCenter (c : Nat) : P (s.barByCenter c) := h.addBar hs _ _

theorem unbarByCenter (c : Nat) : P (s.unbarByCenter c) := h.removeBar (h.removeBar hs _ _) _ _

/-- A write of a container record, for a property that any change of a container keeps. -/
theorem writeContainer (hc : ∀ t d f, P t → P (t.updContainer d f)) (hp : ∀ t f, P t → P (t.updPlanner f)) (c : Nat)
    (p : ContainerCfg) : P (s.writeContainer c p) := by
  unfold State.writeContainer; dsimp only
  generalize hx : (if (s.container c).cfg.fraction = p.fraction then s.updContainer c (fun k => { k with cfg := p })
      else (s.updContainer c (fun k => { k with cfg := p })).skipPendingOf c) = x
  have h2 : P x := by
    subst hx; split
    · exact hc _ _ _ hs
    · exact h.toQuiet.skipPendingOf (hc _ _ _ hs) _
  split
  · exact h.toQuiet.skipPendingOf (h.clearMarks _ _ (h.toQuiet.fillAbsent (h.addBar h2 _ _) _)) _
  · split
    · unfold State.setPresent State.rederive State.updFill
      exact hp _ _ (hc _ _ _ (h.removeBar (h.inlet h2 _ _) _ _))
    · split
      · exact h.toQuiet.keepPresent h2 _ _ _
      · exact h2

/-- What follows a station's new configuration, whatever it was before. -/
theorem stationEffects (i : Nat) (old new : Bool) :
    P (if old && !new then s.disableStation i else if !old && new then s.enableStation i else s) := by
  split
  · exact h.disableStation hs _
  · split
    · exact h.enableStation hs _
    · exact hs

end Small

end Sys2Proof.Machine
end

