-- ==== Sys2Proof/Laws/Steps.lean ====
section
/-! SUPPORT. What one command can do at all: the small updates of a running part, the writes of the requests, and the
starts. A property that each of them keeps is kept by every step. -/

namespace Sys2Proof.Machine

/-- A record that a write to an index may bring in: clamped bytes read as it, the index is a write index of its table, and the
rules across records hold (R182). -/
def Record.taken (s : State) (i : Nat) (r : Record) : Prop :=
  ∃ (t : Table) (bytes : List Byte), t.parse (t.clampBytes bytes) = some r ∧ t.writeRange.1 ≤ i ∧ i ≤ t.writeRange.2 ∧
    s.crossOk i r = true

/-- The small updates and the writes a request makes. The configuration changes by records that a write may bring in, and by a
draft of the due list. -/
structure Writes (P : State → Prop) : Prop extends Small P where
  relay : ∀ s i f, (s.line (lineOf i)).relay.length < 8 → P s → P (s.appendRelay i f)
  params : ∀ s i p, Record.taken s i (.parameters p) → P s → P { s with params := p }
  stationCfg : ∀ s i p, Record.taken s i (.station p) → P s → P (s.updStation i (fun t => { t with cfg := p }))
  cardCfg : ∀ s i p, Record.taken s i (.card p) → P s → P (s.updCard i (fun k => { k with cfg := p }))
  householdCfg : ∀ s i p, Record.taken s i (.household p) → P s → P (s.updHousehold i (fun k => { k with cfg := p }))
  writeRound : ∀ s i p stops, Record.taken s i (.round p stops) → P s → P (s.writeRound i p stops)
  draft : ∀ s r f n, 1 ≤ n → n ≤ 24 → r < 4 → P s → P (s.draft r f (s.draftList f n))
  banks : ∀ s i p, Record.taken s i (.bank p) → P s → P { s with banks := Tab.set Bank.blank s.banks i p }
  fractions : ∀ s i p, Record.taken s i (.fraction p) → P s →
    P { s with fractions := Tab.set FractionRec.blank s.fractions i p }
  shapes : ∀ s i p, Record.taken s i (.shape p) → P s → P { s with shapes := Tab.set Shape.blank s.shapes i p }
  priority : ∀ s i n, Record.taken s i (.noticeClass n) → P s → P (s.updClass i (fun c => { c with priority := n }))
  clearFlags : ∀ s n, P s → P (s.clearFlags n)
  clock : ∀ s k, P s → P { s with clock := k }
  part : ∀ s f, P s → P (s.updPart f)
  abandonSave : ∀ s, P s → P s.abandonSave
  writeContainer : ∀ s c p, Record.taken s c (.container p) → P s → P (s.writeContainer c p)

namespace Writes

variable {P : State → Prop} (h : Writes P) {s : State} (hs : P s)
include h hs

theorem writeParams (i : Nat) (p : Params) (ht : Record.taken s i (.parameters p)) : P (s.writeParams p) := by
  unfold State.writeParams; dsimp only
  split
  · exact h.params s i _ ht hs
  · exact h.toQuiet.rollover (h.params s i _ ht hs) _

theorem writeShape (i : Nat) (p : Shape) (ht : Record.taken s i (.shape p)) : P (s.writeShape i p) := by
  unfold State.writeShape; dsimp only
  split
  · exact h.shapes s _ _ ht hs
  · refine Quiet.foldl (h.shapes s _ _ ht hs) _ (fun t c hu => ?_) _
    split
    · exact h.toQuiet.makeUnknown hu _
    · exact hu

theorem writeStation (i : Nat) (p : StationCfg) (ht : Record.taken s i (.station p)) : P (s.writeStation i p) := by
  unfold State.writeStation; dsimp only
  exact h.toSmall.stationEffects (h.stationCfg s i p ht hs) i _ _

theorem writeRecordOf (i : Nat) (r : Record) (ht : Record.taken s i r) : P (s.writeRecordOf i r) := by
  cases r with
  | parameters p => exact h.writeParams hs i p ht
  | station p => exact h.writeStation hs i p ht
  | bank p => exact h.banks s i p ht hs
  | fraction p => exact h.fractions s i p ht hs
  | shape p => exact h.writeShape hs i p ht
  | container p => exact h.writeContainer s i p ht hs
  | card p => exact h.cardCfg s i p ht hs
  | household p => exact h.householdCfg s i p ht hs
  | round p stops => exact h.writeRound s i p stops ht hs
  | noticeClass n => exact h.priority s i n ht hs

theorem writeTable (t : Table) (i : Nat) (mask record : List Byte) (hi : inRange t.writeRange i = true) :
    P (s.writeTable t i mask record).1 := by
  unfold State.writeTable; dsimp only
  split
  · exact hs
  · split
    · exact hs
    · split
      · exact hs
      · rename_i r hr hc
        simp only [inRange, Bool.and_eq_true, decide_eq_true_eq] at hi
        exact h.toSmall.kickBoth (h.writeRecordOf hs _ _ ⟨t, _, hr, hi.1, hi.2, by simpa using hc⟩)

theorem tableWriteBody (f : Frame) : P (tableWriteBody f s).1 := by
  unfold Machine.tableWriteBody; try dsimp only
  repeat' split
  all_goals first
    | exact hs
    | exact h.writeTable hs _ _ _ _ (by simp_all)

omit h in
theorem tableReadBody (f : Frame) : P (tableReadBody f s).1 := by
  unfold Machine.tableReadBody; try dsimp only
  repeat' split
  all_goals first | exact hs

theorem relayBody (f : Frame) : P (relayBody f s).1 := by
  unfold Machine.relayBody
  split
  · exact hs
  · split_ifs with h1 h2
    · exact hs
    · exact hs
    · exact h.relay s _ _ (by omega) hs

omit h in
theorem unknownBody (f : Frame) : P (unknownBody f s).1 := hs

omit h in
theorem journalReadBody (f : Frame) : P (journalReadBody f s).1 := by
  unfold Machine.journalReadBody; try dsimp only
  repeat' split
  all_goals first | exact hs

theorem journalReleaseBody (f : Frame) : P (journalReleaseBody f s).1 := by
  unfold Machine.journalReleaseBody; try dsimp only
  repeat' split
  all_goals first | exact hs | exact h.journal s (fun j => j.release _) hs

omit h in
theorem noticeFlagsReadBody (f : Frame) : P (noticeFlagsReadBody f s).1 := by
  unfold Machine.noticeFlagsReadBody; try dsimp only
  repeat' split
  all_goals first | exact hs

theorem noticeFlagsClearBody (f : Frame) : P (noticeFlagsClearBody f s).1 := by
  unfold Machine.noticeFlagsClearBody; try dsimp only
  repeat' split
  all_goals first | exact hs | exact h.clearFlags s _ hs

theorem setTimeBody (f : Frame) : P (setTimeBody f s).1 := by
  unfold Machine.setTimeBody; try dsimp only
  repeat' split
  all_goals first | exact hs | exact h.clock s _ hs

omit h in
theorem statusReadBody (f : Frame) : P (statusReadBody f s).1 := by
  unfold Machine.statusReadBody; try dsimp only
  repeat' split
  all_goals first | exact hs

theorem imageSaveBody (f : Frame) : P (imageSaveBody f s).1 := by
  unfold Machine.imageSaveBody; try dsimp only
  repeat' split
  all_goals first | exact hs | exact h.part s (fun p => { p with saving := true }) hs

theorem tablesClearBody (f : Frame) : P (tablesClearBody f s).1 := by
  unfold Machine.tablesClearBody; try dsimp only
  repeat' split
  all_goals first | exact hs | exact h.part s (fun p => { p with requested := some .tablesClear }) hs

theorem restartBody (f : Frame) : P (restartBody f s).1 := by
  unfold Machine.restartBody; try dsimp only
  repeat' split
  all_goals first | exact hs | exact h.part _ (fun p => { p with requested := some .restart }) (h.abandonSave s hs)

theorem roundDraftBody (f : Frame) : P (roundDraftBody f s).1 := by
  unfold Machine.roundDraftBody; try dsimp only
  repeat' split
  all_goals first
    | exact hs
    | exact h.draft s _ _ _ (by unfold clamp; omega) (by unfold clamp; omega) (by omega) hs

theorem roundCommandBody (cmd : RoundCommand) (f : Frame) : P (roundCommandBody cmd f s).1 := by
  unfold Machine.roundCommandBody; try dsimp only
  repeat' split
  all_goals first
    | exact hs
    | exact h.round s _ (fun d => { d with requested := some cmd }) (fun _ => Round.keepsPlan_of_stops rfl rfl) hs

omit h in
theorem containerBody (effect : State → Nat → State) (he : ∀ t c, P t → P (effect t c)) (data : State → Nat → List Byte)
    (f : Frame) : P (containerBody effect data f s).1 := by
  unfold Machine.containerBody; try dsimp only
  repeat' split
  all_goals first | exact hs | exact he s _ hs

theorem forceDueBody (f : Frame) : P (forceDueBody f s).1 := by
  unfold Machine.forceDueBody; try dsimp only
  repeat' split
  all_goals first | exact hs | exact h.setForced s _ _ hs

theorem watchSetBody (f : Frame) : P (watchSetBody f s).1 := by
  unfold Machine.watchSetBody; try dsimp only
  repeat' split
  all_goals first | exact hs | exact h.toQuiet.setWatch hs _ _ _ _

theorem watchResumeBody (f : Frame) : P (watchResumeBody f s).1 := by
  unfold Machine.watchResumeBody; try dsimp only
  repeat' split
  all_goals first | exact hs | exact h.toSmall.resume hs _ _

omit h in
theorem busyWhileLoading (body : Frame → State → State × Answer) (hb : ∀ f t, P t → P (body f t).1) (f : Frame) :
    P (busyWhileLoading body f s).1 := by
  unfold Machine.busyWhileLoading; try dsimp only
  repeat' split
  all_goals first | exact hs | exact hb f s hs

end Writes

/-- A property kept by what one command does, where a start ends it with another that follows from it: a start's last act is
to enter LOADING, which may hold of the second alone. -/
structure Steps (P Q : State → Prop) : Prop extends Writes P where
  weaken : ∀ s, P s → Q s
  receive : ∀ s f, P s → P (s.bufferFrame f)
  transmit : ∀ s, P s → P (s.updLink Endpoint.begin)
  transmitted : ∀ s, P s → P (s.updLink (fun e => { e with tx := none }))
  /-- A frame is taken, handled by a body made of writes, and answered. -/
  handled : ∀ s f rest body, s.link.rx = f :: rest → s.link.replies.length < 4 →
    (∀ (R : State → Prop), Writes R → ∀ t, R t → R (body f t).1) → P s → P (s.handleFrame f rest body)
  power : ∀ s f, P s → P (s.updPower f)
  stop : ∀ s, P s → P s.stopPart
  loading : ∀ s kind cause levels, P s → Q (s.enterLoading kind cause levels)
  startValues : ∀ s, P s → P s.startValues
  saved : ∀ s, P s → P s.finishSave
  failed : ∀ s, P s → P s.failSave

/-- A property that the commands' parts keep is kept by every command, but for what a start that it makes leaves. -/
theorem Steps.exec {P Q : State → Prop} (h : Steps P Q) {s : State} (hs : P s) (i : Instr) :
    ∃ t, exec i s = .next t ∧ Q t := by
  have hb : ∀ (mine : Frame → Bool) (body : Frame → State → State × Answer),
      (∀ (R : State → Prop), Writes R → ∀ f t, R t → R (body f t).1) → P (s.handleOldest mine body) := by
    intro mine body hbody
    unfold State.handleOldest
    split
    · exact hs
    · rename_i f rest hrx
      split
      · rename_i hc
        refine h.handled s f rest body hrx ?_ (fun R hR t ht => hbody R hR f t ht) hs
        simp only [State.mayHandle, Bool.and_eq_true, decide_eq_true_eq] at hc
        exact hc.1.1.2
      · exact hs
  have hq : ∀ (q : Request) (body : Frame → State → State × Answer),
      (∀ (R : State → Prop), Writes R → ∀ f t, R t → R (body f t).1) → P (s.handle q body) := fun q body hbody =>
    hb _ _ (fun R hR f t ht => Writes.busyWhileLoading ht body (fun g u hu => hbody R hR g u hu) f)
  have hrun : ∀ t : State, P t → P (if s.running then t else s) := by
    intro t ht; split
    · exact ht
    · exact hs
  have hpow : ∀ t cause levels, P t → Q (t.powerStart cause levels) := by
    intro t cause levels ht
    unfold State.powerStart; split
    · exact h.loading _ _ _ _ ht
    · exact h.loading _ _ _ _ ht
  cases i with
  | mainPowerUp levels =>
    refine ⟨_, rfl, ?_⟩; dsimp only; split_ifs
    · exact h.weaken _ hs
    · exact h.weaken _ (h.power s _ hs)
    · exact hpow _ _ _ (h.power s _ hs)
  | mainPowerLost =>
    refine ⟨_, rfl, h.weaken _ ?_⟩; split_ifs
    · exact h.power _ _ (h.stop s hs)
    · exact hs
  | resetPinAsserted => exact ⟨_, rfl, h.weaken _ (h.power _ _ (h.stop s hs))⟩
  | resetPinReleased levels =>
    refine ⟨_, rfl, ?_⟩; dsimp only; split_ifs
    · exact h.weaken _ hs
    · exact hpow _ _ _ (h.power s _ hs)
    · exact h.weaken _ (h.power s _ hs)
  | enterRunning =>
    refine ⟨_, rfl, h.weaken _ ?_⟩; split_ifs
    · refine h.toSmall.kickBoth ?_
      unfold State.announceStart; dsimp only
      have h1 := h.part _ (fun p => { p with phase := .running, openMode := p.strap && decide (p.image ≠ .valid) })
        (h.startValues s hs)
      split
      · exact h.raise _ _ _ _ (h.raise _ _ _ _ h1)
      · exact h.raise _ _ _ _ h1
    · exact hs
  | requestedStart levels =>
    refine ⟨_, rfl, ?_⟩; split
    · split_ifs
      · exact h.loading _ _ _ _ hs
      · exact h.weaken _ hs
    · exact h.weaken _ hs
  | clockAdvance =>
    refine ⟨_, rfl, h.weaken _ ?_⟩; split_ifs
    · have h1 := h.toSmall.flush hs
      have h2 : P s.flush.advanceTime := by
        unfold State.advanceTime
        split
        · exact h.toQuiet.rollover (h.raise _ _ _ _ (h.clock _ _ h1)) _
        · unfold State.addSecond; dsimp only
          split
          · exact h.clock _ _ h1
          · exact h.toQuiet.rollover (h.clock _ _ h1) _
      unfold State.advanceRunning; dsimp only
      split
      · exact h.toSmall.minuteEvent (h.toSmall.secondEvent h2)
      · exact h.toSmall.secondEvent h2
    · exact h.clock s _ hs
    · exact hs
  | roundDeadlineReached r => exact ⟨_, rfl, h.weaken _ (hrun _ (h.toSmall.takeStage hs _))⟩
  | standingRelease r => exact ⟨_, rfl, h.weaken _ (hrun _ (h.toSmall.takeStage hs _))⟩
  | sampleCountdownExpiry c =>
    exact ⟨_, rfl, h.weaken _ (hrun _ (Small.takeIf hs c _ _ (fun _ ht => h.toQuiet.countdownExpired ht c)))⟩
  | sampleOutstandingExpiry c =>
    exact ⟨_, rfl, h.weaken _ (hrun _ (Small.takeIf hs c _ _ (fun _ ht => h.toQuiet.outstandingExpired ht c)))⟩
  | grantWindowExpiry c =>
    exact ⟨_, rfl, h.weaken _ (hrun _ (Small.takeIf hs c _ _ (fun _ ht => h.toSmall.grantExpired ht c)))⟩
  | serviceWindowExpiry c =>
    exact ⟨_, rfl, h.weaken _ (hrun _ (Small.takeIf hs c _ _ (fun _ ht => h.toSmall.serviceExpired ht c)))⟩
  | liftLimitExpiry c =>
    exact ⟨_, rfl, h.weaken _ (hrun _ (Small.takeIf hs c _ _ (fun _ ht => h.toSmall.liftExpired ht c)))⟩
  | settleTimeExpiry c =>
    exact ⟨_, rfl, h.weaken _ (hrun _ (Small.takeIf hs c _ _ (fun _ ht => h.toSmall.settled ht c)))⟩
  | holdTimeout => exact ⟨_, rfl, h.weaken _ (hrun _ (h.toSmall.takeHold hs))⟩
  | responseWindowExpired l =>
    refine ⟨_, rfl, h.weaken _ ?_⟩; split
    · exact h.toSmall.exchangeFailed hs _ _
    · exact hs
  | lineFrameSent l =>
    refine ⟨_, rfl, h.weaken _ (h.line s _ _ ?_ hs)⟩
    exact fun _ => le_refl _
  | lineFrameReceived l m bytes =>
    refine ⟨_, rfl, h.weaken _ ?_⟩; split
    · split_ifs
      · exact h.toSmall.frameArrives hs _ _ _
      · exact hs
    · exact hs
  | backhaulFrameReceived bytes =>
    refine ⟨_, rfl, h.weaken _ ?_⟩; split_ifs
    · split
      · exact h.receive s _ hs
      · exact hs
    · exact hs
  | backhaulTransmitBegin =>
    refine ⟨_, rfl, h.weaken _ ?_⟩; split_ifs
    · exact h.transmit s hs
    · exact hs
  | backhaulTransmitDone =>
    refine ⟨_, rfl, h.weaken _ ?_⟩; split_ifs
    · exact h.transmitted s hs
    · exact hs
  | unknownRequest => exact ⟨_, rfl, h.weaken _ (hq _ _ (fun _ _ f _ ht => Writes.unknownBody ht f))⟩
  | relayStationCmd => exact ⟨_, rfl, h.weaken _ (hq _ _ (fun _ hQ f _ ht => hQ.relayBody ht f))⟩
  | tableWrite => exact ⟨_, rfl, h.weaken _ (hq _ _ (fun _ hQ f _ ht => hQ.tableWriteBody ht f))⟩
  | tableRead => exact ⟨_, rfl, h.weaken _ (hq _ _ (fun _ _ f _ ht => Writes.tableReadBody ht f))⟩
  | journalRead => exact ⟨_, rfl, h.weaken _ (hq _ _ (fun _ _ f _ ht => Writes.journalReadBody ht f))⟩
  | journalRelease => exact ⟨_, rfl, h.weaken _ (hq _ _ (fun _ hQ f _ ht => hQ.journalReleaseBody ht f))⟩
  | noticeFlagsRead => exact ⟨_, rfl, h.weaken _ (hq _ _ (fun _ _ f _ ht => Writes.noticeFlagsReadBody ht f))⟩
  | noticeFlagsClear => exact ⟨_, rfl, h.weaken _ (hq _ _ (fun _ hQ f _ ht => hQ.noticeFlagsClearBody ht f))⟩
  | setTime => exact ⟨_, rfl, h.weaken _ (hq _ _ (fun _ hQ f _ ht => hQ.setTimeBody ht f))⟩
  | statusRead => exact ⟨_, rfl, h.weaken _ (hb _ _ (fun _ _ f _ ht => Writes.statusReadBody ht f))⟩
  | imageSave => exact ⟨_, rfl, h.weaken _ (hq _ _ (fun _ hQ f _ ht => hQ.imageSaveBody ht f))⟩
  | imageSaveComplete ok =>
    refine ⟨_, rfl, h.weaken _ ?_⟩; split_ifs
    · exact h.raise _ _ _ _ (h.saved s hs)
    · exact h.raise _ _ _ _ (h.failed s hs)
    · exact hs
  | tablesClear => exact ⟨_, rfl, h.weaken _ (hq _ _ (fun _ hQ f _ ht => hQ.tablesClearBody ht f))⟩
  | restart => exact ⟨_, rfl, h.weaken _ (hq _ _ (fun _ hQ f _ ht => hQ.restartBody ht f))⟩
  | roundDraft => exact ⟨_, rfl, h.weaken _ (hq _ _ (fun _ hQ f _ ht => hQ.roundDraftBody ht f))⟩
  | roundRelease => exact ⟨_, rfl, h.weaken _ (hq _ _ (fun _ hQ f _ ht => hQ.roundCommandBody ht _ f))⟩
  | roundClose => exact ⟨_, rfl, h.weaken _ (hq _ _ (fun _ hQ f _ ht => hQ.roundCommandBody ht _ f))⟩
  | roundAbort => exact ⟨_, rfl, h.weaken _ (hq _ _ (fun _ hQ f _ ht => hQ.roundCommandBody ht _ f))⟩
  | containerBar =>
    exact ⟨_, rfl, h.weaken _ (
      hq _ _ (fun _ hQ f _ ht => Writes.containerBody ht _ (fun _ c hu => hQ.toSmall.barByCenter hu c) _ f))⟩
  | containerUnbar =>
    exact ⟨_, rfl, h.weaken _ (hq _ _ (fun _ hQ f _ ht =>
      Writes.containerBody ht _ (fun _ c hu => hQ.toSmall.unbarByCenter hu c) _ f))⟩
  | sensorClear =>
    exact ⟨_, rfl, h.weaken _ (
      hq _ _ (fun _ hQ f _ ht => Writes.containerBody ht _ (fun _ c hu => hQ.toQuiet.clearSensor hu c) _ f))⟩
  | forceDue => exact ⟨_, rfl, h.weaken _ (hq _ _ (fun _ hQ f _ ht => hQ.forceDueBody ht f))⟩
  | watchSet => exact ⟨_, rfl, h.weaken _ (hq _ _ (fun _ hQ f _ ht => hQ.watchSetBody ht f))⟩
  | watchResumeContinue =>
    exact ⟨_, rfl, h.weaken _ (
      hb _ _ (fun _ hQ f _ ht => Writes.busyWhileLoading ht _ (fun g _ hu => hQ.watchResumeBody hu g) f))⟩
  | watchResumeStep =>
    exact ⟨_, rfl, h.weaken _ (
      hb _ _ (fun _ hQ f _ ht => Writes.busyWhileLoading ht _ (fun g _ hu => hQ.watchResumeBody hu g) f))⟩
  | watchResumeDiscard =>
    exact ⟨_, rfl, h.weaken _ (
      hb _ _ (fun _ hQ f _ ht => Writes.busyWhileLoading ht _ (fun g _ hu => hQ.watchResumeBody hu g) f))⟩
  | backupSupplyLost => exact ⟨_, rfl, h.weaken _ (h.power s _ hs)⟩

end Sys2Proof.Machine
end

