-- ==== Sys2Proof/Laws/Cross.lean ====
section
/-! SUPPORT. The cross-field rules: what keeps them, and what a parsed round and the due list bring to them (R136, R182). -/

namespace Sys2Proof.Machine

/-- A round whose stops are some of those it had keeps their rule. -/
theorem Round.stopsLegal_of_keepsPlan {d e : Round} (h : d.keepsPlan e) (hd : d.stopsLegal) : e.stopsLegal := by
  obtain ⟨_, hs⟩ := h
  refine ⟨fun p hp => ?_, hs.nodup hd.2⟩
  have : p.container ∈ d.stops.map Stop.container := hs.subset (List.mem_map_of_mem hp)
  obtain ⟨q, hq, e⟩ := List.mem_map.mp this
  rw [← e]
  exact hd.1 q hq

/-- The rules look at the rounds' stops and at the configurations of containers and stations. -/
theorem State.crossLegal_of {s t : State} (h : s.crossLegal)
    (hr : ∀ r, (s.round r).stopsLegal → (t.round r).stopsLegal)
    (hc : ∀ c, (t.container c).cfg = (s.container c).cfg) (hs : ∀ i, (t.station i).cfg = (s.station i).cfg) :
    t.crossLegal := by
  refine ⟨fun r => hr r (h.1 r), ?_⟩
  intro c hp
  simp only [hc, hs] at *
  exact h.2 c hp

/-- They are kept where rounds, containers and stations are as before. -/
theorem State.crossLegal_same {s t : State} (h : s.crossLegal) (hr : t.rounds = s.rounds)
    (hc : t.containers = s.containers) (hs : t.stations = s.stations) : t.crossLegal :=
  State.crossLegal_of h (fun r => by unfold State.round; rw [hr]; exact id)
    (fun c => by unfold State.container; rw [hc]) (fun i => by unfold State.station; rw [hs])

/-- A present container is one of the 128. -/
theorem State.le_of_present {s : State} (h : s.crossLegal) {c : Nat} (hp : (s.container c).cfg.present = true) :
    c ≤ 127 := (h.2 c hp).1

/-- The due list names containers 0-127. -/
theorem State.le_of_due {s : State} (hd : s.dueLawful) (hx : s.crossLegal) : ∀ e ∈ s.planner.due, e.container ≤ 127 := by
  intro e he
  have h1 := (hd.1 e.container e.cls).mp ⟨e, he, rfl, rfl⟩
  have : (s.container e.container).cfg.present = true := by
    unfold Container.dueClass at h1
    by_contra hn
    simp only [Bool.not_eq_true] at hn
    simp [hn] at h1
  exact State.le_of_present hx this

/-- A list that passes the check of distinct values has none twice. -/
theorem nodup_of_distinct {l : List Nat} (h : distinct l = true) : l.Nodup := by
  induction l with
  | nil => simp
  | cons a r ih =>
    simp only [distinct, Bool.and_eq_true, Bool.not_eq_true'] at h
    rw [List.nodup_cons]
    exact ⟨by intro ha; simp at h; exact h.1 ha, ih h.2⟩

/-- A ROUND record that parses names containers 0-127, none twice. -/
theorem parse_round {t : Table} {b : List Byte} {p : RoundCfg} {cs : List Nat} (h : t.parse b = some (.round p cs)) :
    cs.Nodup ∧ ∀ c ∈ cs, c ≤ 127 := by
  cases t <;> simp only [Table.parse, Option.map_eq_some_iff] at h
  case round =>
    obtain ⟨⟨p', cs'⟩, h, e⟩ := h
    simp at e
    obtain ⟨rfl, rfl⟩ := e
    unfold parseRound at h
    dsimp only at h
    split at h
    · split at h
      · rename_i hc
        obtain ⟨_, rfl⟩ := Prod.mk.inj (Option.some.inj h)
        refine ⟨nodup_of_distinct hc.2.2, ?_⟩
        intro c hcm
        have := List.all_eq_true.mp hc.2.1 c hcm
        simp at this
        omega
      · simp at h
    · simp at h
  all_goals (first | (obtain ⟨_, _, e⟩ := h; simp at e) | simp at h)

end Sys2Proof.Machine
end

