-- ==== Sys2Proof/Laws/Due.lean ====
section
/-! SUPPORT. What re-deriving one container's entry does to the due list: who is on it, once, and in which order. -/

namespace Sys2Proof.Machine

theorem Time.before_irrefl (t : Time) : t.before t = false := by
  simp [Time.before]

theorem Time.before_trans {a b c : Time} (h1 : a.before b = true) (h2 : b.before c = true) : a.before c = true := by
  simp only [Time.before, Bool.or_eq_true, Bool.and_eq_true, decide_eq_true_eq] at *
  omega

/-- District times are totally ordered (R26). -/
theorem Time.before_or {a b : Time} (h : a ≠ b) : a.before b = true ∨ b.before a = true := by
  obtain ⟨d, s⟩ := a
  obtain ⟨e, u⟩ := b
  simp only [Time.before, Bool.or_eq_true, Bool.and_eq_true, decide_eq_true_eq]
  by_cases hd : d = e
  · subst hd
    have : s ≠ u := fun hs => h (by rw [hs])
    omega
  · omega

theorem DueClass.code_injective : Function.Injective DueClass.code := by
  intro a b h; cases a <;> cases b <;> first | rfl | simp [DueClass.code] at h

theorem DueEntry.ahead_iff (a b : DueEntry) : a.ahead b = true ↔
    a.cls.code < b.cls.code ∨ a.cls.code = b.cls.code ∧
      (a.since.before b.since = true ∨ a.since = b.since ∧ a.container < b.container) := by
  simp [DueEntry.ahead]

theorem DueEntry.ahead_trans {a b c : DueEntry} (h1 : a.ahead b = true) (h2 : b.ahead c = true) : a.ahead c = true := by
  rw [DueEntry.ahead_iff] at *
  rcases h1 with h1 | ⟨e1, h1⟩ <;> rcases h2 with h2 | ⟨e2, h2⟩
  · left; omega
  · left; omega
  · left; omega
  · right
    refine ⟨by omega, ?_⟩
    rcases h1 with h1 | ⟨s1, h1⟩ <;> rcases h2 with h2 | ⟨s2, h2⟩
    · left; exact Time.before_trans h1 h2
    · left; rw [← s2]; exact h1
    · left; rw [s1]; exact h2
    · right; exact ⟨s1.trans s2, by omega⟩

/-- Of two entries of different containers one stands ahead of the other (R131). -/
theorem DueEntry.ahead_or {a b : DueEntry} (h : a.container ≠ b.container) : a.ahead b = true ∨ b.ahead a = true := by
  simp only [DueEntry.ahead_iff]
  by_cases hs : a.since = b.since
  · rw [hs]; simp only [Time.before_irrefl]; simp; omega
  · rcases Time.before_or hs with h1 | h1
    · rcases Nat.lt_trichotomy a.cls.code b.cls.code with h2 | h2 | h2
      · left; left; exact h2
      · left; right; exact ⟨h2, Or.inl h1⟩
      · right; left; exact h2
    · rcases Nat.lt_trichotomy a.cls.code b.cls.code with h2 | h2 | h2
      · left; left; exact h2
      · right; right; exact ⟨h2.symm, Or.inl h1⟩
      · right; left; exact h2

theorem mem_insertDue {e x : DueEntry} {l : List DueEntry} : x ∈ insertDue e l ↔ x = e ∨ x ∈ l := by
  induction l with
  | nil => simp [insertDue]
  | cons a l ih =>
    unfold insertDue; split
    · simp
    · simp [ih, or_left_comm]

/-- Putting an entry in its place keeps the order (R131). -/
theorem insertDue_ordered {e : DueEntry} {l : List DueEntry} (h : l.Pairwise (fun a b => a.ahead b = true))
    (hn : ∀ x ∈ l, x.container ≠ e.container) : (insertDue e l).Pairwise (fun a b => a.ahead b = true) := by
  induction l with
  | nil => simp [insertDue]
  | cons a l ih =>
    rw [List.pairwise_cons] at h
    unfold insertDue; split
    · rename_i he
      rw [List.pairwise_cons]
      refine ⟨fun x hx => ?_, List.pairwise_cons.2 h⟩
      rcases List.mem_cons.1 hx with hx | hx
      · rw [hx]; exact he
      · exact DueEntry.ahead_trans he (h.1 x hx)
    · rename_i he
      rw [List.pairwise_cons]
      refine ⟨fun x hx => ?_, ih h.2 (fun x hx => hn x (List.mem_cons_of_mem _ hx))⟩
      rcases mem_insertDue.1 hx with hx | hx
      · rw [hx]
        rcases DueEntry.ahead_or (hn a (List.mem_cons_self ..)) with h1 | h1
        · exact h1
        · exact absurd h1 he
      · exact h.1 x hx

theorem insertDue_nodup {e : DueEntry} {l : List DueEntry} (h : (l.map DueEntry.container).Nodup)
    (hn : ∀ x ∈ l, x.container ≠ e.container) : ((insertDue e l).map DueEntry.container).Nodup := by
  induction l with
  | nil => simp [insertDue]
  | cons a l ih =>
    rw [List.map_cons, List.nodup_cons] at h
    unfold insertDue; split
    · rw [List.map_cons, List.nodup_cons, List.map_cons, List.nodup_cons]
      refine ⟨fun hm => ?_, h⟩
      rw [← List.map_cons] at hm
      obtain ⟨x, hx, he⟩ := List.mem_map.1 hm
      exact hn x hx he
    · rw [List.map_cons, List.nodup_cons]
      refine ⟨fun hm => ?_, ih h.2 (fun x hx => hn x (List.mem_cons_of_mem _ hx))⟩
      obtain ⟨x, hx, he⟩ := List.mem_map.1 hm
      rcases mem_insertDue.1 hx with hx | hx
      · subst hx; exact hn a (List.mem_cons_self ..) he.symm
      · exact h.1 (List.mem_map.2 ⟨x, hx, he⟩)

/-- After re-deriving, a container has an entry of a class exactly when that is its class, and every other container's
entries are as they were (R130). -/
theorem mem_rederiveDue {due : List DueEntry} {c d : Nat} {cls : Option DueClass} {k : DueClass} {now : Time} :
    (∃ e ∈ rederiveDue due c cls now, e.container = d ∧ e.cls = k) ↔
      if d = c then cls = some k else ∃ e ∈ due, e.container = d ∧ e.cls = k := by
  have hf : ∀ e, e ∈ due.filter (fun e => !(e.container == c)) ↔ e ∈ due ∧ e.container ≠ c := by
    intro e; simp
  unfold rederiveDue
  cases cls with
  | none =>
    simp only [hf]
    split_ifs with h
    · subst h
      simp only [iff_false]
      rintro ⟨e, he, h1, -⟩; exact he.2 h1
    · constructor
      · rintro ⟨e, he, h1, h2⟩; exact ⟨e, he.1, h1, h2⟩
      · rintro ⟨e, he, h1, h2⟩; exact ⟨e, ⟨he, by omega⟩, h1, h2⟩
  | some m =>
    simp only [mem_insertDue, hf]
    split_ifs with h
    · subst h
      constructor
      · rintro ⟨e, he | he, h1, h2⟩
        · subst he; exact congrArg some h2
        · exact absurd h1 he.2
      · intro hm; exact ⟨_, Or.inl rfl, rfl, Option.some.inj hm⟩
    · constructor
      · rintro ⟨e, he | he, h1, h2⟩
        · subst he; exact absurd h1.symm h
        · exact ⟨e, he.1, h1, h2⟩
      · rintro ⟨e, he, h1, h2⟩; exact ⟨e, Or.inr ⟨he, by omega⟩, h1, h2⟩

/-- Re-deriving keeps each container on the list at most once (R129). -/
theorem rederiveDue_nodup {due : List DueEntry} {c : Nat} {cls : Option DueClass} {now : Time}
    (h : (due.map DueEntry.container).Nodup) : ((rederiveDue due c cls now).map DueEntry.container).Nodup := by
  have h1 : ((due.filter (fun e => !(e.container == c))).map DueEntry.container).Nodup :=
    h.sublist (List.filter_sublist.map _)
  unfold rederiveDue
  cases cls with
  | none => exact h1
  | some m => exact insertDue_nodup h1 (by intro x hx; simpa using (List.mem_filter.1 hx).2)

/-- Re-deriving keeps the entries in order (R131). -/
theorem rederiveDue_ordered {due : List DueEntry} {c : Nat} {cls : Option DueClass} {now : Time}
    (h : due.Pairwise (fun a b => a.ahead b = true)) :
    (rederiveDue due c cls now).Pairwise (fun a b => a.ahead b = true) := by
  have h1 : (due.filter (fun e => !(e.container == c))).Pairwise (fun a b => a.ahead b = true) :=
    h.sublist List.filter_sublist
  unfold rederiveDue
  cases cls with
  | none => exact h1
  | some m => exact insertDue_ordered h1 (by intro x hx; simpa using (List.mem_filter.1 hx).2)

end Sys2Proof.Machine
end

