-- ==== Sys2Proof/Laws/Raise.lean ====
section
/-! SUPPORT. What a raise can do: change its class's record and append to the notice queue (R29). -/

namespace Sys2Proof.Machine

/-- A raise leaves everything but the classes and the notice queue; no other class changes; its class's flag is set and its
last raise is this one. -/
theorem raise_eq (s : State) (n : Notice) (subject : Option Nat) (value : Nat) :
    ∃ classes notices,
      s.raise n subject value = { s with classes := classes, link := { s.link with notices := notices } } ∧
      (∀ k, k ≠ n.number → Tab.get NoticeClass.blank classes k = s.noticeClass k) ∧
      (Tab.get NoticeClass.blank classes n.number).flag = true ∧
      (Tab.get NoticeClass.blank classes n.number).priority = (s.noticeClass n.number).priority ∧
      (Tab.get NoticeClass.blank classes n.number).last = some { subject := subject, value := value } := by
  unfold State.raise
  dsimp only
  split_ifs
  · exact ⟨_, _, rfl, fun k hk => Tab.get_set_other hk, by rw [Tab.get_set_same]; rfl, by rw [Tab.get_set_same]; rfl,
      by rw [Tab.get_set_same]; rfl⟩
  · refine ⟨(s.updClass n.number _).classes, _, rfl, fun k hk => Tab.get_set_other hk, ?_, ?_, ?_⟩ <;>
      (unfold State.updClass; dsimp only; rw [Tab.get_set_same]; rfl)
  · exact ⟨_, _, rfl, fun k hk => Tab.get_set_other hk, by rw [Tab.get_set_same]; rfl, by rw [Tab.get_set_same]; rfl,
      by rw [Tab.get_set_same]; rfl⟩

end Sys2Proof.Machine
end

