-- ==== Sys2Proof/Laws/Effects.lean ====
section
/-! SUPPORT. What the shared operations of notices, fill, inlet and crew do, each said once, in the words of Safety.lean:
an operation as updates of records, or the records that read after it. -/

namespace Sys2Proof.Machine

/-- Two states that agree in every field are equal. -/
theorem State.ext_fields {s t : State} (h1 : s.power = t.power) (h2 : s.part = t.part) (h3 : s.clock = t.clock)
    (h4 : s.classes = t.classes) (h5 : s.link = t.link) (h6 : s.lineA = t.lineA) (h7 : s.lineB = t.lineB)
    (h8 : s.params = t.params) (h9 : s.stations = t.stations) (h10 : s.banks = t.banks) (h11 : s.fractions = t.fractions)
    (h12 : s.shapes = t.shapes) (h13 : s.containers = t.containers) (h14 : s.cards = t.cards)
    (h15 : s.households = t.households) (h16 : s.rounds = t.rounds) (h17 : s.journal = t.journal)
    (h18 : s.planner = t.planner) (h19 : s.watch = t.watch) (h20 : s.flash = t.flash) (h21 : s.draws = t.draws)
    (h22 : s.pending = t.pending) : s = t := by
  cases s; cases t; simp_all

/-! ### Operations as updates -/

/-- A request for a turn updates the station's line (R17). -/
theorem requestTurn_form (s : State) (i : Nat) :
    s.requestTurn i = s.updLine (lineOf i) (fun l =>
      if (s.station i).state = .disabled ∨ l.priority.contains i = true then l
      else { l with priority := l.priority ++ [i] }) := by
  unfold State.requestTurn
  by_cases h : (s.station i).state = .disabled
  · simp only [h, if_true, true_or]
    cases lineOf i <;> rfl
  · simp only [h, if_false, false_or]

/-- A reservation is released where there is one (R64). -/
theorem unreserveIf_form (s : State) (b : Bool) :
    s.unreserveIf b = s.updJournal (fun j => { j with reserved := j.reserved - (if b then 1 else 0) }) := by
  cases b <;> rfl

/-- A raise updates its class and the notice queue (R29). -/
theorem raise_form (s : State) (n : Notice) (a : Option Nat) (v : Nat) :
    s.raise n a v = (s.updClass n.number (fun c => c.raised { subject := a, value := v } s.link.notices.length)).updLink
      (fun e => { e with notices := (s.raise n a v).link.notices }) := by
  unfold State.raise
  dsimp only
  split_ifs <;> rfl

/-- A fill status updates its record, and where it changed the due list (R97, R130). -/
theorem setStatus_form (s : State) (c : Nat) (st : FillStatus) (n : Nat) :
    s.setStatus c st n = (s.updFill c (fun f => { f with status := st, fullCount := n })).updPlanner (fun p =>
      if (s.container c).fill.status = st then p
      else
        let k := (s.updFill c (fun f => { f with status := st, fullCount := n })).container c
        { p with due := rederiveDue p.due c k.dueClass s.now }) := by
  unfold State.setStatus
  dsimp only
  split_ifs <;> rfl

/-- An estimate becomes unknown: estimate, status, request (R82). -/
theorem makeUnknown_form (s : State) (c : Nat) : s.makeUnknown c =
    ((s.updFill c (fun f => { f with estimate := none, risePending := false })).setStatus c .unknown 0).requestDue c := by
  unfold State.makeUnknown State.evaluate
  simp [State.container_updFill]

/-- Work that ends without a tip: stop, reservation, record (R154, R158, R159, R162). -/
theorem endWork_form (s : State) (c : Nat) (v : Service) (why : WorkEnd) (h : (s.container c).inlet.service = some v) :
    s.endWork c why = ((s.returnStop c v.place why).updJournal (fun j =>
      { j with reserved := j.reserved - (if v.reserved then 1 else 0) })).updInlet c (fun n => { n with service := none }) := by
  unfold State.endWork
  rw [h]
  dsimp only
  rw [unreserveIf_form]

/-- A grant that ends without a deposit: record, hold, reservation (R56, R64). -/
theorem dropGrant_form (s : State) (c : Nat) (g : Grant) (h : (s.container c).inlet.grant = some g) :
    s.dropGrant c = ((s.updInlet c (fun n => { n with grant := none })).unhold g.household g.fraction).updJournal (fun j =>
      { j with reserved := j.reserved - (if g.reserved then 1 else 0) }) := by
  unfold State.dropGrant
  rw [h]
  dsimp only
  rw [unreserveIf_form]

/-- A stop changed at its place. -/
theorem modifyStop_eq (f : Stop → Stop) (l : List Stop) (i : Nat) : modifyStop f l i = l.modify i f := by
  induction l generalizing i with
  | nil => simp [modifyStop]
  | cons p l ih => cases i <;> simp [modifyStop, ih]

/-! ### What a raise and a status leave -/

/-- No other class changes at a raise. -/
theorem noticeClass_raise (s : State) (n : Notice) (a : Option Nat) (v k : Nat) (h : k ≠ n.number) :
    (s.raise n a v).noticeClass k = s.noticeClass k := by
  rw [raise_form]
  simp [State.noticeClass_updClass, h]

/-- A raise tells its subject and value. -/
theorem told_raise (s : State) (n : Notice) (a : Option Nat) (v : Nat) : (s.raise n a v).told n.number a v := by
  rw [raise_form]
  exact ⟨by simp [NoticeClass.raised], by simp [NoticeClass.raised]⟩

@[simp] theorem container_requestTurn (s : State) (i c : Nat) : (s.requestTurn i).container c = s.container c := by
  rw [requestTurn_form]
  simp

@[simp] theorem container_rederive (s : State) (c d : Nat) : (s.rederive c).container d = s.container d := rfl

@[simp] theorem round_setMissed (s : State) (c r : Nat) : (s.setMissed c).round r = s.round r := rfl

@[simp] theorem noticeClass_setMissed (s : State) (c n : Nat) : (s.setMissed c).noticeClass n = s.noticeClass n := rfl

@[simp] theorem classes_setStatus (s : State) (c n : Nat) (st : FillStatus) : (s.setStatus c st n).classes = s.classes := by
  rw [setStatus_form]
  rfl

@[simp] theorem noticeClass_setStatus (s : State) (c n k : Nat) (st : FillStatus) :
    (s.setStatus c st n).noticeClass k = s.noticeClass k := State.noticeClass_congr (classes_setStatus s c n st) k

@[simp] theorem noticeClass_unreserveIf (s : State) (b : Bool) (k : Nat) :
    (s.unreserveIf b).noticeClass k = s.noticeClass k := by
  rw [unreserveIf_form]
  rfl

@[simp] theorem classes_makeUnknown (s : State) (c : Nat) : (s.makeUnknown c).classes = s.classes := by
  rw [makeUnknown_form]
  unfold State.requestDue
  dsimp only
  split <;> simp

/-! ### The containers after an operation -/

/-- A pending command set (R111). -/
theorem container_setCommand (s : State) (c d : Nat) (a : InletAction) (w : Nat) (code : DisplayCode) (v : Nat) :
    (s.setCommand c a w code v).container d =
      if d = c then { s.container c with inlet := { (s.container c).inlet with
        command := some { action := a, window := w, code := code, value := v, sent := false } } }
      else s.container d := by
  unfold State.setCommand
  simp [State.container_updInlet]

/-- LOCK CLOSED set. -/
theorem container_lockClosed (s : State) (c d : Nat) : (s.lockClosed c).container d =
    if d = c then { s.container c with inlet := { (s.container c).inlet with command := some InletCommand.closed } }
    else s.container d := by
  unfold State.lockClosed
  rw [container_setCommand]
  rfl

/-- An inlet state and its report (R88, R110). -/
theorem container_setInlet (s : State) (c d : Nat) (st : InletState) : (s.setInlet c st).container d =
    if d = c then { s.container c with
      inlet := { (s.container c).inlet with state := st }
      fill := { (s.container c).fill with
        request := (s.container c).fill.request.report (s.container c).inlet.state st } }
    else s.container d := by
  unfold State.setInlet
  simp [State.container_updContainer]

/-- The report of a change to LIFTING: a DEFERRED request is PENDING once OPEN or SETTLING is left (R88). -/
theorem report_lifting (q : SampleRequest) (n : Inlet) :
    q.report n.state .lifting = if q = .deferred ∧ n.waits = true then .pending else q := by
  cases q <;> cases hs : n.state <;> simp [SampleRequest.report, Inlet.waits, InletState.defers, hs]

/-- The missed mark set (R134). -/
theorem container_setMissed (s : State) (c d : Nat) : (s.setMissed c).container d =
    if d = c then { s.container c with missed := true } else s.container d := by
  unfold State.setMissed
  simp [State.container_updContainer]

/-- A missed stop reported (R134). -/
theorem container_reportMissed (s : State) (r c d : Nat) : (s.reportMissed r c).container d =
    if d = c then { s.container c with missed := true } else s.container d := by
  unfold State.reportMissed
  simp [container_setMissed]

/-- A fill status set. -/
theorem container_setStatus (s : State) (c d : Nat) (st : FillStatus) (n : Nat) : (s.setStatus c st n).container d =
    if d = c then { s.container c with fill := { (s.container c).fill with status := st, fullCount := n } }
    else s.container d := by
  rw [setStatus_form]
  simp [State.container_updFill]

/-- The state of a request that falls due (R85, R88). -/
theorem due_eq (q : SampleRequest) (n : Inlet) :
    q.due n.state = if q = .idle then (if n.waits then .deferred else .pending) else q := by
  cases q <;> cases hs : n.state <;> simp [SampleRequest.due, Inlet.waits, InletState.defers, hs]

/-- A sample request that falls due (R85). -/
theorem container_requestDue (s : State) (c d : Nat) : (s.requestDue c).container d =
    if d = c ∧ (s.container c).live = true then
      { s.container c with fill := { (s.container c).fill with
        request := (s.container c).fill.request.due (s.container c).inlet.state } }
    else s.container d := by
  unfold State.requestDue
  dsimp only
  split
  · rename_i h
    rw [if_neg]
    rintro ⟨_, h2⟩
    simp [Container.live] at h2
    simp_all
  · rename_i h
    rw [State.container_updFill]
    have hl : (s.container c).live = true := by
      simp [Container.live]
      simp_all
    simp [hl]

/-- An estimate made unknown (R82). -/
theorem container_makeUnknown (s : State) (c d : Nat) : (s.makeUnknown c).container d =
    if d = c then { s.container c with fill := { (s.container c).fill with
      estimate := none, risePending := false, status := .unknown, fullCount := 0
      request := if (s.container c).live then (s.container c).fill.request.due (s.container c).inlet.state
        else (s.container c).fill.request } }
    else s.container d := by
  rw [makeUnknown_form, container_requestDue]
  by_cases h : d = c
  · subst h
    have e : (((s.updFill d (fun f => { f with estimate := none, risePending := false })).setStatus d .unknown 0).container
        d).live = (s.container d).live := by
      simp [container_setStatus, State.container_updFill, Container.live]
    rw [e]
    by_cases hl : (s.container d).live = true <;> simp [hl, container_setStatus, State.container_updFill]
  · simp [h, container_setStatus, State.container_updFill]

/-! ### Stops, and what an evaluation reports -/

/-- A stop given back touches at most its container's missed mark. -/
theorem container_returnStop (s : State) (c : Nat) (p : Option (Nat × Nat)) (why : WorkEnd) :
    (∀ d, d ≠ c → (s.returnStop c p why).container d = s.container d) ∧
      ∃ m, (s.returnStop c p why).container c = { s.container c with missed := m } := by
  unfold State.returnStop
  split
  · exact ⟨fun _ _ => rfl, _, rfl⟩
  · split
    · exact ⟨fun _ _ => rfl, (s.container c).missed, rfl⟩
    · split
      · exact ⟨fun d h => by simp [container_reportMissed, h, State.setStop], true,
          by simp [container_reportMissed, State.setStop]⟩
      · exact ⟨fun _ _ => rfl, (s.container c).missed, rfl⟩
    · exact ⟨fun _ _ => rfl, (s.container c).missed, rfl⟩

/-- A stop given back raises no class but STOP_MISSED. -/
theorem noticeClass_returnStop (s : State) (c : Nat) (p : Option (Nat × Nat)) (why : WorkEnd) (n : Nat) (h : n ≠ 18) :
    (s.returnStop c p why).noticeClass n = s.noticeClass n := by
  unfold State.returnStop
  split
  · rfl
  · split <;> (try split) <;> first
      | rfl
      | (unfold State.reportMissed
         rw [noticeClass_raise _ _ _ _ _ h]
         rfl)

/-- What becomes of the stop a service record names when the work ends without a tip (R146, R154, R158, R159, R162). -/
theorem stopReturned_returnStop (s : State) (c : Nat) (v : Service) :
    s.stopReturned (s.returnStop c v.place .untipped) c v := by
  refine ⟨fun r i hr hi => ?_, fun hr => ?_⟩
  · have hp : v.place = some (r, i) := by simp [Service.place, hr, hi]
    rw [hp]
    simp only [State.returnStop]
    have hset : ∀ st : StopState, (∀ q, q ≠ r → (s.setStop r i st).round q = s.round q) ∧
        (s.setStop r i st).round r =
          { s.round r with stops := (s.round r).stops.modify i (fun p => { p with state := some st }) } :=
      fun st => ⟨fun q hq => by simp [State.setStop, State.round_updRound, hq],
        by simp [State.setStop, modifyStop_eq]⟩
    cases hst : (s.round r).state
    case active => exact ⟨(hset _).1, by simp [(hset _).2, hst], fun h => by simp at h, fun _ => ⟨rfl, rfl⟩⟩
    case closing =>
      by_cases hc : (s.round r).closing = some .deadline
      · simp only [hc, and_self, if_true]
        refine ⟨fun q hq => ?_, ?_, fun _ => ⟨?_, ?_⟩, fun h => by simp at h⟩
        · rw [State.reportMissed, State.round_raise, round_setMissed]
          exact (hset _).1 q hq
        · rw [State.reportMissed, State.round_raise, round_setMissed, (hset _).2]
          simp [hst, hc]
        · simp [container_reportMissed]
        · exact told_raise _ .stopMissed _ _
      · simp only [hc, and_false, if_false]
        exact ⟨(hset _).1, by simp [(hset _).2, hst], fun h => by simp at h, fun _ => ⟨rfl, rfl⟩⟩
    all_goals
      exact ⟨fun q _ => rfl, by cases hd : s.round r; simp_all, fun h => by simp at h, fun _ => ⟨rfl, rfl⟩⟩
  · have hp : v.place = none := by simp [Service.place, hr]
    rw [hp]
    exact ⟨rfl, rfl, rfl⟩

/-- It looks at the rounds, the container's missed mark and STOP_MISSED alone. -/
theorem stopReturned_congr {s s' t t' : State} {c : Nat} {v : Service} (h : s.stopReturned t c v)
    (h1 : s'.rounds = s.rounds) (h2 : (s'.container c).missed = (s.container c).missed)
    (h3 : s'.noticeClass 18 = s.noticeClass 18) (h4 : t'.rounds = t.rounds)
    (h5 : (t'.container c).missed = (t.container c).missed) (h6 : t'.noticeClass 18 = t.noticeClass 18) :
    s'.stopReturned t' c v := by
  have hs : ∀ r, s'.round r = s.round r := State.round_congr h1
  have ht : ∀ r, t'.round r = t.round r := State.round_congr h4
  unfold State.stopReturned State.told at *
  simpa only [hs, ht, h1, h2, h3, h4, h5, h6] using h

/-- The counts of a grant that ended without a deposit (R56). -/
theorem grantGone_dropGrant (s : State) (c : Nat) (g : Grant) (h : (s.container c).inlet.grant = some g) :
    s.grantGone (s.dropGrant c) g := by
  rw [dropGrant_form s c g h]
  refine ⟨fun i hi => ?_, fun j hj => ?_⟩
  · simp [hi, State.unhold, Household.unhold]
  · cases hg : g.household with
    | none => simp [State.unhold]
    | some i =>
      have hne : j ≠ i := by
        rintro rfl
        exact hj hg
      simp [State.unhold, State.household_updHousehold, hne]

/-- An evaluation of a known estimate: the status and full-pending count, and the one notice of the change (R97). -/
theorem evaluate_reports (s : State) (c e : Nat) (h : (s.container c).fill.estimate = some e) :
    let k := s.container c
    let F := e * 1000 / k.cfg.capacity
    let r := evaluated k.fill.status k.fill.fullCount F k.cfg.alertLevel k.cfg.fullLevel k.cfg.confirmCount
    (s.evaluate c).container c = { k with fill := { k.fill with status := r.1, fullCount := r.2 } } ∧
    (∀ d, d ≠ c → (s.evaluate c).container d = s.container d) ∧
    (∀ n, n ∉ [9, 10, 11] → (s.evaluate c).noticeClass n = s.noticeClass n) ∧
    s.fillReported (s.evaluate c) c k.fill.status r.1 F := by
  intro k F r
  have e1 : s.evaluate c = (s.setStatus c r.1 r.2).raiseIf (fillNotice k.fill.status r.1) (some c) F := by
    unfold State.evaluate
    dsimp only
    rw [h]
    rfl
  have hc : ∀ d, (s.evaluate c).container d = (s.setStatus c r.1 r.2).container d := by
    intro d
    rw [e1]
    unfold State.raiseIf
    split <;> simp
  refine ⟨?_, fun d hd => ?_, fun n hn => ?_, ?_⟩
  · rw [hc, container_setStatus, if_pos rfl]
  · rw [hc, container_setStatus, if_neg hd]
  · rw [e1]
    unfold State.raiseIf
    split
    · rename_i m hm
      have hne : n ≠ m.number := by
        rintro rfl
        revert hm hn
        unfold fillNotice
        cases r.1 <;> cases k.fill.status <;> cases m <;> simp [Notice.number]
      rw [noticeClass_raise _ _ _ _ _ hne]
      simp
    · simp
  · unfold State.fillReported
    have key : (if r.1 = .overfull ∧ k.fill.status ≠ .overfull then some 11
      else if r.1 = .full ∧ k.fill.status ≠ .full ∧ k.fill.status ≠ .overfull then some 10
      else if (r.1 = .high ∨ r.1 = .fullPending) ∧ (k.fill.status = .unknown ∨ k.fill.status = .normal) then some 9
      else none) = (fillNotice k.fill.status r.1).map Notice.number := by
      unfold fillNotice
      cases r.1 <;> cases k.fill.status <;> simp [Notice.number]
    dsimp only
    rw [key, e1]
    cases hf : fillNotice k.fill.status r.1 with
    | none => exact ⟨fun n hn => by simp at hn, fun n _ _ => by simp [State.raiseIf]⟩
    | some m =>
      refine ⟨fun n hn => ?_, fun n _ hne => ?_⟩
      · simp only [Option.map_some, Option.some.injEq] at hn
        subst hn
        exact told_raise _ _ _ _
      · simp only [Option.map_some, ne_eq, Option.some.injEq] at hne
        show ((s.setStatus c r.1 r.2).raise m _ _).noticeClass n = _
        rw [noticeClass_raise _ _ _ _ _ (Ne.symm hne)]
        simp

end Sys2Proof.Machine
end

