-- ==== Sys2Proof/Laws/Memory.lean ====
section
/-! SUPPORT. The image area of the flash: its canonical form, what it reads after a write, and the lengths of what is
stored. -/

namespace Sys2Proof.Machine

/-! ### The canonical form -/

theorem Memory.wfFrom_ofBytes {a lo : Nat} (h : lo ≤ a) (bytes : List Byte) :
    Memory.wfFrom lo (Memory.ofBytes a bytes) = true := by
  induction bytes generalizing a lo with
  | nil => rfl
  | cons x rest ih =>
    unfold Memory.ofBytes
    split
    · exact ih (by omega)
    · rename_i hx
      simp [Memory.wfFrom, h, hx, ih]

/-- Written bytes are in canonical form. -/
theorem Memory.wf_ofBytes (bytes : List Byte) : Memory.wf (Memory.ofBytes 0 bytes) = true :=
  Memory.wfFrom_ofBytes (le_refl 0) bytes

/-- An empty area is in canonical form. -/
theorem Memory.wf_nil : Memory.wf [] = true := rfl

/-- The area after reset is in canonical form. -/
theorem Memory.wf_reset : Memory.wf State.reset.flash = true := rfl

/-! ### What is read -/

theorem Memory.find_ofBytes_below {a k : Nat} (h : k < a) (bytes : List Byte) :
    Memory.find (Memory.ofBytes a bytes) k = none := by
  induction bytes generalizing a with
  | nil => rfl
  | cons x rest ih =>
    unfold Memory.ofBytes
    split
    · exact ih (by omega)
    · simp only [Memory.find]
      rw [if_neg (by omega)]
      exact ih (by omega)

/-- Written bytes read back; every other address reads as unlisted. -/
theorem Memory.read_ofBytes {a k : Nat} (h : a ≤ k) (bytes : List Byte) :
    Memory.read (Memory.ofBytes a bytes) k = (bytes[k - a]?).getD Memory.unlisted := by
  induction bytes generalizing a with
  | nil => simp [Memory.ofBytes, Memory.read, Memory.find]
  | cons x rest ih =>
    by_cases hk : k = a
    · subst hk
      unfold Memory.ofBytes
      split
      · rename_i hx
        simp [Memory.read, Memory.find_ofBytes_below (Nat.lt_succ_self k), hx]
      · simp [Memory.read, Memory.find]
    · have hi : k - a = (k - (a + 1)) + 1 := by omega
      rw [hi, List.getElem?_cons_succ]
      refine Eq.trans ?_ (ih (a := a + 1) (by omega))
      by_cases hx : x = Memory.unlisted
      · simp only [Memory.ofBytes, hx, if_true]
      · simp only [Memory.ofBytes, hx, if_false, Memory.read, Memory.find]
        rw [if_neg (Ne.symm hk)]

/-- The bytes of an area that holds a byte list from address 0 on. -/
theorem Memory.bytes_ofBytes {a n : Nat} {bytes : List Byte} (h : a + n ≤ bytes.length) :
    Memory.bytes (Memory.ofBytes 0 bytes) a n = (bytes.drop a).take n := by
  apply List.ext_getElem
  · simp [Memory.bytes]; omega
  · intro i h1 h2
    have hi : i < n := by simpa [Memory.bytes] using h1
    simp [Memory.bytes, Memory.read_ofBytes (Nat.zero_le _), List.getElem?_eq_getElem (show a + i < bytes.length by omega)]

/-! ### Every operation on the area keeps its form -/

theorem wf_flash_finishSave (s : State) : Memory.wf s.finishSave.flash = true := Memory.wf_ofBytes _

theorem wf_flash_failSave (s : State) : Memory.wf s.failSave.flash = true := by
  unfold State.failSave
  dsimp only
  split
  · rfl
  · exact Memory.wf_ofBytes _

theorem wf_flash_abandonSave {s : State} (h : Memory.wf s.flash = true) : Memory.wf s.abandonSave.flash = true := by
  unfold State.abandonSave
  split
  · exact Memory.wf_ofBytes _
  · exact h

/-! ### Lengths of what is stored -/

@[simp] theorem length_be (n v : Nat) : (be n v).length = n := by
  induction n generalizing v with
  | zero => rfl
  | succ n ih => simp [be, ih]

@[simp] theorem length_stopEntries (entries : List Byte) : (stopEntries entries).length = 24 := by simp [stopEntries]

/-- The configuration positions of a record have their table's length. -/
theorem length_configBytes (s : State) (t : Table) (i : Nat) : (s.configBytes t i).length = t.configLength := by
  cases t <;>
    simp [State.configBytes, Params.bytes, StationCfg.bytes, Bank.bytes, FractionRec.bytes, Shape.bytes,
      ContainerCfg.bytes, CardCfg.bytes, HouseholdCfg.bytes, RoundCfg.bytes, Table.configLength, index1, index2,
      PerFraction.toList, List.range, List.range.loop]

/-- And so do the positions that the stored image holds. -/
theorem length_storedBytes (s : State) (t : Table) (i : Nat) : (s.storedBytes t i).length = t.configLength := by
  unfold State.storedBytes
  split
  · rename_i h
    rw [h.1]
    rfl
  · exact length_configBytes s t i

/-- Concatenated pieces of one length. -/
theorem length_flatMap_const {l : List Nat} {f : Nat → List Byte} {n : Nat} (h : ∀ i, (f i).length = n) :
    (l.flatMap f).length = l.length * n := by
  induction l with
  | nil => simp
  | cons a l ih =>
    simp only [List.flatMap_cons, List.length_append, List.length_cons, h, ih, Nat.succ_mul]
    omega

/-- Exactly n bytes are n bytes. -/
@[simp] theorem length_exactly (n : Nat) (bytes : List Byte) : (exactly n bytes).length = n := by simp [exactly]

end Sys2Proof.Machine
end

