-- ==== Sys2Proof/Laws/Image.lean ====
section
/-! SUPPORT. The stored image: where a record stands in it, and that a record stored from a legal configuration loads as it
was (R185, R188). -/

namespace Sys2Proof.Machine

/-! ### The bytes of a number -/

theorem ofBe_append (a b : List Byte) : ofBe (a ++ b) = ofBe a * 256 ^ b.length + ofBe b := by
  induction b using List.reverseRecOn with
  | nil => simp [ofBe]
  | append_singleton b x ih =>
    rw [← List.append_assoc]
    simp only [ofBe, List.foldl_append, List.foldl_cons, List.foldl_nil] at ih ⊢
    rw [ih]; simp [List.length_append, pow_succ]; ring

/-- Only the low bytes of a number are spelled. -/
theorem be_mod (n v : Nat) : be n (v % 256 ^ n) = be n v := by
  have key : ∀ m, m ≤ n → be m (v % 256 ^ n) = be m v := by
    intro m
    induction m with
    | zero => intro _; rfl
    | succ m ih =>
      intro hm
      show BitVec.ofNat 8 (v % 256 ^ n / 256 ^ m) :: be m (v % 256 ^ n) = BitVec.ofNat 8 (v / 256 ^ m) :: be m v
      rw [ih (by omega)]
      congr 1
      apply BitVec.eq_of_toNat_eq
      simp only [BitVec.toNat_ofNat]
      obtain ⟨k, rfl⟩ : ∃ k, n = m + 1 + k := ⟨n - (m + 1), by omega⟩
      rw [show 256 ^ (m + 1 + k) = 256 ^ m * (256 * 256 ^ k) by rw [pow_add, pow_succ]; ring,
        Nat.mod_mul_right_div_self, show (2 : Nat) ^ 8 = 256 from rfl, Nat.mod_mul_right_mod]
  exact key n (le_refl n)

theorem ofBe_cons (x : Byte) (l : List Byte) : ofBe (x :: l) = x.toNat * 256 ^ l.length + ofBe l := by
  have := ofBe_append [x] l
  simpa [ofBe] using this

theorem ofBe_lt (l : List Byte) : ofBe l < 256 ^ l.length := by
  induction l with
  | nil => simp [ofBe]
  | cons x l ih =>
    rw [ofBe_cons, List.length_cons, pow_succ]
    have := x.isLt
    have : x.toNat ≤ 255 := by omega
    have := Nat.mul_le_mul_right (256 ^ l.length) this
    omega

/-- The bytes of the number that bytes spell are those bytes. -/
theorem be_ofBe (l : List Byte) : be l.length (ofBe l) = l := by
  induction l with
  | nil => rfl
  | cons x l ih =>
    have hl := ofBe_lt l
    have hp : 0 < 256 ^ l.length := by positivity
    show BitVec.ofNat 8 (ofBe (x :: l) / 256 ^ l.length) :: be l.length (ofBe (x :: l)) = _
    rw [← be_mod l.length (ofBe (x :: l)), ofBe_cons, Nat.mul_comm, Nat.mul_add_mod, Nat.mod_eq_of_lt hl, ih,
      Nat.mul_add_div hp, Nat.div_eq_of_lt hl]
    congr 1
    apply BitVec.eq_of_toNat_eq
    simp

/-- A number that fits reads back from its bytes. -/
theorem ofBe_be {n v : Nat} (h : v < 256 ^ n) : ofBe (be n v) = v := by
  induction n generalizing v with
  | zero => simp at h; subst h; rfl
  | succ n ih =>
    have hp : 0 < 256 ^ n := by positivity
    show ofBe (BitVec.ofNat 8 (v / 256 ^ n) :: be n v) = v
    have hd : v / 256 ^ n < 256 := by rw [Nat.div_lt_iff_lt_mul hp]; rw [pow_succ] at h; omega
    rw [ofBe_cons, ← be_mod, ih (Nat.mod_lt _ hp), length_be, BitVec.toNat_ofNat, Nat.mod_eq_of_lt hd]
    exact Nat.div_add_mod' v (256 ^ n)

/-! ### Numeric quantities in range -/

/-- A quantity in its range is not clamped. -/
theorem clampField_eq {bytes : List Byte} {n : NumField} (h1 : n.lo ≤ field bytes n.offset n.len)
    (h2 : field bytes n.offset n.len ≤ n.hi) (h3 : n.offset + n.len ≤ bytes.length) : clampField bytes n = bytes := by
  have e : clamp n.lo n.hi (field bytes n.offset n.len) = field bytes n.offset n.len := by unfold clamp; omega
  have hl : ((bytes.drop n.offset).take n.len).length = n.len := by simp; omega
  have hb : be n.len (field bytes n.offset n.len) = (bytes.drop n.offset).take n.len := by
    unfold field
    conv_lhs => rw [← hl]
    rw [hl]
    have := be_ofBe ((bytes.drop n.offset).take n.len)
    rw [hl] at this; exact this
  unfold clampField
  rw [e, hb, List.append_assoc, ← List.drop_drop, List.take_append_drop, List.take_append_drop]

/-- Bytes whose every numeric quantity is in its range are not clamped. -/
theorem clampBytes_eq {t : Table} {bytes : List Byte}
    (h : ∀ n ∈ t.numeric, n.lo ≤ field bytes n.offset n.len ∧ field bytes n.offset n.len ≤ n.hi ∧
      n.offset + n.len ≤ bytes.length) : t.clampBytes bytes = bytes := by
  unfold Table.clampBytes
  generalize t.numeric = l at h
  induction l with
  | nil => rfl
  | cons n l ih =>
    rw [List.foldl_cons, clampField_eq (h n (by simp)).1 (h n (by simp)).2.1 (h n (by simp)).2.2]
    exact ih (fun m hm => h m (by simp [hm]))

/-- Legal bytes load as the record they are read as. -/
theorem load_eq {t : Table} {i : Nat} {bytes : List Byte} {r : Record} (h1 : t.clampBytes bytes = bytes)
    (h2 : t.parse bytes = some r) : t.load i bytes = some r := by
  unfold Table.load; rw [if_pos h1, h2]

/-! ### A legal record's own bytes load as it -/

theorem load_params {p : Params} (h : p.legal) : Table.parameters.load 0 p.bytes = some (.parameters p) := by
  obtain ⟨h1, h2, h3, h4, h5, h6, h7, h8, h9, h10, h11, h12, h13, h14⟩ := h
  apply load_eq
  · apply clampBytes_eq
    intro n hn
    simp only [Table.numeric, List.mem_cons, List.not_mem_nil, or_false] at hn
    rcases hn with rfl | rfl | rfl | rfl | rfl | rfl <;> simp [Params.bytes, be, field, ofBe] <;> omega
  · simp only [Table.parse, parseParams, Params.bytes, be, field, ofBe]
    simp
    cases p; simp at *; omega

theorem load_station {p : StationCfg} {i : Nat}
    (h : p.bank ≤ 15 ∧ 5 ≤ p.grantWindow ∧ p.grantWindow ≤ 60 ∧ 1 ≤ p.slotCount ∧ p.slotCount ≤ 4) :
    Table.station.load i p.bytes = some (.station p) := by
  obtain ⟨h1, h2, h3, h4, h5⟩ := h
  apply load_eq
  · apply clampBytes_eq
    intro n hn
    simp only [Table.numeric, List.mem_cons, List.not_mem_nil, or_false] at hn
    rcases hn with rfl | rfl <;> simp [StationCfg.bytes, be, field, ofBe] <;> omega
  · obtain ⟨e, b, w, c⟩ := p
    simp at h1 h2 h3 h4 h5
    simp only [Table.parse, parseStation, StationCfg.bytes, be, field, ofBe, byteAt]
    cases e <;> simp [ofYesNo, yesNo] <;> omega

theorem load_bank {p : Bank} {i : Nat} (h : p.displayNumber ≤ 255) : Table.bank.load i p.bytes = some (.bank p) := by
  apply load_eq
  · rfl
  · obtain ⟨r, d⟩ := p
    simp at h
    simp only [Table.parse, parseBank, Bank.bytes, be, field, ofBe, byteAt]
    cases r <;> simp [ofYesNo, yesNo] <;> omega

theorem load_fraction {p : FractionRec} {i : Nat} (h : p.nominal ≤ 255) :
    Table.fraction.load i p.bytes = some (.fraction p) := by
  apply load_eq
  · rfl
  · obtain ⟨n, m⟩ := p
    simp at h
    simp only [Table.parse, parseFraction, FractionRec.bytes, be, field, ofBe, byteAt]
    cases m <;> simp [ofYesNo, yesNo] <;> omega

theorem load_shape {p : Shape} {i : Nat} (h : p.legal) : Table.shape.load i p.bytes = some (.shape p) := by
  obtain ⟨hl, h0, h8, hm⟩ := h
  obtain ⟨points⟩ := p
  simp only at hl
  match points, hl with
  | [a, b, c, d, e, f, g, x, y], _ =>
    have m0 := hm 0 (by omega); have m1 := hm 1 (by omega); have m2 := hm 2 (by omega); have m3 := hm 3 (by omega)
    have m4 := hm 4 (by omega); have m5 := hm 5 (by omega); have m6 := hm 6 (by omega); have m7 := hm 7 (by omega)
    simp [Shape.point] at h0 h8 m0 m1 m2 m3 m4 m5 m6 m7
    subst h0 h8
    apply load_eq
    · rfl
    · have key : ∀ v : Nat, v ≤ 1000 → v / 256 % 256 * 256 + v % 256 = v := by intro v hv; omega
      simp only [Table.parse, parseShape, Shape.bytes, be, field, ofBe]
      simp [Shape.point, List.range, List.range.loop, nonDecreasing]
      rw [key b (by omega), key c (by omega), key d (by omega), key e (by omega), key f (by omega), key g (by omega),
        key x (by omega)]
      simp; omega

/-- A reference in range, or none, reads back. -/
theorem indexOrNone_getD {v : Option Nat} {ofNone bound : Nat} (h : ∀ a, v = some a → a < bound ∧ a ≠ ofNone) :
    indexOrNone (v.getD ofNone) ofNone bound = some v := by
  cases v with
  | none => simp [indexOrNone]
  | some a => obtain ⟨h1, h2⟩ := h a rfl; simp [indexOrNone, h1, h2]

theorem load_container {p : ContainerCfg} {i : Nat} (h : p.legal) :
    Table.container.load i p.bytes = some (.container p) := by
  obtain ⟨h1, h2, h3, h4, h5, h6, h7, h8, h9, h10, h11, h12, h13, h14, h15, h16, h17, h18, h19, h20, h21⟩ := h
  apply load_eq
  · apply clampBytes_eq
    intro n hn
    simp only [Table.numeric, List.mem_cons, List.not_mem_nil, or_false] at hn
    rcases hn with rfl | rfl | rfl | rfl | rfl | rfl | rfl | rfl | rfl | rfl | rfl | rfl | rfl <;>
      simp [ContainerCfg.bytes, index1, be, field, ofBe] <;> omega
  · obtain ⟨pr, fr, cap, hs, dz, sh, w, tol, sink, q, si, k, al, fl, cc, rl, alt⟩ := p
    simp only at *
    have k1 : ∀ v : Nat, v ≤ 255 → v % 256 = v := by intro v hv; omega
    have k2 : ∀ v : Nat, v ≤ 65535 → v / 256 % 256 * 256 + v % 256 = v := by intro v hv; omega
    simp only [Table.parse, parseContainer, ContainerCfg.bytes, index1, be, field, ofBe, byteAt]
    have ha : ∀ a, alt = some a → a ≤ 127 := h21
    simp
    rw [k2 cap (by omega), k2 hs (by omega), k2 dz (by omega), k1 sh (by omega), k1 w (by omega), k2 tol (by omega),
      k1 sink (by omega), k1 q (by omega), k1 si (by omega), k1 k (by omega), k2 al (by omega), k2 fl (by omega),
      k1 cc (by omega), k2 rl (by omega)]
    have e1 : yesNo (ofYesNo pr) = some pr := by cases pr <;> rfl
    have e2 : Fraction.ofCode (fr.code % 256) = some fr := by cases fr <;> rfl
    have e3 : indexOrNone (alt.getD 255 % 256) 255 128 = some alt := by
      rw [k1 _ (by cases alt with
        | none => simp
        | some a => have := ha a rfl; simp; omega)]
      exact indexOrNone_getD (fun a e => by have := ha a e; omega)
    rw [e1, e2, e3]
    simp; omega

theorem load_card {p : CardCfg} {i : Nat} (h1 : p.generation ≤ 15) (h2 : ∀ h, p.household = some h → h ≤ 2047) :
    Table.card.load i p.bytes = some (.card p) := by
  apply load_eq
  · apply clampBytes_eq
    intro n hn
    simp only [Table.numeric, List.mem_cons, List.not_mem_nil, or_false] at hn
    subst hn
    simp [CardCfg.bytes, index2, be, field, ofBe]; omega
  · obtain ⟨g, c, st, hh, fs, bs⟩ := p
    simp only at *
    simp only [Table.parse, parseCardRecord, CardCfg.bytes, index2, be, field, ofBe]
    simp
    have e1 : CardClass.ofCode (c.code % 256) = some c := by cases c <;> rfl
    have e2 : CardStatus.ofCode (st.code % 256) = some st := by cases st <;> rfl
    have e3 : indexOrNone (hh.getD 65535 / 256 % 256 * 256 + hh.getD 65535 % 256) 65535 2048 = some hh := by
      have : hh.getD 65535 ≤ 65535 := by
        cases hh with
        | none => simp
        | some a => have := h2 a rfl; simp; omega
      rw [show hh.getD 65535 / 256 % 256 * 256 + hh.getD 65535 % 256 = hh.getD 65535 by omega]
      exact indexOrNone_getD (fun a e => by have := h2 a e; omega)
    have hf := fs.isLt
    have hb := bs.isLt
    rw [e1, e2, e3]
    simp
    refine ⟨by omega, by omega, ?_, ?_⟩
    · apply BitVec.eq_of_toNat_eq; simp; omega
    · apply BitVec.eq_of_toNat_eq; simp; omega

theorem load_household {p : HouseholdCfg} {i : Nat} (h : ∀ f, p.allowance.get f ≤ 255) :
    Table.household.load i p.bytes = some (.household p) := by
  have a := h .residual; have b := h .paper; have c := h .glass; have d := h .packaging; have e := h .organic
  have f := h .textile
  apply load_eq
  · rfl
  · obtain ⟨m, ⟨r, pa, gl, pk, og, tx⟩⟩ := p
    simp [PerFraction.get] at a b c d e f
    simp only [Table.parse, parseHousehold, HouseholdCfg.bytes, PerFraction.toList, be, field, ofBe, byteAt]
    cases m <;> simp [ofYesNo, yesNo] <;> omega

theorem load_noticeClass {n i : Nat} (h : n ≤ 3) : Table.noticeClass.load i (be 1 n) = some (.noticeClass n) := by
  apply load_eq
  · apply clampBytes_eq
    intro x hx
    simp only [Table.numeric, List.mem_cons, List.not_mem_nil, or_false] at hx
    subst hx
    simp [be, field, ofBe]; omega
  · simp [Table.parse, be, field, ofBe]; omega

theorem distinct_of_nodup {l : List Nat} (h : l.Nodup) : distinct l = true := by
  induction l with
  | nil => rfl
  | cons a l ih =>
    rw [List.nodup_cons] at h
    simp [distinct, ih h.2, h.1]

theorem load_round {p : RoundCfg} {cs : List Nat} {i : Nat} (h1 : p.releaseTime ≤ 86399) (h2 : 10 ≤ p.deadlineLen)
    (h3 : p.deadlineLen ≤ 1440) (h4 : ∀ n, p.crew = some n → 1 ≤ n ∧ n ≤ 4095) (h5 : cs.length ≤ 24)
    (h6 : ∀ c ∈ cs, c ≤ 127) (h7 : cs.Nodup) : Table.round.load i (p.bytes cs) = some (.round p cs) := by
  have hc : cs.flatMap (be 1) = cs.map (fun c => BitVec.ofNat 8 c) := by
    clear h5 h6 h7
    induction cs with
    | nil => rfl
    | cons c cs ih => rw [List.flatMap_cons, ih]; simp [be]
  have hl : cs.length % 256 = cs.length := by omega
  apply load_eq
  · apply clampBytes_eq
    intro n hn
    simp only [Table.numeric, List.mem_cons, List.not_mem_nil, or_false] at hn
    rcases hn with rfl | rfl <;> simp [RoundCfg.bytes, be, field, ofBe] <;> omega
  · obtain ⟨fr, crew, st, rt, dl⟩ := p
    simp only at *
    have hs : ((RoundCfg.bytes ⟨fr, crew, st, rt, dl⟩ cs).drop 10).take cs.length = cs.map (fun c => BitVec.ofNat 8 c) := by
      have : (RoundCfg.bytes ⟨fr, crew, st, rt, dl⟩ cs).drop 10 = stopEntries (cs.map (fun c => BitVec.ofNat 8 c)) := by
        unfold RoundCfg.bytes; rw [hc]; simp [be]
      rw [this, stopEntries, List.take_take, Nat.min_eq_left h5, List.take_append_of_le_length (by simp),
        List.take_of_length_le (by simp)]
    have hcs : (cs.map (fun c => BitVec.ofNat 8 c)).map BitVec.toNat = cs := by
      rw [List.map_map]
      conv_rhs => rw [← List.map_id cs]
      apply List.map_congr_left
      intro c hcm
      have := h6 c hcm
      simp; omega
    have f9 : field (RoundCfg.bytes ⟨fr, crew, st, rt, dl⟩ cs) 9 1 = cs.length := by
      simp [RoundCfg.bytes, be, field, ofBe, hl]
    simp only [Table.parse, parseRound, f9, hs, hcs]
    have g0 : field (RoundCfg.bytes ⟨fr, crew, st, rt, dl⟩ cs) 0 1 = fr.code := by
      simp [RoundCfg.bytes, be, field, ofBe]; cases fr <;> decide
    have g1 : field (RoundCfg.bytes ⟨fr, crew, st, rt, dl⟩ cs) 1 2 = crew.getD 0 := by
      simp [RoundCfg.bytes, be, field, ofBe]
      cases crew with
      | none => rfl
      | some n => have := h4 n rfl; simp; omega
    have g3 : byteAt (RoundCfg.bytes ⟨fr, crew, st, rt, dl⟩ cs) 3 = ofYesNo st := by
      simp [RoundCfg.bytes, be, byteAt]
    have g4 : field (RoundCfg.bytes ⟨fr, crew, st, rt, dl⟩ cs) 4 3 = rt := by
      simp [RoundCfg.bytes, be, field, ofBe]; omega
    have g7 : field (RoundCfg.bytes ⟨fr, crew, st, rt, dl⟩ cs) 7 2 = dl := by
      simp [RoundCfg.bytes, be, field, ofBe]; omega
    have e1 : Fraction.ofCode fr.code = some fr := by cases fr <;> rfl
    have e2 : indexOrNone (crew.getD 0) 0 4096 = some crew :=
      indexOrNone_getD (fun n e => by have := h4 n e; omega)
    have e3 : yesNo (ofYesNo st) = some st := by cases st <;> rfl
    rw [g0, g1, g3, g4, g7, e1, e2, e3]
    simp only
    rw [if_pos ⟨h5, by simp; intro c hcm; have := h6 c hcm; omega, distinct_of_nodup h7⟩]
    rfl

/-! ### Where a record stands -/

/-- The piece of a concatenation of pieces of one length. -/
theorem take_drop_flatMap {l : List Nat} {f : Nat → List Byte} {n : Nat} (hf : ∀ i, (f i).length = n) (k : Nat)
    (hk : k < l.length) : ((l.flatMap f).drop (k * n)).take n = f l[k] := by
  induction l generalizing k with
  | nil => simp at hk
  | cons a l ih =>
    rw [List.flatMap_cons]
    cases k with
    | zero => simp only [Nat.zero_mul, List.drop_zero, List.getElem_cons_zero]; rw [← hf a, List.take_left]
    | succ k =>
      rw [Nat.succ_mul, Nat.add_comm, ← List.drop_drop]
      conv_lhs => rw [← hf a]
      rw [List.drop_left, hf a]
      simp only [List.length_cons] at hk
      rw [ih k (by omega)]; rfl

/-- The bytes of one table in the image body. -/
def State.tableBytes (s : State) (t : Table) : List Byte := t.storedIndices.flatMap (s.storedBytes t)

theorem length_tableBytes (s : State) (t : Table) : (s.tableBytes t).length = t.storedIndices.length * t.configLength :=
  length_flatMap_const (length_storedBytes s t)

/-- A stored record of a table, by its place among the table's stored indices. -/
theorem take_drop_tableBytes (s : State) (t : Table) (k : Nat) (hk : k < t.storedIndices.length) :
    ((s.tableBytes t).drop (k * t.configLength)).take t.configLength = s.storedBytes t t.storedIndices[k] :=
  take_drop_flatMap (length_storedBytes s t) k hk

theorem storedImage_eq (s : State) : s.storedImage = imageHeader ++ (s.tableBytes .parameters ++ (s.tableBytes .station ++
    (s.tableBytes .bank ++ (s.tableBytes .fraction ++ (s.tableBytes .shape ++ (s.tableBytes .container ++
    (s.tableBytes .card ++ (s.tableBytes .household ++ (s.tableBytes .round ++ (s.tableBytes .noticeClass ++
    be 4 (crc32 (imageHeader ++ s.imageBody)).toNat)))))))))) := by
  unfold State.storedImage State.imageBody State.tableBytes
  simp only [List.flatMap_cons, List.flatMap_nil, List.append_nil, List.append_assoc]

theorem take_drop_left {a b : List Byte} {i n m : Nat} (hl : a.length = m) (h : i + n ≤ m) :
    ((a ++ b).drop i).take n = (a.drop i).take n := by
  rw [List.drop_append_of_le_length (by omega), List.take_append_of_le_length (by simp; omega)]

theorem take_drop_right {a b : List Byte} {i n m : Nat} (hl : a.length = m) (h : m ≤ i) :
    ((a ++ b).drop i).take n = (b.drop (i - m)).take n := by
  rw [List.drop_append, List.drop_of_length_le (by omega), List.nil_append, hl]

/-- The place of a record's index among the stored indices of its table. -/
def storedPlace (t : Table) (i : Nat) : Nat := if t = .noticeClass then i - 1 else i

/-- Two slices from equal places are equal. -/
theorem take_drop_congr {l : List Byte} {i j n : Nat} (h : i = j) : (l.drop i).take n = (l.drop j).take n := by
  rw [h]

/-- The bytes of a record stand at its address of the stored image (R185). -/
theorem take_drop_storedImage (s : State) (t : Table) (i : Nat) (hi : i ∈ t.storedIndices) :
    (s.storedImage.drop (recordAddress t i)).take t.configLength = s.storedBytes t i := by
  have hk : ∃ hk : storedPlace t i < t.storedIndices.length, t.storedIndices[storedPlace t i] = i := by
    cases t <;> simp [Table.storedIndices, Table.writeRange, storedPlace] at hi ⊢ <;> omega
  obtain ⟨hk, hget⟩ := hk
  have key := take_drop_tableBytes s t (storedPlace t i) hk
  rw [hget] at key
  rw [← key, storedImage_eq]
  have e0 : imageHeader.length = 6 := rfl
  have e1 : (s.tableBytes .parameters).length = 14 := length_tableBytes s _
  have e2 : (s.tableBytes .station).length = 128 := length_tableBytes s _
  have e3 : (s.tableBytes .bank).length = 32 := length_tableBytes s _
  have e4 : (s.tableBytes .fraction).length = 12 := length_tableBytes s _
  have e5 : (s.tableBytes .shape).length = 144 := length_tableBytes s _
  have e6 : (s.tableBytes .container).length = 3072 := by
    rw [length_tableBytes, show Table.container.storedIndices.length = 128 from List.length_range]
    show 128 * 24 = 3072
    norm_num
  have e7 : (s.tableBytes .card).length = 32768 := by
    rw [length_tableBytes, show Table.card.storedIndices.length = 4096 from List.length_range]
    show 4096 * 8 = 32768
    norm_num
  have e8 : (s.tableBytes .household).length = 14336 := by
    rw [length_tableBytes, show Table.household.storedIndices.length = 2048 from List.length_range]
    show 2048 * 7 = 14336
    norm_num
  have e9 : (s.tableBytes .round).length = 136 := length_tableBytes s _
  have e10 : (s.tableBytes .noticeClass).length = 24 := length_tableBytes s _
  cases t <;> simp only [Table.storedIndices, Table.writeRange, List.mem_range, List.mem_map] at hi <;>
    simp only [recordAddress, Table.configLength, storedPlace, reduceCtorEq, if_false, if_true]
  case parameters =>
    rw [take_drop_right e0 (by omega), take_drop_left e1 (by omega)]
    exact take_drop_congr (by omega)
  case station =>
    rw [take_drop_right e0 (by omega), take_drop_right e1 (by omega), take_drop_left e2 (by omega)]
    exact take_drop_congr (by omega)
  case bank =>
    rw [take_drop_right e0 (by omega), take_drop_right e1 (by omega), take_drop_right e2 (by omega),
      take_drop_left e3 (by omega)]
    exact take_drop_congr (by omega)
  case fraction =>
    rw [take_drop_right e0 (by omega), take_drop_right e1 (by omega), take_drop_right e2 (by omega),
      take_drop_right e3 (by omega), take_drop_left e4 (by omega)]
    exact take_drop_congr (by omega)
  case shape =>
    rw [take_drop_right e0 (by omega), take_drop_right e1 (by omega), take_drop_right e2 (by omega),
      take_drop_right e3 (by omega), take_drop_right e4 (by omega), take_drop_left e5 (by omega)]
    exact take_drop_congr (by omega)
  case container =>
    rw [take_drop_right e0 (by omega), take_drop_right e1 (by omega), take_drop_right e2 (by omega),
      take_drop_right e3 (by omega), take_drop_right e4 (by omega), take_drop_right e5 (by omega),
      take_drop_left e6 (by omega)]
    exact take_drop_congr (by omega)
  case card =>
    rw [take_drop_right e0 (by omega), take_drop_right e1 (by omega), take_drop_right e2 (by omega),
      take_drop_right e3 (by omega), take_drop_right e4 (by omega), take_drop_right e5 (by omega),
      take_drop_right e6 (by omega), take_drop_left e7 (by omega)]
    exact take_drop_congr (by omega)
  case household =>
    rw [take_drop_right e0 (by omega), take_drop_right e1 (by omega), take_drop_right e2 (by omega),
      take_drop_right e3 (by omega), take_drop_right e4 (by omega), take_drop_right e5 (by omega),
      take_drop_right e6 (by omega), take_drop_right e7 (by omega), take_drop_left e8 (by omega)]
    exact take_drop_congr (by omega)
  case round =>
    rw [take_drop_right e0 (by omega), take_drop_right e1 (by omega), take_drop_right e2 (by omega),
      take_drop_right e3 (by omega), take_drop_right e4 (by omega), take_drop_right e5 (by omega),
      take_drop_right e6 (by omega), take_drop_right e7 (by omega), take_drop_right e8 (by omega),
      take_drop_left e9 (by omega)]
    exact take_drop_congr (by omega)
  case noticeClass =>
    obtain ⟨a, ha, rfl⟩ := hi
    rw [take_drop_right e0 (by omega), take_drop_right e1 (by omega), take_drop_right e2 (by omega),
      take_drop_right e3 (by omega), take_drop_right e4 (by omega), take_drop_right e5 (by omega),
      take_drop_right e6 (by omega), take_drop_right e7 (by omega), take_drop_right e8 (by omega),
      take_drop_right e9 (by omega), take_drop_left e10 (by omega)]
    exact take_drop_congr (by omega)

/-- A record of an image is loaded from the bytes stored for it. -/
theorem loadRecord_storedImage (s : State) (t : Table) (i : Nat) (hi : i ∈ t.storedIndices) :
    loadRecord (Memory.ofBytes 0 s.storedImage) t i = t.load i (s.storedBytes t i) := by
  have h := take_drop_storedImage s t i hi
  have hl : recordAddress t i + t.configLength ≤ s.storedImage.length := by
    have h2 := congrArg List.length h
    rw [length_storedBytes] at h2
    have hp : 0 < t.configLength := by cases t <;> decide
    simp only [List.length_take, List.length_drop] at h2
    omega
  unfold loadRecord
  rw [Memory.bytes_ofBytes hl, h]

/-! ### The whole image -/

theorem length_imageBody (s : State) : s.imageBody.length = bodyLength := by
  have h : s.imageBody = s.tableBytes .parameters ++ (s.tableBytes .station ++ (s.tableBytes .bank ++
      (s.tableBytes .fraction ++ (s.tableBytes .shape ++ (s.tableBytes .container ++ (s.tableBytes .card ++
      (s.tableBytes .household ++ (s.tableBytes .round ++ s.tableBytes .noticeClass)))))))) := by
    unfold State.imageBody State.tableBytes
    simp only [List.flatMap_cons, List.flatMap_nil, List.append_nil]
  rw [h]
  simp only [List.length_append, length_tableBytes, Table.storedIndices, List.length_map, List.length_range,
    Table.writeRange, Table.configLength, bodyLength]

/-- A stored image judges VALID (R185, R188). -/
theorem judge_storedImage (s : State) : judge true (Memory.ofBytes 0 s.storedImage) = .valid := by
  have h6 : imageHeader.length = 6 := rfl
  have hb : s.imageBody.length = bodyLength := length_imageBody s
  have hl : s.storedImage.length = 6 + bodyLength + 4 := by
    unfold State.storedImage
    rw [List.length_append, List.length_append, h6, hb, length_be]
  have e1 : Memory.bytes (Memory.ofBytes 0 s.storedImage) 0 6 = imageHeader := by
    rw [Memory.bytes_ofBytes (by rw [hl]; omega), List.drop_zero]
    unfold State.storedImage
    rw [List.append_assoc, ← h6, List.take_left]
  have e2 : Memory.bytes (Memory.ofBytes 0 s.storedImage) (6 + bodyLength) 4 =
      be 4 (crc32 (imageHeader ++ s.imageBody)).toNat := by
    rw [Memory.bytes_ofBytes (by rw [hl])]
    unfold State.storedImage
    rw [List.drop_left' (by rw [List.length_append, h6, hb])]
    exact List.take_of_length_le (length_be _ _).le
  have e3 : Memory.bytes (Memory.ofBytes 0 s.storedImage) 0 (6 + bodyLength) = imageHeader ++ s.imageBody := by
    rw [Memory.bytes_ofBytes (by rw [hl]; omega), List.drop_zero]
    unfold State.storedImage
    rw [List.take_left' (by rw [List.length_append, h6, hb])]
  unfold judge
  rw [e1, e2, e3, ofBe_be (BitVec.isLt _), if_neg (by decide), if_neg (by decide), if_pos ⟨rfl, rfl⟩]

section Loaded
variable {v : State} (h : v.configLegal)
include h

theorem loadedParams_storedImage : loadedParams (Memory.ofBytes 0 v.storedImage) = v.params := by
  unfold loadedParams
  rw [loadRecord_storedImage v .parameters 0 (by simp [Table.storedIndices, Table.writeRange]),
    show v.storedBytes .parameters 0 = v.params.bytes from rfl, load_params h.1]

theorem loadedStation_storedImage {i : Nat} (hi : i < 32) :
    loadedStation (Memory.ofBytes 0 v.storedImage) i = (v.station i).cfg := by
  unfold loadedStation
  rw [loadRecord_storedImage v .station i (List.mem_range.mpr hi),
    show v.storedBytes .station i = (v.station i).cfg.bytes from rfl, load_station (h.2.1 i)]

theorem loadedBank_storedImage {i : Nat} (hi : i < 16) : loadedBank (Memory.ofBytes 0 v.storedImage) i = v.bank i := by
  unfold loadedBank
  rw [loadRecord_storedImage v .bank i (List.mem_range.mpr hi),
    show v.storedBytes .bank i = (v.bank i).bytes from rfl, load_bank (h.2.2.1 i)]

theorem loadedFraction_storedImage (f : Fraction) :
    loadedFraction (Memory.ofBytes 0 v.storedImage) f.code = v.fraction f := by
  unfold loadedFraction
  rw [loadRecord_storedImage v .fraction f.code (List.mem_range.mpr (by cases f <;> decide)),
    show v.storedBytes .fraction f.code = (v.fraction f).bytes from rfl, load_fraction (h.2.2.2.1 f)]

theorem loadedShape_storedImage {i : Nat} (hi : i < 8) : loadedShape (Memory.ofBytes 0 v.storedImage) i = v.shape i := by
  unfold loadedShape
  rw [loadRecord_storedImage v .shape i (List.mem_range.mpr hi),
    show v.storedBytes .shape i = (v.shape i).bytes from rfl, load_shape (h.2.2.2.2.1 i)]

theorem loadedContainer_storedImage {c : Nat} (hc : c < 128) :
    loadedContainer (Memory.ofBytes 0 v.storedImage) c = (v.container c).cfg := by
  unfold loadedContainer
  rw [loadRecord_storedImage v .container c (List.mem_range.mpr hc),
    show v.storedBytes .container c = (v.container c).cfg.bytes from rfl, load_container (h.2.2.2.2.2.1 c)]

theorem loadedCard_storedImage {i : Nat} (h1 : 1 ≤ i) (h2 : i < 4096) :
    loadedCard (Memory.ofBytes 0 v.storedImage) i = (v.card i).cfg := by
  have hb : v.storedBytes .card i = (v.card i).cfg.bytes := by
    unfold State.storedBytes; rw [if_neg (by omega)]; rfl
  unfold loadedCard
  rw [if_neg (by omega), loadRecord_storedImage v .card i (List.mem_range.mpr h2), hb,
    load_card (h.2.2.2.2.2.2.1 i).1 (h.2.2.2.2.2.2.1 i).2]

theorem loadedHousehold_storedImage {i : Nat} (hi : i < 2048) :
    loadedHousehold (Memory.ofBytes 0 v.storedImage) i = (v.household i).cfg := by
  unfold loadedHousehold
  rw [loadRecord_storedImage v .household i (List.mem_range.mpr hi),
    show v.storedBytes .household i = (v.household i).cfg.bytes from rfl, load_household (h.2.2.2.2.2.2.2.1 i)]

theorem loadedRound_storedImage {r : Nat} (hr : r < 4) (hl : (v.round r).stopsLegal) :
    loadedRound (Memory.ofBytes 0 v.storedImage) r = ((v.round r).cfg, (v.round r).cfgStops) := by
  obtain ⟨h1, h2, h3, h4, h5⟩ := h.2.2.2.2.2.2.2.2.1 r
  have hs : List.Sublist (v.round r).cfgStops ((v.round r).stops.map Stop.container) := List.filter_sublist.map _
  unfold loadedRound
  rw [loadRecord_storedImage v .round r (List.mem_range.mpr hr),
    show v.storedBytes .round r = (v.round r).cfg.bytes (v.round r).cfgStops from rfl,
    load_round h1 h2 h3 h5 (by have := hs.length_le; simp at this; omega)
      (fun c hc => by
        obtain ⟨p, hp, rfl⟩ := List.mem_map.mp (hs.subset hc)
        exact hl.1 p hp) (hs.nodup hl.2)]

theorem loadedPriority_storedImage {n : Nat} (h1 : 1 ≤ n) (h2 : n ≤ 24) :
    loadedPriority (Memory.ofBytes 0 v.storedImage) n = (v.noticeClass n).priority := by
  unfold loadedPriority
  rw [loadRecord_storedImage v .noticeClass n (List.mem_map.mpr ⟨n - 1, List.mem_range.mpr (by omega), by omega⟩),
    show v.storedBytes .noticeClass n = be 1 (v.noticeClass n).priority from rfl,
    load_noticeClass (h.2.2.2.2.2.2.2.2.2 n)]

end Loaded

end Sys2Proof.Machine
end

