-- ==== Sys2Proof/Laws/Inlet.lean ====
section
/-! SUPPORT. What every container's inlet reads after each operation of Inlet Control; all that is quiet leaves it alone. -/

namespace Sys2Proof.Machine

/-- The inlets of a state, as a function of the container. -/
def State.inlets (s : State) : Nat → Inlet := fun d => (s.container d).inlet

theorem State.inlets_congr {s t : State} (h : t.containers = s.containers) : t.inlets = s.inlets := by
  funext d; unfold State.inlets; rw [State.container_congr h]

theorem State.inlets_updContainer (s : State) (c : Nat) (f : Container → Container) :
    (s.updContainer c f).inlets = fun d => if d = c then (f (s.container c)).inlet else s.inlets d := by
  funext d
  unfold State.inlets
  rw [State.container_updContainer]
  split <;> rfl

theorem State.inlets_updContainer_same (s : State) (c : Nat) (f : Container → Container)
    (hf : ∀ k, (f k).inlet = k.inlet) : (s.updContainer c f).inlets = s.inlets := by
  rw [State.inlets_updContainer]
  funext d
  split
  · rename_i h; subst h; exact hf _
  · rfl

@[simp] theorem State.inlets_updFill (s : State) (c : Nat) (f : Fill → Fill) : (s.updFill c f).inlets = s.inlets :=
  State.inlets_updContainer_same s c _ (fun _ => rfl)

@[simp] theorem State.inlets_rederive (s : State) (c : Nat) : (s.rederive c).inlets = s.inlets := rfl

/-- A property of the inlets alone is kept by all that is quiet. -/
theorem quiet_of_inlets (Φ : (Nat → Inlet) → Prop) : Quiet (fun t => Φ t.inlets) where
  fillOnly := fun s c f _ hf _ h => by
    show Φ (State.inlets _)
    rw [State.inlets_updContainer_same s c f hf]; exact h
  setStatus := fun s c st n h => by
    show Φ (State.inlets _)
    have h1 : (s.setStatus c st n).inlets = s.inlets := by
      unfold State.setStatus; dsimp only
      split <;> simp
    rw [h1]; exact h
  setForced := fun s c b h => by
    show Φ (State.inlets _)
    unfold State.setForced
    rw [State.inlets_rederive, State.inlets_updContainer_same]
    · exact h
    · exact fun _ => rfl
  setMissed := fun s c h => by
    show Φ (State.inlets _)
    unfold State.setMissed
    rw [State.inlets_rederive, State.inlets_updContainer_same]
    · exact h
    · exact fun _ => rfl
  clearMarks := fun s c h => by
    show Φ (State.inlets _)
    unfold State.clearMarks
    rw [State.inlets_rederive, State.inlets_updContainer_same]
    · exact h
    · exact fun _ => rfl
  station := fun _ _ _ _ h => h
  card := fun _ _ _ _ h => h
  household := fun _ _ _ _ h => h
  round := fun _ _ _ _ h => h
  appendStop := fun _ _ _ _ _ _ h => h
  rounds := fun _ _ _ _ h => h
  planner := fun _ _ _ h => h
  watch := fun _ _ _ h => h
  line := fun s l f _ h => by cases l <;> exact h
  journal := fun _ _ h => h
  raise := fun s n a v h => by
    show Φ (State.inlets _)
    rw [State.inlets_congr (State.raise_containers s n a v)]; exact h
  toCenter := fun _ _ _ _ h => h
  takeParked := fun _ _ _ _ h => h

/-- What is quiet, said of one operation: it leaves the inlets as they were. -/
theorem quiet_inlets (s : State) : Quiet (fun t => t.inlets = s.inlets) := quiet_of_inlets (fun i => i = s.inlets)

namespace State

variable (s : State) (c : Nat)

@[simp] theorem inlets_updInlet (f : Inlet → Inlet) :
    (s.updInlet c f).inlets = fun d => if d = c then f (s.inlets c) else s.inlets d := inlets_updContainer s c _

@[simp] theorem inlets_raise (n : Notice) (a : Option Nat) (v : Nat) : (s.raise n a v).inlets = s.inlets :=
  (quiet_inlets s).raise s n a v rfl

@[simp] theorem inlets_setInlet (st : InletState) :
    (s.setInlet c st).inlets = fun d => if d = c then { s.inlets c with state := st } else s.inlets d :=
  inlets_updContainer s c _

@[simp] theorem inlets_requestTurn (i : Nat) : (s.requestTurn i).inlets = s.inlets :=
  (quiet_inlets s).requestTurn rfl i

@[simp] theorem inlets_setCommand (a : InletAction) (w : Nat) (code : DisplayCode) (v : Nat) :
    (s.setCommand c a w code v).inlets = fun d => if d = c then
      { s.inlets c with command := some { action := a, window := w, code := code, value := v, sent := false } }
      else s.inlets d := by
  unfold setCommand; rw [inlets_requestTurn, inlets_updInlet]

@[simp] theorem inlets_lockClosed :
    (s.lockClosed c).inlets = fun d => if d = c then
      { s.inlets c with command := some { action := .lock, window := 0, code := .closed, value := 0, sent := false } }
      else s.inlets d := inlets_setCommand s c _ _ _ _

@[simp] theorem inlets_unhold (h : Option Nat) (f : Fraction) : (s.unhold h f).inlets = s.inlets :=
  (quiet_inlets s).unhold rfl h f

@[simp] theorem inlets_unreserveIf (b : Bool) : (s.unreserveIf b).inlets = s.inlets :=
  (quiet_inlets s).unreserveIf rfl b

/-- Dropping the grant takes the grant record alone out of the inlet (R56). -/
@[simp] theorem inlets_dropGrant :
    (s.dropGrant c).inlets = fun d => if d = c then { s.inlets c with grant := none } else s.inlets d := by
  unfold dropGrant
  split
  · rename_i h
    funext d; split
    · rename_i e; subst e
      show s.inlets d = _
      have : (s.inlets d).grant = none := h
      generalize s.inlets d = n at *
      cases n; simp_all
    · rfl
  · rw [inlets_unreserveIf, inlets_unhold, inlets_updInlet]

@[simp] theorem inlets_returnStop (place : Option (Nat × Nat)) (why : WorkEnd) :
    (s.returnStop c place why).inlets = s.inlets := (quiet_inlets s).returnStop rfl c place why

/-- The end of a crew's work takes the service record alone out of the inlet (R154, R158, R159, R162). -/
@[simp] theorem inlets_endWork (why : WorkEnd) :
    (s.endWork c why).inlets = fun d => if d = c then { s.inlets c with service := none } else s.inlets d := by
  unfold endWork
  split
  · rename_i h
    funext d; split
    · rename_i e; subst e
      have : (s.inlets d).service = none := h
      generalize s.inlets d = n at *
      cases n; simp_all
    · rfl
  · rw [inlets_updInlet, inlets_unreserveIf, inlets_returnStop]

@[simp] theorem inlets_makeUnknown : (s.makeUnknown c).inlets = s.inlets := (quiet_inlets s).makeUnknown rfl c

@[simp] theorem inlets_putBar (r : BarReason) (v : Bool) :
    (s.putBar c r v).inlets = fun d => if d = c then { s.inlets c with bars := (s.inlets c).bars.put r v }
      else s.inlets d := inlets_updInlet s c _

@[simp] theorem inlets_see (i k : Nat) (code : DisplayCode) : (s.see i k code).inlets = s.inlets :=
  (quiet_inlets s).see rfl i k code

@[simp] theorem inlets_completeStop (place : Option (Nat × Nat)) : (s.completeStop c place).inlets = s.inlets :=
  (quiet_inlets s).completeStop rfl c place

@[simp] theorem inlets_writeReserved (r : JournalRecord) : (s.writeReserved r).inlets = s.inlets :=
  (quiet_inlets s).writeReserved rfl r

@[simp] theorem inlets_writeRecord (r : JournalRecord) : (s.writeRecord r).inlets = s.inlets :=
  (quiet_inlets s).writeRecord rfl r

@[simp] theorem inlets_emptied : (s.emptied c).inlets = s.inlets := (quiet_inlets s).emptied rfl c

@[simp] theorem inlets_reportTurns (n : Nat) : (s.reportTurns c n).inlets = s.inlets :=
  (quiet_inlets s).reportTurns rfl c n

@[simp] theorem inlets_matchRound (i : Nat) : (s.matchRound c i).1.inlets = s.inlets := by
  unfold matchRound
  split
  · rfl
  · split <;> rfl

@[simp] theorem inlets_updJournal (f : Journal → Journal) : (s.updJournal f).inlets = s.inlets := rfl

@[simp] theorem inlets_updHousehold (i : Nat) (f : Household → Household) : (s.updHousehold i f).inlets = s.inlets := rfl

@[simp] theorem inlets_lazyReset (i : Nat) : (s.lazyReset i).inlets = s.inlets := rfl

/-- Settling starts with the settle time of the parameters (R161). -/
@[simp] theorem inlets_startSettling :
    (s.startSettling c).inlets = fun d => if d = c then
      { s.inlets c with settleLeft := some s.params.settleTime, state := .settling } else s.inlets d := by
  unfold startSettling
  rw [inlets_setInlet, inlets_updInlet]
  funext d; split <;> simp_all

end State

end Sys2Proof.Machine
end

