-- ==== Sys2Proof/Laws/Layout.lean ====
section
/-! SUPPORT. Byte layouts: positions that are spelled one after another (11.7). -/

namespace Sys2Proof.Machine

/-- Layouts join as their bytes do. -/
theorem spells_append {a b : List Byte} {ps qs : List Position} (ha : spells a ps) (hb : spells b qs) :
    spells (a ++ b) (ps ++ qs) := by
  induction ps generalizing a with
  | nil =>
    rw [show a = [] from ha]
    exact hb
  | cons p ps ih =>
    obtain ⟨hl, hv, hr⟩ := ha
    have h := ih hr
    refine ⟨by simp only [List.length_append]; omega, fun v h0 => ?_, ?_⟩
    · rw [List.take_append_of_le_length hl]
      exact hv v h0
    · rw [List.drop_append_of_le_length hl]
      exact h

/-- One position of a number. -/
theorem spells_num {w v : Nat} {bytes : List Byte} (h : bytes = be w v) (hl : bytes.length = w) :
    spells bytes [num w v] := by
  refine ⟨hl.ge, fun x hx => ?_, ?_⟩
  · rw [← Option.some.inj hx]
    show List.take w bytes = be w v
    rw [List.take_of_length_le hl.le, h]
  · show List.drop w bytes = []
    exact List.drop_of_length_le hl.le

/-- A position whose bytes are open, or which spells the number shown. -/
theorem spells_shown {w : Nat} {shown : Option Nat} {bytes : List Byte} (hl : bytes.length = w)
    (h : ∀ v, shown = some v → bytes = be w v) : spells bytes [{ width := w, shown := shown }] := by
  refine ⟨hl.ge, fun v hv => ?_, List.drop_of_length_le hl.le⟩
  show List.take w bytes = be w v
  rw [List.take_of_length_le hl.le, h v hv]

/-- The positions, read off one after another. -/
def reads : List Byte → List Position → Bool
  | bytes, [] => bytes.isEmpty
  | bytes, p :: rest =>
    decide (p.width ≤ bytes.length) && p.shown.all (fun v => bytes.take p.width == be p.width v) &&
      reads (bytes.drop p.width) rest

/-- Bytes spell a layout exactly where its positions read off them. -/
theorem spells_iff_reads {bytes : List Byte} {ps : List Position} : spells bytes ps ↔ reads bytes ps = true := by
  induction ps generalizing bytes with
  | nil => simp [spells, reads]
  | cons p ps ih => simp [spells, reads, ih, and_assoc, Option.all_eq_true]

/-- The bytes of a layout are as many as its positions take. -/
theorem length_of_spells {bytes : List Byte} {ps : List Position} (h : spells bytes ps) :
    bytes.length = (ps.map Position.width).sum := by
  induction ps generalizing bytes with
  | nil =>
    rw [show bytes = [] from h]
    rfl
  | cons p ps ih =>
    obtain ⟨hl, _, hr⟩ := h
    have := ih hr
    simp only [List.length_drop, List.map_cons, List.sum_cons] at this ⊢
    omega

end Sys2Proof.Machine
end

