-- ==== Sys2Proof/WellFormed.lean ====
section
/-! DEFINITION. Which commands are well formed: their operands lie in the ranges the manual gives. -/

namespace Sys2Proof

/-- A container index is 0-127 (00, Terms). -/
def wfContainer (c : Nat) : Bool := decide (c < 128)

/-- A round is 0-3 (00, Terms). -/
def wfRound (r : Nat) : Bool := decide (r < 4)

/-- The bytes of one frame begin with the marker 5Bh and number at most 8 + 112 (R1, 11.7). -/
def wfFrameBytes (bytes : List Byte) : Bool :=
  (bytes.head? == some 0x5B#8) && decide (bytes.length ≤ 120)

/-- A command is well formed when each of its operands is in its range. -/
def Instr.wellFormed : Instr → Bool
  | .roundDeadlineReached r => wfRound r
  | .standingRelease r => wfRound r
  | .sampleCountdownExpiry c => wfContainer c
  | .sampleOutstandingExpiry c => wfContainer c
  | .grantWindowExpiry c => wfContainer c
  | .serviceWindowExpiry c => wfContainer c
  | .liftLimitExpiry c => wfContainer c
  | .settleTimeExpiry c => wfContainer c
  | .lineFrameReceived _ _ bytes => wfFrameBytes bytes
  | .backhaulFrameReceived bytes => wfFrameBytes bytes
  | .mainPowerUp _ => true
  | .mainPowerLost => true
  | .resetPinAsserted => true
  | .resetPinReleased _ => true
  | .enterRunning => true
  | .requestedStart _ => true
  | .clockAdvance => true
  | .holdTimeout => true
  | .responseWindowExpired _ => true
  | .lineFrameSent _ => true
  | .backhaulTransmitBegin => true
  | .backhaulTransmitDone => true
  | .unknownRequest => true
  | .relayStationCmd => true
  | .tableWrite => true
  | .tableRead => true
  | .journalRead => true
  | .journalRelease => true
  | .noticeFlagsRead => true
  | .noticeFlagsClear => true
  | .setTime => true
  | .statusRead => true
  | .imageSave => true
  | .imageSaveComplete _ => true
  | .tablesClear => true
  | .restart => true
  | .roundDraft => true
  | .roundRelease => true
  | .roundClose => true
  | .roundAbort => true
  | .containerBar => true
  | .containerUnbar => true
  | .sensorClear => true
  | .forceDue => true
  | .watchSet => true
  | .watchResumeContinue => true
  | .watchResumeStep => true
  | .watchResumeDiscard => true
  | .backupSupplyLost => true

end Sys2Proof
end

