-- ==== Sys2Proof/Laws/PerInstr.lean ====
section
/-! SUPPORT. The family Operands: for every command, well-formedness says exactly that its operands lie in their ranges. -/

namespace Sys2Proof.Laws.Operands

/-- The container a command names. -/
def container : Instr → Option Nat
  | .sampleCountdownExpiry c => some c
  | .sampleOutstandingExpiry c => some c
  | .grantWindowExpiry c => some c
  | .serviceWindowExpiry c => some c
  | .liftLimitExpiry c => some c
  | .settleTimeExpiry c => some c
  | _ => none

/-- The round a command names. -/
def round : Instr → Option Nat
  | .roundDeadlineReached r => some r
  | .standingRelease r => some r
  | _ => none

/-- The frame bytes a command carries. -/
def frame : Instr → Option (List Byte)
  | .lineFrameReceived _ _ bytes => some bytes
  | .backhaulFrameReceived bytes => some bytes
  | _ => none

/-- A command is well formed exactly when its container is 0-127, its round is 0-3, and its bytes begin with the marker and
are no more than a frame's. -/
def Statement (i : Instr) : Prop :=
  i.wellFormed = true ↔
    (∀ c, container i = some c → c < 128) ∧ (∀ r, round i = some r → r < 4) ∧
      ∀ bytes, frame i = some bytes → bytes.head? = some 0x5B#8 ∧ bytes.length ≤ 120

/-- A command without a ranged operand. -/
theorem of_none {i : Instr} (h : i.wellFormed = true) (hc : container i = none) (hr : round i = none)
    (hf : frame i = none) : Statement i := by
  simp [Statement, h, hc, hr, hf]

/-- A command that names a container. -/
theorem of_container {i : Instr} {c : Nat} (h : i.wellFormed = decide (c < 128)) (hc : container i = some c)
    (hr : round i = none) (hf : frame i = none) : Statement i := by
  simp [Statement, h, hc, hr, hf]

/-- A command that names a round. -/
theorem of_round {i : Instr} {r : Nat} (h : i.wellFormed = decide (r < 4)) (hc : container i = none)
    (hr : round i = some r) (hf : frame i = none) : Statement i := by
  simp [Statement, h, hc, hr, hf]

/-- A command that carries frame bytes. -/
theorem of_frame {i : Instr} {bytes : List Byte} (h : i.wellFormed = wfFrameBytes bytes) (hc : container i = none)
    (hr : round i = none) (hf : frame i = some bytes) : Statement i := by
  simp [Statement, h, hc, hr, hf, wfFrameBytes]

theorem mainPowerUp (levels : StartLevels) : Statement (.mainPowerUp levels) := of_none rfl rfl rfl rfl

theorem mainPowerLost : Statement .mainPowerLost := of_none rfl rfl rfl rfl

theorem resetPinAsserted : Statement .resetPinAsserted := of_none rfl rfl rfl rfl

theorem resetPinReleased (levels : StartLevels) : Statement (.resetPinReleased levels) := of_none rfl rfl rfl rfl

theorem enterRunning : Statement .enterRunning := of_none rfl rfl rfl rfl

theorem requestedStart (levels : StartLevels) : Statement (.requestedStart levels) := of_none rfl rfl rfl rfl

theorem clockAdvance : Statement .clockAdvance := of_none rfl rfl rfl rfl

theorem roundDeadlineReached (r : Nat) : Statement (.roundDeadlineReached r) := of_round rfl rfl rfl rfl

theorem standingRelease (r : Nat) : Statement (.standingRelease r) := of_round rfl rfl rfl rfl

theorem sampleCountdownExpiry (c : Nat) : Statement (.sampleCountdownExpiry c) := of_container rfl rfl rfl rfl

theorem sampleOutstandingExpiry (c : Nat) : Statement (.sampleOutstandingExpiry c) := of_container rfl rfl rfl rfl

theorem grantWindowExpiry (c : Nat) : Statement (.grantWindowExpiry c) := of_container rfl rfl rfl rfl

theorem serviceWindowExpiry (c : Nat) : Statement (.serviceWindowExpiry c) := of_container rfl rfl rfl rfl

theorem liftLimitExpiry (c : Nat) : Statement (.liftLimitExpiry c) := of_container rfl rfl rfl rfl

theorem settleTimeExpiry (c : Nat) : Statement (.settleTimeExpiry c) := of_container rfl rfl rfl rfl

theorem holdTimeout : Statement .holdTimeout := of_none rfl rfl rfl rfl

theorem responseWindowExpired (line : Line) : Statement (.responseWindowExpired line) := of_none rfl rfl rfl rfl

theorem lineFrameSent (line : Line) : Statement (.lineFrameSent line) := of_none rfl rfl rfl rfl

theorem lineFrameReceived (line : Line) (markerInWindow : Bool) (bytes : List Byte) : Statement (.lineFrameReceived line markerInWindow bytes) :=
  of_frame rfl rfl rfl rfl

theorem backhaulFrameReceived (bytes : List Byte) : Statement (.backhaulFrameReceived bytes) := of_frame rfl rfl rfl rfl

theorem backhaulTransmitBegin : Statement .backhaulTransmitBegin := of_none rfl rfl rfl rfl

theorem backhaulTransmitDone : Statement .backhaulTransmitDone := of_none rfl rfl rfl rfl

theorem unknownRequest : Statement .unknownRequest := of_none rfl rfl rfl rfl

theorem relayStationCmd : Statement .relayStationCmd := of_none rfl rfl rfl rfl

theorem tableWrite : Statement .tableWrite := of_none rfl rfl rfl rfl

theorem tableRead : Statement .tableRead := of_none rfl rfl rfl rfl

theorem journalRead : Statement .journalRead := of_none rfl rfl rfl rfl

theorem journalRelease : Statement .journalRelease := of_none rfl rfl rfl rfl

theorem noticeFlagsRead : Statement .noticeFlagsRead := of_none rfl rfl rfl rfl

theorem noticeFlagsClear : Statement .noticeFlagsClear := of_none rfl rfl rfl rfl

theorem setTime : Statement .setTime := of_none rfl rfl rfl rfl

theorem statusRead : Statement .statusRead := of_none rfl rfl rfl rfl

theorem imageSave : Statement .imageSave := of_none rfl rfl rfl rfl

theorem imageSaveComplete (success : Bool) : Statement (.imageSaveComplete success) := of_none rfl rfl rfl rfl

theorem tablesClear : Statement .tablesClear := of_none rfl rfl rfl rfl

theorem restart : Statement .restart := of_none rfl rfl rfl rfl

theorem roundDraft : Statement .roundDraft := of_none rfl rfl rfl rfl

theorem roundRelease : Statement .roundRelease := of_none rfl rfl rfl rfl

theorem roundClose : Statement .roundClose := of_none rfl rfl rfl rfl

theorem roundAbort : Statement .roundAbort := of_none rfl rfl rfl rfl

theorem containerBar : Statement .containerBar := of_none rfl rfl rfl rfl

theorem containerUnbar : Statement .containerUnbar := of_none rfl rfl rfl rfl

theorem sensorClear : Statement .sensorClear := of_none rfl rfl rfl rfl

theorem forceDue : Statement .forceDue := of_none rfl rfl rfl rfl

theorem watchSet : Statement .watchSet := of_none rfl rfl rfl rfl

theorem watchResumeContinue : Statement .watchResumeContinue := of_none rfl rfl rfl rfl

theorem watchResumeStep : Statement .watchResumeStep := of_none rfl rfl rfl rfl

theorem watchResumeDiscard : Statement .watchResumeDiscard := of_none rfl rfl rfl rfl

theorem backupSupplyLost : Statement .backupSupplyLost := of_none rfl rfl rfl rfl

end Sys2Proof.Laws.Operands
end

