-- ==== Sys2Proof/Laws/Requests.lean ====
section
/-! SUPPORT. What a row that handles a frame of the receive buffer does: nothing, BUSY in LOADING, or its body's effect and
reply. -/

namespace Sys2Proof.Machine

/-! ### What a REQUEST asks for -/

theorem requestOf_asks {f : Frame} {code : Byte} {o : List Byte} (h : f.asks code o) :
    requestOf f = Request.ofCode code.toNat := by
  obtain ⟨h1, h2, h3⟩ := h
  simp [requestOf, h1, h2, h3, ownAddress, kindRequest]

theorem operandsOf_asks {f : Frame} {code : Byte} {o : List Byte} (h : f.asks code o) : operandsOf f = o := by
  simp [operandsOf, h.2.2]

theorem replyCode_asks {f : Frame} {code : Byte} {o : List Byte} (h : f.asks code o) : replyCode f = code := by
  obtain ⟨h1, h2, h3⟩ := h
  simp [replyCode, h1, h2, h3, ownAddress, kindRequest]

/-- A frame to a drop address is answered with request code byte 00h. -/
theorem replyCode_relay {f : Frame} (h : f.dst ≠ 0x00#8) : replyCode f = 0x00#8 := by
  simp [replyCode, ownAddress, h]

/-- Every drop address names its station. -/
theorem stationOfAddress_stationAddress : ∀ i, i < 32 → stationOfAddress (stationAddress i) = some i := by decide

/-- No drop address is the part's own. -/
theorem stationAddress_ne_own : ∀ i, i < 32 → stationAddress i ≠ 0x00#8 := by decide

/-! ### The reply -/

/-- The reply to a frame, in the words of the statements. -/
theorem replyFrame_eq (f : Frame) (a : Answer) :
    replyFrame f a = f.reply (replyKind f) (BitVec.ofNat 8 a.result.code) (replyCode f) a.data := by
  simp [replyFrame, Frame.reply, be, centerAddress, ownAddress]

/-- A JOURNAL_READ is answered by JOURNAL_DATA, everything else by REPLY. -/
theorem replyKind_eq (f : Frame) :
    replyKind f = if requestOf f = .journalRead then 0x24#8 else 0x22#8 := rfl

/-! ### Whether a row handles the oldest frame -/

/-- The state a body finds: the frame has left the receive buffer. -/
def State.dropFrame (s : State) (rest : List Frame) : State := { s with link := { s.link with rx := rest } }

theorem State.takes.mayHandle {s : State} {f : Frame} {rest : List Frame} (h : s.takes f rest) : s.mayHandle = true := by
  obtain ⟨h1, _, h3, h4⟩ := h
  simp [State.mayHandle, State.awake, h1, h3, h4]

/-- Everything a row can do that handles the oldest frame: nothing, or its body's effect with one reply more. -/
theorem State.handleOldest_eq (s : State) (mine : Frame → Bool) (body : Frame → State → State × Answer) :
    s.handleOldest mine body = s ∨
      ∃ f rest, s.link.rx = f :: rest ∧ s.mayHandle = true ∧ mine f = true ∧
        s.handleOldest mine body = s.handleFrame f rest body := by
  unfold State.handleOldest
  cases hx : s.link.rx with
  | nil => exact Or.inl rfl
  | cons f rest =>
    cases hm : (s.mayHandle && mine f) with
    | false => exact Or.inl (if_neg (by rw [hm]; decide))
    | true =>
      have hb := hm
      rw [Bool.and_eq_true] at hb
      exact Or.inr ⟨f, rest, rfl, hb.1, hb.2, if_pos hm⟩

/-- A row has no effect on a frame that is not its own, on an empty buffer, and when the endpoint may take no frame. -/
theorem State.handleOldest_none {s : State} {mine : Frame → Bool} {body : Frame → State → State × Answer}
    (h : s.mayHandle = false ∨ s.link.rx = [] ∨ ∃ f rest, s.link.rx = f :: rest ∧ mine f = false) :
    s.handleOldest mine body = s := by
  unfold State.handleOldest
  rcases h with h | h | ⟨f, rest, h, hf⟩
  · cases s.link.rx <;> simp [h]
  · simp [h]
  · simp [h, hf]

/-- A body that runs leaves its state with the reply behind the replies that waited. -/
theorem State.handleOldest_of {s t : State} {mine : Frame → Bool} {body : Frame → State → State × Answer} {f : Frame}
    {rest : List Frame} {a : Answer} (hm : s.mayHandle = true) (hx : s.link.rx = f :: rest) (hf : mine f = true)
    (hb : body f (s.dropFrame rest) = (t, a)) :
    s.handleOldest mine body = { t with link := { t.link with
      replies := t.link.replies ++ [f.reply (replyKind f) (BitVec.ofNat 8 a.result.code) (replyCode f) a.data] } } := by
  have hb' : body f (s.updLink (fun e => { e with rx := rest })) = (t, a) := hb
  simp only [State.handleOldest, hx, hm, hf, Bool.and_self, if_true, State.handleFrame, hb', replyFrame_eq]
  rfl

/-- A request that a RUNNING part takes: the body's state with the reply. -/
theorem State.handle_of {s t : State} {q : Request} {body : Frame → State → State × Answer} {f : Frame}
    {rest : List Frame} {a : Answer} (h : s.takes f rest) (hq : requestOf f = q)
    (hb : body f (s.dropFrame rest) = (t, a)) :
    s.handle q body = { t with link := { t.link with
      replies := t.link.replies ++ [f.reply (replyKind f) (BitVec.ofNat 8 a.result.code) (replyCode f) a.data] } } := by
  refine State.handleOldest_of h.mayHandle h.2.1 (by simp [hq]) ?_
  have hp : (s.dropFrame rest).part.phase = .running := h.1
  simp [busyWhileLoading, hp, hb]

/-- A request that is refused, or only reads: nothing but the reply. -/
theorem State.handle_answered {s : State} {q : Request} {body : Frame → State → State × Answer} {f : Frame}
    {rest : List Frame} {code : Byte} {o : List Byte} {a : Answer} (h : s.takes f rest) (hf : f.asks code o)
    (hq : Request.ofCode code.toNat = q) (hj : q ≠ .journalRead)
    (hb : body f (s.dropFrame rest) = (s.dropFrame rest, a)) :
    s.handle q body = s.answered f rest (BitVec.ofNat 8 a.result.code) code a.data := by
  rw [State.handle_of h ((requestOf_asks hf).trans hq) hb, replyCode_asks hf, replyKind_eq, requestOf_asks hf, hq,
    if_neg hj]
  rfl

/-- A row that may take no frame, or finds one of another request, has no effect. -/
theorem State.handle_none {s : State} {q : Request} {body : Frame → State → State × Answer}
    (h : s.part.phase = .stopped ∨ s.link.rx = [] ∨ 4 ≤ s.link.replies.length ∨ s.part.requested ≠ none ∨
      ∃ f rest, s.link.rx = f :: rest ∧ requestOf f ≠ q) : s.handle q body = s := by
  refine State.handleOldest_none ?_
  rcases h with h | h | h | h | ⟨f, rest, h, hf⟩
  · left; simp [State.mayHandle, State.awake, h]
  · exact Or.inr (Or.inl h)
  · left; simp only [State.mayHandle, Bool.and_eq_false_iff, decide_eq_false_iff_not]; omega
  · left
    cases hr : s.part.requested with
    | none => exact absurd hr h
    | some c => simp [State.mayHandle, hr]
  · exact Or.inr (Or.inr ⟨f, rest, h, by simp [hf]⟩)

/-- In LOADING a row answers a frame of its request BUSY. -/
theorem State.handle_loading {s : State} {q : Request} {body : Frame → State → State × Answer} {f : Frame}
    {rest : List Frame} (hp : s.part.phase = .loading) (hx : s.link.rx = f :: rest) (hr : s.link.replies.length < 4)
    (hn : s.part.requested = none) (hq : requestOf f = q) :
    s.handle q body = s.replied rest (f.reply (replyKind f) 0x02#8 (replyCode f) []) := by
  have hm : s.mayHandle = true := by simp [State.mayHandle, State.awake, hp, hr, hn]
  have hl : (s.dropFrame rest).part.phase = .loading := hp
  rw [State.handle, State.handleOldest_of (t := s.dropFrame rest) (a := replyOnly .busy) hm hx (by simp [hq])
    (by simp [busyWhileLoading, hl])]
  rfl

end Sys2Proof.Machine
end

