-- ==== Sys2Proof/Laws/Starts.lean ====
section
/-! SUPPORT. What every record reads once the blocks have taken their start values, and once a VALID image or the defaults
have filled the tables. -/

namespace Sys2Proof.Machine

/-! ### Start values (R190) -/

theorem station_startValues (s : State) (i : Nat) :
    s.startValues.station i = if i < 32 then Station.atStart (s.station i).cfg else Station.blank := Tab.get_ofFn

theorem container_startValues (s : State) (c : Nat) :
    s.startValues.container c =
      if c < 128 then Container.atStart c (s.container c).cfg (s.station (stationOf c)).cfg.enabled else Container.blank :=
  Tab.get_ofFn

theorem round_startValues (s : State) (r : Nat) :
    s.startValues.round r = if r < 4 then (s.round r).atStart else Round.blank := Tab.get_ofFn

theorem noticeClass_startValues {s : State} (h : s.classes.wf NoticeClass.blank = true) (n : Nat) :
    s.startValues.noticeClass n = { NoticeClass.blank with priority := (s.noticeClass n).priority } :=
  Tab.get_map (f := fun _ (c : NoticeClass) => { NoticeClass.blank with priority := c.priority }) rfl h

theorem card_startValues {s : State} (h : s.cards.wf Card.blank = true) (i : Nat) :
    s.startValues.card i = { s.card i with lastSeen := none } :=
  Tab.get_map (f := fun _ (k : Card) => { k with lastSeen := none }) rfl h

theorem household_startValues {s : State} (h : s.households.wf Household.blank = true) (i : Nat) :
    s.startValues.household i = { s.household i with held := PerFraction.zero } :=
  Tab.get_map (f := fun _ (k : Household) => { k with held := PerFraction.zero }) rfl h

/-- While LOADING every station has its configuration alone. -/
theorem station_stationsUnknown (s : State) (i : Nat) :
    s.stationsUnknown.station i = if i < 32 then Station.start (s.station i).cfg .unknown else Station.blank :=
  Tab.get_ofFn

/-! ### Loading (R188) -/

theorem household_loadDefaults {s : State} (h : s.households.wf Household.blank = true) (i : Nat) :
    s.loadDefaults.household i = { s.household i with cfg := HouseholdCfg.blank } :=
  Tab.get_map (f := fun _ (k : Household) => { k with cfg := HouseholdCfg.blank }) rfl h

theorem household_loadImage (s : State) (i : Nat) :
    s.loadImage.household i =
      if i < 2048 then { s.household i with cfg := loadedHousehold s.flash i } else Household.blank := Tab.get_ofFn

theorem card_loadImage (s : State) (i : Nat) :
    s.loadImage.card i = if i < 4096 then { Card.blank with cfg := loadedCard s.flash i } else Card.blank := Tab.get_ofFn

theorem container_loadImage (s : State) (c : Nat) :
    s.loadImage.container c =
      if c < 128 then { Container.blank with cfg := loadedContainer s.flash c } else Container.blank := Tab.get_ofFn

theorem station_loadImage (s : State) (i : Nat) :
    s.loadImage.station i =
      if i < 32 then { Station.blank with cfg := loadedStation s.flash i } else Station.blank := Tab.get_ofFn

theorem round_loadImage (s : State) (r : Nat) :
    s.loadImage.round r =
      if r < 4 then
        { Round.blank with cfg := (loadedRound s.flash r).1, stops := (loadedRound s.flash r).2.map plannedStop }
      else Round.blank := Tab.get_ofFn

theorem noticeClass_loadImage (s : State) (n : Nat) :
    s.loadImage.noticeClass n =
      if n < 25 then
        (if n = 0 then NoticeClass.blank else { NoticeClass.blank with priority := loadedPriority s.flash n })
      else NoticeClass.blank := Tab.get_ofFn

end Sys2Proof.Machine
end

