-- ==== Sys2Proof/Tests/Slice0.lean ====
section
/-! SUPPORT. Tests: an ill-formed command for each check, one small step for each command, and for every statement states
that meet its hypotheses, clause by clause. -/

open Sys2Proof Sys2Proof.Machine

namespace Sys2Proof.Tests

set_option Elab.async false

/-! ### Helpers -/

/-- The state a command leaves. -/
def after (c : Instr) (s : State) : State :=
  match exec c s with
  | .next t => t
  | _ => s

/-- A REQUEST of the center. -/
def ask (code : Byte) (o : List Byte) : Frame :=
  { dst := 0x00#8, src := 0x7F#8, kind := 0x21#8, tag := 0x55#8, payload := code :: o }

/-- The state with one frame in the receive buffer and no reply waiting. -/
def holding (s : State) (f : Frame) : State := { s with link := { s.link with rx := [f], replies := [] } }

/-- The result code and data a REQUEST is answered with. -/
def answer (c : Instr) (s : State) (code : Byte) (o : List Byte) : List Byte :=
  match (after c (holding s (ask code o))).link.replies with
  | [r] => r.payload
  | _ => []

/-- The bytes of a frame from a station to the part. -/
def sent (station : Nat) (kind tag : Byte) (p : List Byte) : List Byte :=
  Frame.bytes { dst := 0x00#8, src := stationAddress station, kind := kind, tag := tag, payload := p }

/-- The part after reset, with the clock SET to a day and second. -/
def plain : State := { State.reset with clock := { time := { day := 100, sec := 50000 }, set := true, pending := none } }

/-- An ONLINE station of bank 3 that has been seen. -/
def station0 : Station := { Station.start { enabled := true, bank := 3, grantWindow := 30, slotCount := 4 } .online with seen := true }

/-- A present container of the PAPER fraction. -/
def paper : ContainerCfg :=
  { ContainerCfg.blank with present := true, fraction := .paper, capacity := 3000, height := 2400, weight := 3,
                            tolerance := 120, sinkStep := 40, sampleInterval := 30, alertLevel := 750, fullLevel := 900,
                            confirmCount := 3 }

/-- Its record with given inlet fields. -/
def box (n : Inlet) : Container :=
  { cfg := paper, fill := { Fill.start (some 3) with status := .normal }, inlet := n, forced := false, missed := false }

/-- An inlet at rest and LOCKED. -/
def locked : Inlet := { Inlet.start BarSet.empty with state := .locked }

/-- A part with one station and one container, whose inlet is given. -/
def district (n : Inlet) : State :=
  { plain with
    stations := { entries := [(0, station0)] }
    containers := { entries := [(0, box n)] }
    params := { Params.blank with districtCode := 0x2E41, cardLimit := 1000 }
    fractions := { entries := [(1, { nominal := 60, metered := true })] }
    households := { entries := [(412, { Household.blank with cfg := { metered := true, allowance := { PerFraction.zero with paper := 4 } } })] }
    cards := { entries := [(935, { cfg := { generation := 5, cls := .resident, status := .active, household := some 412, fractions := 0x02#6, banks := 0x0008#16 }, lastSeen := none })] } }

/-- The grant of card 935. -/
def grant935 : Grant := { card := 935, household := some 412, fraction := .paper, period := 100, reserved := true, windowLeft := 0 }

/-- A part whose container 0 is OPEN under that grant. -/
def granted : State :=
  { district { locked with state := .opened, grant := some grant935, lastDrum := some 65535 } with
    households := { entries := [(412, { Household.blank with cfg := { metered := true, allowance := { PerFraction.zero with paper := 4 } }, epoch := some 100, held := { PerFraction.zero with paper := 1 } })] }
    journal := { records := [], serial := 65535, reserved := 1 } }

/-- A service record with given window and limit. -/
def service (window limit : Option Nat) : Service :=
  { crew := some 900, round := some 1, stop := some 0, reserved := false, windowLeft := window, limitLeft := limit }

/-- A round whose one stop is of container 0. -/
def oneStop (state : RoundState) (stop : Option StopState) (deadline : Option Time) : Round :=
  { Round.blank with stops := [{ container := 0, state := stop, origin := .planned, doneTime := none }],
                     cfg := { RoundCfg.blank with fraction := .paper, deadlineLen := 60 }
                     state := state, deadline := deadline }

/-- The part in a turn of station 0 on line A that waits for the answer to what was sent. -/
def waiting (what : Sent) (s : State) : State :=
  { s with lineA := { s.lineA with turn := some { station := 0, todo := [], exchange := { what := what, frame := ask 0#8 [], waiting := true, holdAfter := false } } } }

/-- A journal record with a given serial. -/
def record (serial : Nat) : JournalRecord :=
  { serial := serial, kind := .deposit, time := { day := 100, sec := 40000 }, container := 0, card := some 935, household := some 412, fraction := .paper, period := some 100, late := false, openMode := false }

/-- The watch armed on container 0 with an action, for every class. -/
def armed (action : WatchAction) : Watch :=
  { Watch.start with keyKind := .container, keyValue := 0, filter := 0x7F#7, action := action, state := .armed }

/-- An ECHO_SAMPLE of slot 1 of station 0. -/
def echo0 : Frame := { dst := 0x00#8, src := 0x01#8, kind := 0x13#8, tag := 0x07#8, payload := [1#8, 0x27#8, 0x10#8, 9#8, 5#8] }

/-! ### Well-formedness: an ill-formed command for each check -/

theorem test_wf_container : (Instr.grantWindowExpiry 127).wellFormed = true ∧ (Instr.grantWindowExpiry 128).wellFormed = false := by
  decide

theorem test_wf_round : (Instr.standingRelease 3).wellFormed = true ∧ (Instr.standingRelease 4).wellFormed = false := by decide

theorem test_wf_frame_marker : (Instr.backhaulFrameReceived [0x5B#8]).wellFormed = true ∧
    (Instr.backhaulFrameReceived []).wellFormed = false ∧ (Instr.lineFrameReceived .a true [0x5A#8]).wellFormed = false := by
  decide

theorem test_wf_frame_length : (Instr.backhaulFrameReceived (List.replicate 120 0x5B#8)).wellFormed = true ∧
    (Instr.backhaulFrameReceived (List.replicate 121 0x5B#8)).wellFormed = false := by decide

/-! ### Check values of the two CRCs, over the digits 1 to 9 (R1, R185) -/

theorem test_crc16 : crc16 ((List.range 9).map (fun k => BitVec.ofNat 8 (0x31 + k))) = 0x29B1#16 := by decide +kernel

theorem test_crc32 : crc32 ((List.range 9).map (fun k => BitVec.ofNat 8 (0x31 + k))) = 0xFC891918#32 := by decide +kernel

/-! ### Steps, reset and laws -/

/-- No row gives its command bits. -/
theorem test_no_word_spells_a_command : decodeTableWord 8 0 = none ∧ State.reset.withFetchWord 8 0 = State.reset := by
  decide

theorem witness_StepRunsTheFrontCommand :
    { State.reset with pending := [.clockAdvance, .tableRead] }.pending = .clockAdvance :: [.tableRead] := rfl

/-- The laws' hypotheses hold together at reset with a command waiting, whose step answers a next state. -/
theorem witness_laws :
    let s : State := { State.reset with pending := [.clockAdvance] }
    s.queuesBounded = true ∧ s.canonical = true ∧ s.inletsLawful ∧ s.dueLawful ∧ s.journalLawful ∧ s.householdsLawful ∧
      ∃ t, step s = .next t :=
  ⟨rfl, rfl, fun _ => rfl, ⟨fun c cls => by
      have h : ((State.reset).container c).dueClass = none := rfl
      simpa [State.reset] using h ▸ (by simp : ¬(none = some cls)), by decide, by decide⟩,
    ⟨by decide, rfl⟩, fun h f => by cases f <;> rfl, _, rfl⟩

/-- The configuration after reset lies in its ranges, with a command waiting whose step answers a next state. -/
theorem witness_ConfigurationStaysInRange :
    let s : State := { State.reset with pending := [.clockAdvance] }
    s.configLegal ∧ s.canonical = true ∧ ∃ t, step s = .next t := by
  have station : Station.blank.cfg.bank ≤ 15 ∧ 5 ≤ Station.blank.cfg.grantWindow ∧ Station.blank.cfg.grantWindow ≤ 60 ∧
      1 ≤ Station.blank.cfg.slotCount ∧ Station.blank.cfg.slotCount ≤ 4 := by decide
  have shape : Shape.blank.legal := by unfold Shape.legal; decide
  have container : ContainerCfg.blank.legal := by simp [ContainerCfg.legal, ContainerCfg.blank]
  have allowance : ∀ f, PerFraction.zero.get f ≤ 255 := by intro f; cases f <;> decide
  have params : Params.blank.legal := by unfold Params.legal; decide
  refine ⟨⟨params, fun _ => station, fun _ => Nat.zero_le 255, fun _ => Nat.zero_le 255, fun _ => shape, fun _ => container,
    fun _ => ⟨Nat.zero_le 15, fun _ h => nomatch h⟩, fun _ => allowance,
    fun _ => ⟨Nat.zero_le 86399, Nat.le_refl 10, (by decide : 10 ≤ 1440), Nat.zero_le 24, fun _ h => nomatch h⟩,
    fun n => ?_⟩, rfl, _, rfl⟩
  show (Tab.get NoticeClass.blank State.reset.classes n).priority ≤ 3
  by_cases hn : n = 1
  · subst hn
    decide
  · simp [State.reset, Tab.get, Tab.find, Ne.symm hn, NoticeClass.blank]

/-- A granted part keeps the laws of journal and inlet with something to keep. -/
theorem witness_laws_granted : granted.canonical = true ∧ (granted.container 0).inlet.lawful = true ∧
    granted.journal.reserved = granted.reservations ∧ (granted.household 412).held.get .paper = granted.openGrants 412 .paper := by
  decide

/-! ### Station lines -/

theorem witness_FrameBytesReceivedBack :
    let f : Frame := { dst := 0x00#8, src := 0x30#8, kind := 0x17#8, tag := 0xFF#8, payload := [0xA5#8, 0x5B#8] }
    (List.replicate 112 0xA5#8).length ≤ 112 ∧ receive (f.bytes ++ [0x5B#8]) = .good f := by decide +kernel

theorem witness_BadFrames :
    112 < (0x71#8 : Byte).toNat ∧ receive [0x5B#8, 0x71#8] = .bad ∧
      (List.replicate 5 0#8).length < (0#8 : Byte).toNat + 6 ∧ receive ([0x5B#8, 0#8] ++ List.replicate 5 0#8) = .bad ∧
      (0#8 ++ 0#8 : BitVec 16) ≠ crc16 [0#8, 0#8, 0#8, 0#8, 0#8] ∧ receive ([0x5B#8, 0#8] ++ List.replicate 6 0#8) = .bad ∧
      receive [0x5A#8] = .nothing := by decide +kernel

theorem witness_FramesThatAreNoAnswerAreDiscarded :
    (district locked).waitingTurn .a = none ∧ ((waiting .poll (district locked)).waitingTurn .a).isSome = true ∧
      receive (sent 1 0x05#8 0#8 []) = .good { dst := 0#8, src := 2#8, kind := 5#8, tag := 0#8, payload := [] } ∧
      (2#8 : Byte) ≠ stationAddress 0 := by decide +kernel

theorem test_LINE_FRAME_SENT :
    ((after (.lineFrameSent .a) (district locked).kickBoth).waitingTurn .a).isSome = true := by decide +kernel

theorem witness_FailedExchangeIsAMiss :
    let s := fun (st : StationState) (n : Nat) =>
      (waiting .poll (district locked)).updStation 0 (fun k => { k with state := st, missCount := n })
    (∀ q ∈ [(StationState.online, 0), (.unknown, 0), (.silent, 6), (.lost, 8), (.disabled, 0)],
      (s q.1 q.2).canonical = true ∧ ((s q.1 q.2).waitingTurn .a).isSome = true) ∧
      (s .silent 6).station 0 = { station0 with state := .silent, missCount := 6 } ∧
      receive [0x5B#8] = .bad ∧ (after (.responseWindowExpired .a) (s .silent 6)).station 0 =
        { station0 with state := .silent, missCount := 7 } := by decide +kernel

theorem witness_EighthMissLosesTheStation :
    let s := (waiting .poll (district locked)).updStation 0 (fun k => { k with state := .silent, missCount := 7 })
    (s.waitingTurn .a).isSome = true ∧ (s.station 0).state = .silent ∧ (s.station 0).missCount = 7 ∧
      ((after (.responseWindowExpired .a) s).container 0).inlet.state = .barred := by decide +kernel

theorem witness_AnswerRevivesItsStation :
    ((district locked).station 0).seen = true ∧ ((district locked).station 0).state ≠ .lost ∧
      ((district locked).updStation 0 (fun k => { k with state := .lost })).station 0 = { station0 with state := .lost } ∧
      0 ∈ containersOf 0 := by decide +kernel

theorem witness_AckEndsTheExchange :
    let ack := sent 0 0x05#8 0#8 []
    let f : Frame := { dst := 0#8, src := 1#8, kind := 5#8, tag := 0#8, payload := [] }
    receive ack = .good f ∧ f.src = stationAddress 0 ∧
      (∀ what ∈ [Sent.inlet 1, .inlet 4, .sample 1, .sample 4, .relay 0],
        ((waiting what (district locked)).waitingTurn .a).map (fun t => t.exchange.what) = some what ∧ what ≠ .poll) ∧
      ((after (.lineFrameReceived .a true ack) (waiting (.sample 1) (district locked))).container 0).fill.request =
        .outstanding 0 := by decide +kernel

theorem witness_PollIsAnswered :
    let w := waiting .poll (district locked)
    let maint : Frame := { dst := 0#8, src := 1#8, kind := 0x17#8, tag := 9#8, payload := [1#8] }
    let full : State := { w with link := { w.link with toCenter := List.replicate 8 maint } }
    (∀ kind ∈ [0x11#8, 0x12#8, 0x13#8, 0x14#8, 0x15#8, 0x17#8, 0x16#8, 0x10#8, 0x18#8],
      receive (sent 0 kind 9#8 [1#8]) = .good { maint with kind := kind }) ∧
      ((w.goodFrame 0).station 0).lastItem ≠ some 9 ∧ 8 ≤ (full.goodFrame 0).centerPlaces ∧
      (((w.updStation 0 (fun k => { k with lastItem := some 9 })).goodFrame 0).station 0).lastItem = some 9 ∧
      (after (.lineFrameReceived .a true (sent 0 0x17#8 9#8 [1#8])) w).link.toCenter.length = 1 := by decide +kernel

theorem witness_WatchLetsReceivedFramesThrough :
    let s := district locked
    let w := fun a : WatchAction => { s with watch := armed a }
    s.watch.state = .off ∧ (w .capture).watch.matches 0 echo0 = true ∧ (w .capture).watch.matches 1 echo0 = false ∧
      (w .holdBefore).watch.matches 0 echo0 = true ∧ (w .holdBefore).holdFree = true ∧
      ((w .holdBefore).passWatch 0 echo0).watch.state = .held := by decide +kernel

theorem witness_ArbiterChoosesByPriorityThenRotation :
    let s := district locked
    let opened := district { locked with state := .opened, grant := some grant935 }
    (s.updLine .a (fun d => { d with priority := [0] })).choose .a = some (0, none) ∧
      s.choose .a = some (0, some .normal) ∧ (opened.updLine .a (fun d => { d with mark := .fast })).choose .a = some (0, some .fast) ∧ s.choose .b = none := by
  decide +kernel

theorem witness_TurnSendsInOrder :
    let s := district { locked with command := some { action := .lock, window := 0, code := .ready, value := 0, sent := false } }
    s.watch.state = .off ∧ s.watch.pass = none ∧ lineOf 0 = .a ∧
      (s.container (containerOf 0 1)).inlet.command.isSome = true ∧
      (s.updFill 3 (fun f => { f with request := .pending })).container (containerOf 0 4) =
        { Container.blank with fill := { Fill.start none with request := .pending } } ∧
      (s.kickBoth.lineA.turn.map (fun t => t.exchange.frame.payload)) = some [1#8, 1#8, 0#8, 0#8, 0#8, 0#8] := by
  decide +kernel

/-! ### Clock and notices -/

/-- The endpoint takes any REQUEST that a RUNNING part holds alone: the hypotheses of every statement about a request. -/
theorem witness_takes (code : Byte) (o : List Byte) :
    (holding plain (ask code o)).takes (ask code o) [] ∧ (ask code o).asks code o :=
  ⟨⟨rfl, rfl, Nat.zero_lt_succ 3, rfl⟩, rfl, rfl, rfl⟩

theorem test_SET_TIME :
    answer .setTime plain 0x07#8 [0#8, 1#8, 0x01#8, 0x51#8, 0x7F#8] = [0x00#8, 0x07#8] ∧
      answer .setTime plain 0x07#8 [0#8, 1#8, 0x01#8, 0x51#8, 0x80#8] = [0x07#8, 0x07#8] ∧
      answer .setTime plain 0x07#8 [0#8, 1#8, 0x01#8, 0x51#8] = [0x06#8, 0x07#8] := by decide +kernel

theorem witness_AdvanceMovesDistrictTime :
    let last : State := { plain with clock := { time := { day := 100, sec := 86399 }, set := true, pending := none } }
    let set : State := { plain with clock := { plain.clock with pending := some { day := 0, sec := 0 } } }
    plain.part.phase = .running ∧ plain.clock.pending = none ∧ plain.clock.set = true ∧
      plain.params.anchorDay ≤ plain.clock.time.day ∧ plain.clock.time.sec < 86399 ∧ last.clock.time.sec = 86399 ∧
      ({ plain with params := { plain.params with anchorDay := 101 } } : State).period = 0 ∧ plain.period = 100 ∧
      (after .clockAdvance last).clock.time = { day := 101, sec := 0 } ∧
      (after .clockAdvance set).clock = { time := { day := 0, sec := 0 }, set := true, pending := none } := by
  decide +kernel

theorem witness_AQuietSecondOnlyCounts :
    plain.part.phase = .running ∧ plain.canonical = true ∧ plain.nothingDue ∧ plain.clock.pending = none ∧
      plain.clock.time.next.sec % 60 ≠ 0 :=
  ⟨rfl, rfl, ⟨rfl, by decide, fun _ => ⟨rfl, rfl, rfl, rfl, rfl, rfl⟩⟩, rfl, by decide⟩

theorem witness_AdvanceOutsideRunning :
    let off : State := { plain with part := { plain.part with phase := .stopped } }
    off.part.phase ≠ .running ∧ off.power.main = true ∧
      ({ off with power := { off.power with main := false, backup := false } } : State).power.backup = false := by decide

theorem witness_RaiseSetsFlagAndQueue :
    let full : State := { plain with link := { plain.link with notices := List.replicate 16 { priority := 1, frame := echo0 } } }
    (plain.noticeClass 24).priority = 1 ∧ plain.link.notices.length < 16 ∧ 16 ≤ full.link.notices.length ∧
      ((plain.updClass 24 (fun c => { c with priority := 0 })).noticeClass 24).priority = 0 ∧
      plain.classes.wf NoticeClass.blank = true ∧ inClassSet 0x01000000 24 = true ∧
      (full.raise .holdTimeout none 7).noticeClass 24 =
        { priority := 1, flag := true, overrun := true, last := some { subject := none, value := 7 } } := by decide +kernel

theorem test_NOTICE_FLAGS_CLEAR :
    answer .noticeFlagsClear plain 0x06#8 [1#8, 0xFF#8, 0xFF#8, 0xFE#8] = [0x00#8, 0x06#8] ∧
      answer .noticeFlagsClear plain 0x06#8 [2#8, 0#8, 0#8, 0#8] = [0x07#8, 0x06#8] ∧
      answer .noticeFlagsClear plain 0x06#8 [0#8, 0#8, 0#8, 1#8] = [0x07#8, 0x06#8] ∧
      answer .noticeFlagsClear plain 0x06#8 [] = [0x06#8, 0x06#8] ∧ plain.classes.wf NoticeClass.blank = true := by
  decide +kernel

theorem test_NOTICE_FLAGS_READ :
    (answer .noticeFlagsRead plain 0x05#8 []).take 11 = [0#8, 5#8, 0#8, 0#8, 0#8, 2#8, 0#8, 0#8, 0#8, 0#8, 1#8] ∧
      answer .noticeFlagsRead plain 0x05#8 [0#8] = [0x06#8, 0x05#8] ∧ (plain.noticeClass 1).last.isSome = true := by
  decide +kernel

/-! ### Cards, grants and the journal -/

theorem witness_ValidationRunsInOrder :
    let s := district locked
    (∀ q ∈ [(0x2E410005, DisplayCode.nullCard), (0x2E403A75, .foreign), (0x2E413E85, .unknownCard), (0x2E413A74, .revoked)],
      s.validate q.1 = some q.2) ∧ s.validate 0x2E413A75 = none ∧ (s.container 0).cfg.present = true ∧
      (s.container 1).cfg.present = false := by decide +kernel

theorem witness_ShowNeverReplacesALockCommand :
    let s := fun a : InletAction => district { locked with command := some { action := a, window := 0, code := .closed, value := 0, sent := true } }
    ((s .lock).container 0).inlet.command.map (fun c => c.action) = some .lock ∧
      ((s .showCode).container 0).inlet.command.map (fun c => c.action) = some .showCode ∧
      ((district locked).container 0).inlet.command = none ∧
      (((s .lock).show 0 .fraction 0).container 0).inlet.command.map (fun c => c.code) = some .closed := by decide +kernel

/-- Card 935 at the PAPER container of its district: every hypothesis of a granted card, at the last age and the last free
journal place. -/
theorem witness_ACardThatPassesIsGranted :
    let s : State := { district locked with journal := { records := [], serial := 0, reserved := 991 } }
    let card := (s.card 935).cfg
    let hh := (s.household 412).lazyReset s.period
    cardIndex 0x2E413A75 = 935 ∧ (s.container 0).cfg.present = true ∧ s.part.openMode = false ∧
      s.validate 0x2E413A75 = none ∧ 10 ≤ 10 ∧ card.cls ≠ .crew ∧ card.household = some 412 ∧
      (s.container 0).inlet.state = .locked ∧ (s.container 0).fill.status ≠ .full ∧
      (s.container 0).fill.status ≠ .overfull ∧ card.banks.getLsbD (s.station 0).cfg.bank = true ∧
      ¬(card.cls = .business ∧ (s.bank (s.station 0).cfg.bank).residentialOnly = true) ∧
      card.fractions.getLsbD Fraction.paper.code = true ∧
      (hh.cfg.allowance.get .paper = 255 ∨ hh.used.get .paper + hh.held.get .paper < hh.cfg.allowance.get .paper) ∧
      s.journal.records.length + s.journal.reserved ≤ 991 ∧
      ((s.cardShown 0 0 false 0x2E413A75 10).container 0).inlet.state = .opened := by decide +kernel

theorem witness_DepositClosesTheGrant :
    (granted.container 0).cfg.present = true ∧ (granted.container 0).inlet.state = .opened ∧
      (granted.container 0).inlet.grant = some grant935 ∧ 1 ≤ (0 + 65536 - 65535) % 65536 ∧
      (granted.depositDone 0 0).journal.serial = 0 ∧ ((granted.depositDone 0 0).household 412).used.get .paper = 1 := by
  decide +kernel

theorem witness_QuotaIsCheckedInThePeriod :
    let r := granted.household 412
    r.epoch = some 100 ∧ r.epoch ≠ some 101 ∧ r.quotaPasses .paper = true ∧ r.cfg.allowance.get .glass = 0 ∧
      ({ r with used := { PerFraction.zero with paper := 3 } } : Household).quotaPasses .paper = false := by decide

theorem test_JOURNAL_READ :
    let s : State := { plain with journal := { records := [record 65534, record 65535], serial := 0, reserved := 1 } }
    (answer .journalRead s 0x03#8 [3#8]).take 12 =
        [0#8, 3#8, 2#8, 0#8, 2#8, 0#8, 1#8, 1#8, 0xFF#8, 0xFE#8, 0#8, 0#8] ∧
      (answer .journalRead s 0x03#8 [3#8]).length = 46 ∧ answer .journalRead s 0x03#8 [] = [0x06#8, 0x03#8] := by
  decide +kernel

theorem test_JOURNAL_RELEASE :
    let s : State := { plain with journal := { records := [record 65534, record 65535], serial := 0, reserved := 1 } }
    answer .journalRelease s 0x04#8 [0xFF#8, 0xFE#8, 0#8, 1#8] = [0#8, 4#8, 0#8, 1#8, 0#8, 1#8, 1#8, 0xFF#8, 0xFF#8] ∧
      (answer .journalRelease s 0x04#8 [0xFF#8, 0xFE#8, 0#8, 3#8]).take 7 = [1#8, 4#8, 0#8, 2#8, 0#8, 0#8, 0#8] ∧
      answer .journalRelease s 0x04#8 [0#8, 0#8, 0#8, 1#8] = [0x0A#8, 4#8, 0#8, 0#8, 0#8, 2#8, 1#8, 0xFF#8, 0xFE#8] ∧
      answer .journalRelease s 0x04#8 [0#8, 0#8, 0#8, 0#8] = [0#8, 4#8, 0#8, 0#8, 0#8, 2#8, 1#8, 0xFF#8, 0xFE#8] ∧
      answer .journalRelease s 0x04#8 [0#8, 0#8, 0#8] = [0x06#8, 4#8] := by decide +kernel

/-! ### Fill and sensors -/

theorem witness_EchoGivesDistanceLevelAndVolume :
    Shape.blank.points.length = 9 ∧ Shape.blank.point 0 = 0 ∧ Shape.blank.point 8 = 1000 ∧
      (∀ k ∈ List.range 8, Shape.blank.point k ≤ Shape.blank.point (k + 1)) ∧
      volumePerMille Shape.blank 2400 2400 = 1000 ∧ volumePerMille Shape.blank 0 2400 = 0 ∧
      level 249 2400 250 = (2150, true) ∧ level 250 2400 250 = (2150, false) ∧ level 2400 2400 250 = (0, false) ∧
      distance 10000 (-41) = distance 10000 (-40) ∧ distance 10000 61 = distance 10000 60 ∧ distance 10000 10 = 1687 := by
  decide +kernel

theorem witness_FusionHasFiveCases :
    let f : Fill := { Fill.start none with estimate := some 1000 }
    let m := fun (v : Nat) (b : Bool) => ({ perMille := 0, volume := v, saturated := b } : Measured)
    fuse paper { f with estimate := none } (m 500 false) = (500, false) ∧
      fuse paper { f with postLift := true } (m 500 true) = (500, false) ∧ fuse paper f (m 900 true) = (1000, false) ∧
      fuse paper f (m 1120 false) = ((1000 * 5 + 1120 * 3 + 4) / 8, false) ∧ fuse paper f (m 1121 false) = (1000, true) ∧
      fuse paper { f with risePending := true } (m 1121 false) = (1121, false) ∧
      fuse paper f (m 880 false) = ((1000 * 5 + 880 * 3 + 4) / 8, false) ∧ fuse paper f (m 879 false) = (960, false) := by
  decide +kernel

theorem witness_EvaluationDecidesTheStatus :
    evaluated .normal 0 1100 750 900 3 = (.overfull, 0) ∧ evaluated .overfull 0 1099 750 900 3 = (.overfull, 0) ∧
      evaluated .overfull 0 1050 750 900 3 = (.overfull, 0) ∧ evaluated .overfull 0 1049 750 900 3 = (.full, 0) ∧
      evaluated .normal 0 900 750 900 3 = (.fullPending, 1) ∧ evaluated .fullPending 2 900 750 900 3 = (.full, 0) ∧
      evaluated .full 0 850 750 900 3 = (.full, 0) ∧ evaluated .full 0 849 750 900 3 = (.high, 0) ∧
      evaluated .high 0 700 750 900 3 = (.high, 0) ∧ evaluated .high 0 699 750 900 3 = (.normal, 0) ∧
      evaluated .normal 0 749 750 900 3 = (.normal, 0) ∧ evaluated .normal 0 750 750 900 3 = (.high, 0) := by decide

theorem witness_SampleExpiriesAskAndCount :
    let due := (district locked).updFill 0 (fun f => { f with countdown := some 0 })
    let out := fun (n : Inlet) (sensor : SensorState) (streak : Nat) =>
      (district n).updFill 0 (fun f => { f with request := .outstanding 60, sensor := sensor, streak := streak })
    (due.container 0).fill.countdown = some 0 ∧
      ((after (.sampleCountdownExpiry 0) due).container 0).fill.request = .pending ∧
      ((out locked .good 5).container 0).fill.request = .outstanding 60 ∧
      ((after (.sampleOutstandingExpiry 0) (out locked .good 4)).container 0).fill.sensor = .good ∧
      ((after (.sampleOutstandingExpiry 0) (out locked .good 5)).container 0).fill.sensor = .degraded ∧
      ((after (.sampleOutstandingExpiry 0) (out locked .failed 5)).container 0).fill.streak = 5 ∧
      ((after (.sampleOutstandingExpiry 0) (out { locked with state := .settling, settleLeft := some 9 } .good 5)).container
        0).fill.request = .deferred := by decide +kernel

theorem test_SENSOR_CLEAR :
    let s := (district locked).updFill 0 (fun f => { f with sensor := .failed })
    answer .sensorClear s 0x12#8 [0#8] = [0#8, 0x12#8] ∧ answer .sensorClear s 0x12#8 [127#8] = [0#8, 0x12#8] ∧
      answer .sensorClear s 0x12#8 [128#8] = [5#8, 0x12#8] ∧ answer .sensorClear s 0x12#8 [] = [6#8, 0x12#8] := by
  decide +kernel

/-! ### Inlets and crews -/

theorem test_GRANT_WINDOW_EXPIRY :
    (granted.container 0).inlet.grant = some grant935 ∧ grant935.windowLeft = 0 ∧
      ((after (.grantWindowExpiry 0) granted).container 0).inlet.state = .locked ∧
      (after (.grantWindowExpiry 0) granted).journal.reserved = 0 := by decide +kernel

theorem test_CONTAINER_BAR :
    answer .containerBar (district locked) 0x10#8 [0#8] = [0#8, 0x10#8, 0#8, 5#8, 1#8] ∧
      answer .containerBar granted 0x10#8 [0#8] = [0#8, 0x10#8, 0#8, 5#8, 1#8] ∧
      answer .containerBar granted 0x10#8 [127#8] = [0#8, 0x10#8, 127#8, 5#8, 0x1D#8] ∧
      answer .containerBar granted 0x10#8 [128#8] = [5#8, 0x10#8] ∧ answer .containerBar granted 0x10#8 [] = [6#8, 0x10#8] := by
  decide +kernel

theorem test_CONTAINER_UNBAR :
    let barred := district { locked with state := .barred, bars := { BarSet.empty with center := true, liftOpen := true } }
    answer .containerUnbar barred 0x11#8 [0#8] = [0#8, 0x11#8, 0#8, 0#8, 0#8] ∧
      answer .containerUnbar granted 0x11#8 [0#8] = [0#8, 0x11#8, 0#8, 1#8, 0#8] := by decide +kernel

/-- The three crew timers, each due; the service record's stop is of an ACTIVE round. -/
theorem witness_CrewTimersExpire :
    let s := fun (n : Inlet) => { district n with rounds := { entries := [(1, oneStop .active (some .servicing) none)] } }
    let window := s { locked with state := .service, service := some (service (some 0) none) }
    let limit := s { locked with state := .lifting, service := some (service none (some 0)) }
    let settle := s { locked with state := .settling, settleLeft := some 0 }
    (window.container 0).inlet.service = some (service (some 0) none) ∧ (window.round 1).state = .active ∧
      ((after (.serviceWindowExpiry 0) window).round 1).stops.map Stop.state = [some .pending] ∧
      (limit.container 0).inlet.service = some (service none (some 0)) ∧
      ((after (.liftLimitExpiry 0) limit).container 0).inlet.bars.liftOpen = true ∧
      (settle.container 0).inlet.settleLeft = some 0 ∧
      ((after (.settleTimeExpiry 0) settle).container 0).inlet.state = .locked := by decide +kernel

theorem witness_WhatIsNotDueHasNoEffect :
    let k := (district locked).container 0
    k.fill.countdown ≠ some 0 ∧ k.fill.request ≠ .outstanding 60 ∧ k.grantDue = false ∧ k.serviceDue = false ∧
      k.liftDue = false ∧ k.settleDue = false ∧ plain.watch.timeoutLeft ≠ some 0 ∧
      plain.planner.tickTodo.head? ≠ some (.check 0) ∧ plain.pending = [] := by decide

theorem witness_LiftBeginsInService :
    let s := district { locked with state := .service, service := some (service (some 9) none) }
    (s.container 0).cfg.present = true ∧ (s.station 0).state = .online ∧ (s.container 0).inlet.state = .service ∧
      (s.container 1).cfg.present = false ∧ ((s.liftBegun 0 0).container 0).inlet.state = .lifting ∧
      ((s.liftBegun 0 0).liftBegun 0 0).container 0 = (s.liftBegun 0 0).container 0 := by decide +kernel

/-! ### The due list and the rounds -/

theorem test_FORCE_DUE :
    let s := district locked
    answer .forceDue s 0x13#8 [0#8, 1#8] = [0#8, 0x13#8, 0#8, 3#8, 1#8] ∧
      answer .forceDue s 0x13#8 [0#8, 0#8] = [0#8, 0x13#8, 0#8, 0xFF#8, 0xFF#8] ∧
      answer .forceDue s 0x13#8 [127#8, 2#8] = [7#8, 0x13#8] ∧ answer .forceDue s 0x13#8 [128#8, 2#8] = [5#8, 0x13#8] ∧
      answer .forceDue s 0x13#8 [0#8] = [6#8, 0x13#8] := by decide +kernel

theorem test_ROUND_DRAFT :
    let s := (district locked).setForced 0 true
    let active : State := { s with rounds := { entries := [(3, oneStop .active (some .pending) none)] } }
    answer .roundDraft s 0x0C#8 [3#8, 1#8, 24#8] = [0#8, 0x0C#8, 3#8, 1#8, 0#8] ∧
      answer .roundDraft s 0x0C#8 [3#8, 1#8, 25#8] = [1#8, 0x0C#8, 3#8, 1#8, 0#8] ∧
      answer .roundDraft s 0x0C#8 [4#8, 1#8, 1#8] = [5#8, 0x0C#8] ∧ answer .roundDraft s 0x0C#8 [3#8, 6#8, 1#8] = [7#8, 0x0C#8] ∧
      answer .roundDraft active 0x0C#8 [3#8, 5#8, 1#8] = [8#8, 0x0C#8] ∧ answer .roundDraft s 0x0C#8 [3#8, 6#8] = [6#8, 0x0C#8] ∧
      answer .roundDraft { s with part := { s.part with saving := true } } 0x0C#8 [] = [2#8, 0x0C#8] ∧
      active.assignedRound 0 = some 3 := by decide +kernel

theorem test_ROUND_COMMANDS :
    answer .roundRelease plain 0x0D#8 [3#8] = [0#8, 0x0D#8] ∧ answer .roundClose plain 0x0E#8 [4#8] = [5#8, 0x0E#8] ∧
      answer .roundAbort plain 0x0F#8 [] = [6#8, 0x0F#8] ∧
      ((after .roundAbort (holding plain (ask 0x0F#8 [3#8]))).round 3).requested = some .abort := by decide +kernel

/-- A tick that waits for round 3's deadline, and one that waits for its standing release. -/
theorem witness_TheTickTakesDeadlinesAndStandingReleases :
    let tick := fun (d : Round) (todo : List TickStage) => ({ district locked with
      rounds := { entries := [(3, d)] }, planner := { due := [], prevTick := { day := 100, sec := 49939 }, tickTodo := todo } } : State)
    let late := tick (oneStop .active (some .pending) (some { day := 100, sec := 50000 })) (tickStages.drop 13)
    let loaded := oneStop .loaded none none
    let ready := tick { loaded with cfg := { loaded.cfg with standing := true, releaseTime := 50000 } } (tickStages.drop 15)
    late.planner.tickTodo = tickStages.drop (4 * 3 + 1) ∧ (late.round 3).state = .active ∧
      (late.round 3).stops.any Stop.isOpen = true ∧ ((after (.roundDeadlineReached 3) late).round 3).state = .closed ∧
      ready.planner.tickTodo = tickStages.drop (4 * 3 + 3) ∧ (ready.round 3).stops ≠ [] ∧
      releaseMoment ready.clock.time 50000 = some { day := 100, sec := 50000 } ∧
      ready.planner.prevTick.before { day := 100, sec := 50000 } = true ∧
      ((after (.standingRelease 3) ready).round 3).state = .active := by decide +kernel

/-! ### The watch -/

theorem test_WATCH_SET :
    let held : State := { plain with watch := { armed .holdBefore with state := .held, held := some 0 } }
    answer .watchSet plain 0x14#8 [3#8, 0#8, 0#8, 0#8, 31#8, 127#8, 3#8] = [0#8, 0x14#8] ∧
      answer .watchSet plain 0x14#8 [3#8, 0#8, 0#8, 0#8, 32#8, 127#8, 3#8] = [7#8, 0x14#8] ∧
      answer .watchSet plain 0x14#8 [2#8, 0#8, 0#8, 0#8, 128#8, 127#8, 3#8] = [7#8, 0x14#8] ∧
      answer .watchSet plain 0x14#8 [1#8, 0#8, 0#8, 16#8, 0#8, 127#8, 3#8] = [7#8, 0x14#8] ∧
      answer .watchSet plain 0x14#8 [0#8, 255#8, 255#8, 255#8, 255#8, 128#8, 3#8] = [7#8, 0x14#8] ∧
      answer .watchSet held 0x14#8 [0#8, 255#8, 255#8, 255#8, 255#8, 127#8, 0#8] = [8#8, 0x14#8] ∧
      answer .watchSet held 0x14#8 [] = [6#8, 0x14#8] := by decide +kernel

/-- A hold with a parked received frame, one with a frame about to be sent from a relay entry, and no hold. -/
theorem witness_HoldsEnd :
    let park := fun how : ParkedAs => ({ station := 0, frame := echo0, how := how, received := plain.clock.time, age := 3 } : Parked)
    let s := fun p : Option Parked => { district locked with watch := { armed .holdBefore with state := .held, held := some 0, parked := p, timeoutLeft := some 0 } }
    answer .watchResumeContinue (s (some (park .received))) 0x15#8 [0#8] = [0#8, 0x15#8, 1#8] ∧
      answer .watchResumeDiscard (s (some (park .received))) 0x15#8 [2#8] = [0#8, 0x15#8, 3#8] ∧
      answer .watchResumeStep (s (some (park (.toSend (.relay 5))))) 0x15#8 [1#8] = [0#8, 0x15#8, 2#8] ∧
      answer .watchResumeDiscard (s (some (park (.toSend (.relay 5))))) 0x15#8 [2#8] = [0#8, 0x15#8, 4#8] ∧
      answer .watchResumeContinue (s none) 0x15#8 [0#8] = [0#8, 0x15#8, 0#8] ∧
      answer .watchResumeContinue plain 0x15#8 [0#8] = [8#8, 0x15#8] ∧
      answer .watchResumeStep plain 0x15#8 [3#8] = [7#8, 0x15#8] ∧ answer .watchResumeDiscard plain 0x15#8 [] = [6#8, 0x15#8] ∧
      (after .holdTimeout (s none)).watch.action = .capture := by decide +kernel

/-! ### The endpoint -/

theorem witness_BackhaulReceivesAndSends :
    let f : Frame := { ask 5#8 [] with dst := 0x30#8 }
    let n := fun p : Nat => ({ priority := p, frame := ask 0#8 [] } : NoticeFrame)
    let s : State := { plain with link := { Endpoint.empty with notices := [n 1, n 3, n 3], toCenter := [echo0] } }
    receive f.bytes = .good f ∧ (after (.backhaulFrameReceived f.bytes) plain).link.rx = [f] ∧
      receive { f with dst := 0x31#8 }.bytes = .good { f with dst := 0x31#8 } ∧
      (after (.backhaulFrameReceived { f with dst := 0x31#8 }.bytes) plain).link.rx = [] ∧
      (after .backhaulTransmitBegin s).link.notices = [n 1, n 3] ∧
      (after .backhaulTransmitBegin { s with link := { s.link with notices := [] } }).link.toCenter = [] ∧
      (after .backhaulTransmitDone (after .backhaulTransmitBegin s)).link.tx = none := by decide +kernel

/-- LOADING with one frame waiting; a frame of no known request; a full reply queue. -/
theorem witness_EndpointHandlesTheOldestFrame :
    let loading : State := { plain with part := { plain.part with phase := .loading } }
    answer .roundDraft loading 0x0C#8 [] = [2#8, 0x0C#8] ∧ requestOf (ask 0x0C#8 []) = .roundDraft ∧
      answer .unknownRequest plain 0x16#8 [] = [3#8, 0x16#8] ∧ requestOf (ask 0x16#8 []) = .unknown ∧
      requestOf (ask 0x00#8 []) = .unknown ∧ requestOf (ask 0x15#8 []) = .watchResume ∧
      requestOf { ask 5#8 [] with payload := [] } = .unknown ∧ requestOf { ask 5#8 [] with kind := 0x04#8 } = .unknown ∧
      requestOf { ask 5#8 [] with kind := 0x04#8, dst := 0x01#8 } = .relay := by decide +kernel

theorem test_RELAY_STATION_CMD :
    let f : Frame := { dst := 0x01#8, src := 0x7F#8, kind := 0x04#8, tag := 9#8, payload := [1#8] }
    let e : RelayEntry := { number := 0, station := 0, tag := 9#8, payload := [1#8] }
    let s := district locked
    let full := s.updLine .a (fun d => { d with relay := List.replicate 8 e })
    f.dst = stationAddress 0 ∧ (after .relayStationCmd (holding s f)).lineA.relay = [e] ∧
      (after .relayStationCmd (holding full f)).link.replies.map Frame.payload = [[9#8, 0#8]] ∧
      (after .relayStationCmd (holding plain f)).link.replies.map Frame.payload = [[8#8, 0#8]] := by decide +kernel

theorem test_TABLE_WRITE :
    let w := answer .tableWrite plain 0x01#8
    w [2#8, 0#8, 15#8, 0xC0#8, 1#8, 77#8] = [0#8, 1#8, 2#8, 0#8, 15#8, 1#8, 77#8] ∧
      w [2#8, 0#8, 15#8, 0x40#8, 2#8, 77#8] = [0#8, 1#8, 2#8, 0#8, 15#8, 0#8, 77#8] ∧
      w [2#8, 0#8, 15#8, 0x80#8, 2#8, 77#8] = [7#8, 1#8] ∧ w [2#8, 0#8, 16#8, 0x80#8, 2#8, 77#8] = [5#8, 1#8] ∧
      w [2#8, 0#8, 15#8, 0x80#8, 2#8] = [6#8, 1#8] ∧ w [10#8] = [4#8, 1#8] ∧ w [9#8, 0#8] = [6#8, 1#8] ∧ w [] = [6#8, 1#8] ∧
      (w [9#8, 0#8, 24#8, 0x80#8, 4#8, 0#8, 0#8, 0#8, 0#8, 0#8]).take 6 = [1#8, 1#8, 9#8, 0#8, 24#8, 3#8] := by
  decide +kernel

theorem test_TABLE_WRITE_refused_while_ACTIVE_or_saving :
    let active : State := { plain with rounds := { entries := [(3, oneStop .active (some .pending) none)] } }
    answer .tableWrite active 0x01#8 ([8#8, 0#8, 3#8] ++ List.replicate 75 0#8) = [8#8, 1#8] ∧
      answer .tableWrite { plain with part := { plain.part with saving := true } } 0x01#8 [] = [2#8, 1#8] := by decide +kernel

theorem test_TABLE_READ :
    let r := answer .tableRead plain 0x02#8
    r [3#8, 0#8, 4#8, 3#8] = [1#8, 2#8, 3#8, 0#8, 4#8, 2#8, 0#8, 0#8, 0#8, 0#8] ∧
      (r [8#8, 0#8, 11#8, 1#8]).length = 66 ∧ r [8#8, 0#8, 12#8, 1#8] = [5#8, 2#8] ∧
      r [6#8, 0#8, 0#8, 0#8] = [0#8, 2#8, 6#8, 0#8, 0#8, 0#8] ∧ r [10#8] = [4#8, 2#8] ∧ r [3#8, 0#8] = [6#8, 2#8] ∧
      r [3#8, 0#8, 5#8] = [6#8, 2#8] ∧ r [] = [6#8, 2#8] := by decide +kernel

theorem test_STATUS_READ :
    let loading : State := { plain with part := { plain.part with phase := .loading } }
    (answer .statusRead plain 0x08#8 []).take 10 = [0#8, 8#8, 0x11#8, 0#8, 0#8, 0#8, 100#8, 0#8, 0xC3#8, 0x50#8] ∧
      (answer .statusRead loading 0x08#8 []).length = 112 ∧ answer .statusRead plain 0x08#8 [0#8] = [6#8, 8#8] := by
  decide +kernel

theorem test_IMAGE_SAVE_RESTART_TABLES_CLEAR :
    let saving : State := { plain with part := { plain.part with saving := true } }
    answer .imageSave plain 0x09#8 [] = [0#8, 9#8] ∧ answer .imageSave plain 0x09#8 [1#8] = [6#8, 9#8] ∧
      answer .imageSave saving 0x09#8 [] = [2#8, 9#8] ∧ answer .tablesClear saving 0x0A#8 [] = [2#8, 10#8] ∧
      answer .tablesClear plain 0x0A#8 [] = [0#8, 10#8] ∧ answer .tablesClear plain 0x0A#8 [1#8] = [6#8, 10#8] ∧
      answer .restart plain 0x0B#8 [] = [0#8, 11#8] ∧ answer .restart plain 0x0B#8 [1#8] = [6#8, 11#8] ∧
      (after .restart (holding plain (ask 0x0B#8 []))).part.requested = some .restart := by decide +kernel

theorem test_IMAGE_SAVE_COMPLETE :
    let saving : State := { plain with part := { plain.part with saving := true } }
    ((after (.imageSaveComplete true) saving).noticeClass 3).flag = true ∧
      ((after (.imageSaveComplete false) saving).noticeClass 4).flag = true ∧
      after (.imageSaveComplete true) plain = plain := by decide +kernel

/-! ### Supplies and starts -/

/-- A part without main power, one whose pin is asserted, and one whose RESTART's reply has gone. -/
theorem witness_SuppliesAndRequestsMakeStarts :
    let levels : StartLevels := { strapInForce := true, flashResponds := true, backupPresent := true }
    let off := after .mainPowerLost plain
    let pin := after .resetPinAsserted plain
    let asked : State := { plain with part := { plain.part with requested := some .restart } }
    off.canonical = true ∧ off.power = { main := false, backup := true, resetAsserted := false, marker := true } ∧
      (after .backupSupplyLost off).power.marker = false ∧ (after (.mainPowerUp levels) off).part.kind = .warm ∧
      (after (.mainPowerUp levels) (after .backupSupplyLost off)).part.kind = .cold ∧ pin.power.resetAsserted = true ∧
      (after (.resetPinReleased levels) pin).part.cause = .resetPin ∧ asked.part.phase = .running ∧
      asked.link.replies = [] ∧ asked.link.tx = none ∧ (after (.requestedStart levels) asked).part.cause = .restart := by
  decide +kernel

theorem witness_EnterRunningTakesStartValues :
    let s : State := { plain with part := { plain.part with phase := .loading, strap := true, image := .corrupt } }
    s.canonical = true ∧ s.part.phase = .loading ∧ (after .enterRunning s).part.openMode = true ∧
      ((after .enterRunning s).noticeClass 2).flag = true := by decide +kernel

/-! ### Further witnesses: surplus operands, and the clauses on items, holds, services, fill, lifts, ticks and writes -/

/-- One operand byte too many, at every request with operands. -/
theorem test_surplus_operands_are_refused :
    answer .setTime plain 0x07#8 (List.replicate 6 0#8) = [6#8, 0x07#8] ∧
      answer .noticeFlagsClear plain 0x06#8 (List.replicate 5 0#8) = [6#8, 0x06#8] ∧
      answer .journalRead plain 0x03#8 [0#8, 0#8] = [6#8, 0x03#8] ∧
      answer .journalRelease plain 0x04#8 (List.replicate 5 0#8) = [6#8, 0x04#8] ∧
      answer .sensorClear plain 0x12#8 [0#8, 0#8] = [6#8, 0x12#8] ∧
      answer .containerBar plain 0x10#8 [0#8, 0#8] = [6#8, 0x10#8] ∧
      answer .containerUnbar plain 0x11#8 [0#8, 0#8] = [6#8, 0x11#8] ∧
      answer .forceDue plain 0x13#8 [0#8, 0#8, 0#8] = [6#8, 0x13#8] ∧
      answer .roundDraft plain 0x0C#8 (List.replicate 4 0#8) = [6#8, 0x0C#8] ∧
      answer .roundRelease plain 0x0D#8 [0#8, 0#8] = [6#8, 0x0D#8] ∧
      answer .watchSet plain 0x14#8 (List.replicate 8 0#8) = [6#8, 0x14#8] ∧
      answer .watchResumeContinue plain 0x15#8 [0#8, 0#8] = [6#8, 0x15#8] ∧
      answer .tableWrite plain 0x01#8 [2#8, 0#8, 15#8, 0x80#8, 1#8, 1#8, 0#8] = [6#8, 1#8] ∧
      answer .tableRead plain 0x02#8 [3#8, 0#8, 4#8, 3#8, 0#8] = [6#8, 2#8] := by decide +kernel

/-- The period number shown in RUNNING and in LOADING, with the clock SET. -/
theorem test_STATUS_READ_period :
    let period := fun s : State => ((answer .statusRead s 0x08#8 []).drop 15).take 2
    period plain = [0#8, 100#8] ∧ period { plain with part := { plain.part with phase := .loading } } = [0#8, 100#8] ∧
      period State.reset = [0#8, 0#8] := by decide +kernel

/-- A district with round 1 ACTIVE, whose one stop is of container 0. -/
def routed (n : Inlet) (stop : StopState) : State :=
  { district n with
    rounds := { entries := [(1, oneStop .active (some stop) none)] }
    cards := { entries := [(900, { cfg := { CardCfg.blank with cls := .crew, status := .active }, lastSeen := none })] } }

/-- The eighth miss by a bad frame, at an OPEN inlet, at a crew's work and at an inlet that has the reason already. -/
theorem witness_EighthMissLosesTheStation_inlets :
    let near := fun s : State => (waiting .poll s).updStation 0 (fun k => { k with state := .unknown, missCount := 7 })
    let lost := fun s : State => after (.lineFrameReceived .a true [0x5B#8]) (near s)
    let crew := routed { locked with state := .lifting, service := some (service none (some 9)) } .servicing
    let had := (district { locked with state := .barred, bars := { BarSet.empty with stationLost := true } }).updFill 0
      (fun f => { f with request := .outstanding 3 })
    receive [0x5B#8] = .bad ∧ (near granted).station 0 = { station0 with state := .unknown, missCount := 7 } ∧
      (((near granted).miss 0).container 0).inlet =
        (granted.container 0).inlet.endedBy { BarSet.empty with stationLost := true } ∧
      ((lost granted).container 0).inlet.state = .barred ∧
      ((lost granted).household 412).held = PerFraction.zero ∧ (lost granted).journal.reserved = 0 ∧
      (crew.container 0).inlet.service = some (service none (some 9)) ∧ (crew.container 0).inlet.working = true ∧
      (∀ d ∈ [1, 2, 3], (crew.container d).inlet.working = false) ∧
      ((lost crew).round 1).stops.map Stop.state = [some .pending] ∧ (had.container 0).inlet.bars.stationLost = true ∧
      ((lost had).container 0).fill.request = .pending := by decide +kernel

/-- The bytes of each kind of item, at the first and last slot and beside them, whole, short and out of range. -/
theorem witness_PollIsAnswered_items :
    let f := fun (kind : Byte) (p : List Byte) => ({ dst := 0#8, src := 1#8, kind := kind, tag := 9#8, payload := p } : Frame)
    let pass := fun kind p => granted.passFrame 0 (f kind p) 0
    pass 0x11#8 [1#8, 1#8, 0x2E#8, 0x41#8, 0x3A#8, 0x75#8] = granted.cardShown 0 0 true 0x2E413A75 0 ∧
      pass 0x11#8 [2#8, 1#8, 0x2E#8, 0x41#8, 0x3A#8, 0x75#8] = granted ∧
      pass 0x12#8 [1#8, 0xFF#8, 0xFF#8] = granted.depositDone 0 65535 ∧ pass 0x12#8 [4#8, 0#8, 1#8] = granted.depositDone 3 1 ∧
      pass 0x12#8 [0#8, 0#8, 1#8] = granted ∧ pass 0x12#8 [5#8, 0#8, 1#8] = granted ∧ pass 0x12#8 [1#8, 0#8] = granted ∧
      pass 0x13#8 [2#8, 0x61#8, 0xA9#8, 15#8, 0xFF#8] = granted.echoSample 1 25000 15 (-1) ∧
      pass 0x13#8 [2#8, 0x27#8, 0x10#8, 16#8, 0#8] = granted ∧ pass 0x14#8 [1#8] = granted.liftBegun 0 0 ∧
      pass 0x15#8 [1#8, 1#8, 7#8] = granted.liftEnded 0 0 true ∧ pass 0x15#8 [1#8, 2#8] = granted ∧
      (pass 0x17#8 [9#8]).link.toCenter = [{ f 0x17#8 [9#8] with dst := 0x7F#8 }] ∧
      ((pass 0x16#8 [5#8]).station 0).health = { tamper := true, flood := false, supplyLow := true } ∧
      pass 0x16#8 [] = granted := by decide +kernel

/-- A HOLD_AFTER match on a sent frame: its failed exchange, its ACK, and a step mark at the end of a turn. -/
theorem witness_WatchLetsReceivedFramesThrough_holds :
    let claim := fun s : State => s.updLine .a (fun d => { d with turn := d.turn.map (fun t =>
      { t with exchange := { t.exchange with holdAfter := true } }) })
    let s : State := claim (waiting (.sample 1) { district locked with watch := armed .holdAfter })
    let marked : State := waiting (.sample 1) { district locked with watch := { armed .capture with stepMark := some 0 } }
    let f : Frame := { dst := 0#8, src := 1#8, kind := 5#8, tag := 0#8, payload := [] }
    ((s.waitingTurn .a).map (fun t => t.exchange.holdAfter)) = some true ∧ s.watch.state ≠ .held ∧
      (after (.responseWindowExpired .a) s).watch.held = some 0 ∧ receive (sent 0 0x05#8 0#8 []) = .good f ∧
      ((after (.lineFrameReceived .a true (sent 0 0x05#8 0#8 [])) s).container 0).fill.request = .outstanding 0 ∧
      (after (.lineFrameReceived .a true (sent 0 0x05#8 0#8 [])) s).watch.held = some 0 ∧
      ((marked.waitingTurn .a).map (fun t => t.exchange.holdAfter)) = some false ∧
      ({ marked with watch := { armed .holdBefore with stepMark := some 0 } }.endTurn .a 0).watch.held = some 0 ∧
      (({ marked with watch := { armed .holdBefore with stepMark := some 0 } }.endTurn .a 0).noticeClass 23).last =
        some { subject := some 0, value := 2 } := by decide +kernel

/-- A SAMPLE_REQUEST about to be sent: compared under each action, under its pass, and without a match. -/
theorem witness_TurnSendsInOrder_watch :
    let f := toStation 0 0x03#8 0#8 [1#8]
    let s := fun w : Watch => { district locked with watch := w }
    let r := fun w : Watch => (s w).presentFrame .a 0 [] (.sample 1) f
    let pass : Watch := { armed .holdBefore with pass := some { station := 0, what := .sample 1 } }
    (s (armed .capture)).watch.matches 0 f = true ∧ (s { armed .capture with keyValue := 1 }).watch.matches 0 f = false ∧
      (s (armed .holdBefore)).holdFree = true ∧ (s { armed .holdBefore with state := .held }).holdFree = false ∧
      (r (armed .capture)).2 = true ∧ (r (armed .capture)).1.watch.matchCount = 1 ∧
      (r (armed .holdAfter)).1.lineA.claimsHold = true ∧ (r (armed .holdBefore)).2 = false ∧
      (r (armed .holdBefore)).1.watch.parked.map Parked.frame = some f ∧ (r pass).2 = true ∧ (r pass).1.watch.pass = none ∧
      (r pass).1.watch.matchCount = 0 := by decide +kernel

/-- A card too old, a resident's at a SERVICE reader, and a crew's card in each state that refuses it and at its own service. -/
theorem witness_ValidationRunsInOrder_refusals :
    let s := routed locked .pending
    let at' := fun n : Inlet => routed n .servicing
    let shown := fun (s : State) (reader : Bool) (number age : Nat) =>
      ((s.cardShown 0 0 reader number age).container 0).inlet.command.map (fun c => (c.action, c.code))
    let crew := 0x2E413840
    let own := at' { locked with state := .service, service := some (service (some 9) none) }
    let other := at' { locked with state := .service, service := some { service (some 9) none with crew := none } }
    cardIndex crew = 900 ∧ s.validate crew = none ∧ (s.card 900).cfg.cls = .crew ∧
      (district locked).validate 0x2E413A75 = none ∧ shown s false crew 11 = some (.showCode, .stale) ∧
      shown (district locked) true 0x2E413A75 10 = some (.showCode, .wrongReader) ∧
      shown (at' { locked with state := .barred }) false crew 0 = some (.showCode, .outOfService) ∧
      shown (at' { locked with state := .settling }) false crew 0 = some (.showCode, .servicing) ∧
      shown other false crew 0 = some (.showCode, .servicing) ∧
      shown own false crew 0 = some (.serviceUnlock, .serviceGranted) ∧
      shown { other with part := { other.part with openMode := true } } true crew 0 = some (.showCode, .servicing) := by
  decide +kernel

/-- Container 0's one open stop. -/
theorem soleStop_routed (n : Inlet) (ok : Round → Prop) (h : ok ((routed n .pending).round 1)) :
    (routed n .pending).soleStop 0 ok 1 0 := by
  refine ⟨by decide, rfl, h, ⟨_, rfl, rfl, rfl⟩, fun q j p hq ha _ hp _ _ => ?_⟩
  have hne : ∀ q, q ≠ 1 → ((routed n .pending).round q).state = .free := by
    intro q hq
    simp [routed, State.round, Tab.get, Tab.find, Ne.symm hq, Round.blank]
  by_cases hq1 : q = 1
  · subst hq1
    refine ⟨rfl, ?_⟩
    cases j with
    | zero => rfl
    | succ j => exact absurd hp (by simp [routed, State.round, Tab.get, Tab.find, oneStop])
  · rw [hne q hq1] at ha
    exact nomatch ha

/-- No PENDING stop for container 0. -/
theorem noStop_routed (n : Inlet) (ok : Round → Prop) : (routed n .servicing).noStop 0 ok := by
  intro r _ _ _ p hp _
  by_cases hr : r = 1
  · subst hr
    have : p = { container := 0, state := some .servicing, origin := .planned, doneTime := none } := by
      simpa [routed, State.round, Tab.get, Tab.find, oneStop] using hp
    subst this
    decide
  · exact absurd hp (by simp [routed, State.round, Tab.get, Tab.find, Ne.symm hr, Round.blank])

/-- A crew's card that is given service: at the round's stop, after a cut, with a new stop, free, with the journal full, and
in open mode. -/
theorem witness_ACardThatPassesIsGranted_service :
    let crew := 0x2E413840
    let show' := fun s : State => ((s.cardShown 0 0 false crew 10).container 0).inlet
    let planned := routed locked .pending
    let opened := routed { locked with state := .opened, grant := some grant935 } .pending
    let full : State := { planned with journal := { records := [], serial := 0, reserved := 1024 } }
    let busy := routed locked .servicing
    let mine : State := { planned with rounds := { entries := [(2, { oneStop .active none none with
      stops := [], cfg := { RoundCfg.blank with fraction := .paper, crew := some 900 } })] } }
    let openAll : State := { planned with part := { planned.part with openMode := true } }
    planned.validate crew = none ∧ (planned.container 0).inlet.state = .locked ∧
      (show' planned).service = some { service (some 300) none with reserved := true } ∧
      (opened.container 0).inlet.grant = some grant935 ∧ (show' opened).grant = none ∧ (show' opened).state = .service ∧
      (show' full).command.map (fun c => c.code) = some .journalFull ∧
      (show' busy).service.map Service.round = some none ∧
      (show' mine).service.map (fun v => (v.round, v.stop)) = some (some 2, some 0) ∧
      (((openAll.cardShown 0 0 true crew 10).container 0).inlet.service.map Service.reserved) = some false := by decide +kernel

/-- Turns at a known estimate, where the count reaches a multiple of K, with E capped at five quarters. -/
theorem witness_DepositClosesTheGrant_turns :
    let s := (district locked).updContainer 0 (fun k =>
      { k with cfg := { k.cfg with extraEvery := 4 }, fill := { k.fill with estimate := some 3700, deposits := 3 } })
    let f := fun n : Nat => ((s.reportTurns 0 n).container 0).fill
    (s.container 0).cfg.present = true ∧ (s.container 0).fill.estimate = some 3700 ∧ (s.container 1).cfg.present = false ∧
      (f 1).estimate = some 3750 ∧ (f 1).request = .pending ∧ (f 1).status = .overfull ∧ (f 0).request = .idle ∧
      ((s.reportTurns 0 1).noticeClass 11).last = some { subject := some 0, value := 1250 } := by decide +kernel

/-- An ECHO_SAMPLE discarded, invalid at both ends, at the third match of the stuck test, and fused after a lift. -/
theorem witness_SampleExpiriesAskAndCount_echo :
    let s := fun (n : Inlet) (g : Fill → Fill) => (district n).updFill 0 (fun f => g { f with request := .outstanding 7 })
    let fill := fun (s : State) (tof : Nat) => ((s.echoSample 0 tof 9 10).container 0).fill
    let plain' := s locked id
    let settling := s { locked with state := .settling, settleLeft := some 9 } id
    let stuck := s locked (fun f => { f with lastTof := some 9000, deposits := 2, stuck := 2 })
    let lifted := s locked (fun f => { f with postLift := true, estimate := some 0, sensor := .degraded, streak := 9 })
    (plain'.container 0).live = true ∧ (plain'.container 0).inlet.waits = false ∧ (settling.container 0).inlet.waits = true ∧
      (fill settling 9000).request = .deferred ∧ (fill plain' 0).streak = 1 ∧ (fill plain' 25000).streak = 1 ∧
      (fill plain' 24999).streak = 0 ∧ (fill stuck 9000).sensor = .failed ∧ (fill stuck 9001).sensor = .good ∧
      (fill lifted 9000).sensor = .good ∧ (fill lifted 9000).postLift = false ∧ (fill lifted 9000).countdown = some 30 ∧
      ((lifted.echoSample 0 9000 9 10).noticeClass 14).flag = true := by decide +kernel

/-- Lifts that nobody authorized, ends of lifts with a stop, without one and without a tip, and late ends. -/
theorem witness_LiftBeginsInService_ends :
    let lift := fun n : Inlet => routed { n with state := .lifting, service := some (service none (some 9)) } .servicing
    let alone := routed { locked with state := .lifting, service := some { service none (some 9) with round := none, stop := none } } .pending
    let late := routed { locked with state := .barred, bars := { BarSet.empty with liftOpen := true } } .pending
    let full : State := { late with journal := { records := [], serial := 0, reserved := 1024 } }
    let stop := fun s : State => (s.round 1).stops.map Stop.state
    (granted.container 0).inlet.grant = some grant935 ∧ ((granted.liftBegun 0 0).container 0).inlet.state = .lifting ∧
      (granted.liftBegun 0 0).journal.reserved = 1 ∧ (full.liftBegun 0 0).journal.reserved = 1024 ∧
      ((full.liftBegun 0 0).noticeClass 22).flag = true ∧ ((late.liftBegun 0 0).noticeClass 22).flag = false ∧
      stop ((lift locked).liftEnded 0 0 true) = [some .done] ∧ stop ((lift locked).liftEnded 0 0 false) = [some .pending] ∧
      stop (alone.liftEnded 0 0 true) = [some .done] ∧ stop (late.liftEnded 0 0 true) = [some .done] ∧
      (late.liftEnded 0 0 true).journal.records.length = 1 ∧ (full.liftEnded 0 0 true).journal.records = [] ∧
      stop (late.liftEnded 0 0 false) = [some .pending] ∧ (district locked).liftEnded 0 0 true = district locked := by
  decide +kernel

/-- A minute's tick at one round, with each command, complete, and CLOSING without a stop SERVICING. -/
theorem witness_TheTick_of_a_minute :
    let s := fun d : Round => { district locked with
      clock := { plain.clock with time := { day := 100, sec := 49979 } }, rounds := { entries := [(3, d)] } }
    let d := fun (state : RoundState) (stop : Option StopState) (c : Option RoundCommand) =>
      { oneStop state stop none with requested := c }
    let then' := fun r : Round => ((after .clockAdvance (s r)).round 3)
    (s (d .loaded none (some .release))).canonical = true ∧ (s (d .loaded none (some .release))).clock.time.next.sec % 60 = 0 ∧
      (then' (d .loaded none (some .release))).state = .active ∧
      (then' (d .active (some .servicing) (some .close))).state = .closing ∧
      (then' (d .active (some .pending) (some .close))).state = .closed ∧
      (then' (d .active (some .pending) (some .abort))).stops.map Stop.state = [some .skipped] ∧
      (then' (d .active (some .done) none)).state = .closed ∧ (then' (d .closing (some .done) none)).state = .closed ∧
      (then' (d .active (some .pending) (some .release))).state = .active := by decide +kernel

/-- Nothing is due in that part, whatever its round. -/
theorem witness_TheTick_nothing_due (d : Round) :
    ({ district locked with rounds := { entries := [(3, d)] } } : State).nothingDue := by
  refine ⟨rfl, (by decide : (none : Option Nat) ≠ some 0), fun c => ?_⟩
  by_cases h : c = 0
  · subst h
    exact ⟨rfl, rfl, rfl, rfl, rfl, rfl⟩
  · have : ({ district locked with rounds := { entries := [(3, d)] } } : State).container c = Container.blank := by
      simp [district, State.container, Tab.get, Tab.find, Ne.symm h]
    rw [this]
    decide

/-- Writes with effects: a station disabled and enabled, a shape, a countdown with and without a changed interval, presence
cleared and set, a round, the period length. -/
theorem witness_TableWriteChecksInOrder_effects :
    let s := routed locked .pending
    let off := s.writeRecordOf 0 (.station { station0.cfg with enabled := false })
    let box' := fun p : ContainerCfg => (s.writeRecordOf 0 (.container p)).container 0
    s.rounds.wf Round.blank = true ∧ off.station 0 = { station0 with state := .disabled, cfg := { station0.cfg with enabled := false } } ∧
      (off.container 0).inlet.state = .barred ∧ ((off.writeRecordOf 0 (.station station0.cfg)).station 0).state = .unknown ∧
      ((s.writeRecordOf 0 (.shape { points := [] })).container 0).fill.status = .unknown ∧
      (box' { paper with residueLimit := 9 }).fill.countdown = some 3 ∧
      (box' { paper with sampleInterval := 2 }).fill.countdown = some 2 ∧ (box' { paper with height := 2000 }).fill.request = .pending ∧
      (box' { paper with present := false }).inlet.state = .barred ∧
      ((s.writeRecordOf 0 (.container { paper with present := false })).round 1).stops.map Stop.state = [some .skipped] ∧
      ((s.writeRecordOf 1 (.container paper)).container 1).fill.countdown = some 2 ∧
      ((s.writeRecordOf 3 (.round RoundCfg.blank [0])).round 3).state = .loaded ∧
      ((s.writeRecordOf 0 (.parameters { s.params with periodLength := 7 })).noticeClass 6).last =
        some { subject := some 14, value := 100 } ∧
      s.crossOk 3 (.container paper) = true ∧ s.crossOk 4 (.container paper) = true ∧
      s.crossOk 0 (.station { station0.cfg with slotCount := 1 }) = true := by decide +kernel

/-- A masked write of a FRACTION record: lengths, parse and result as the statement has them. -/
theorem witness_TableWriteChecksInOrder_any_table :
    let t := Table.fraction
    t.writeRange = (0, 5) ∧ t.maskLength = 1 ∧ t.imageLength = 2 ∧
      (t.parse (t.clampBytes (mergeMasked (plain.configBytes t 5) [9#8, 1#8] [0xC0#8]))).isSome = true ∧
      t.parse (t.clampBytes (mergeMasked (plain.configBytes t 5) [9#8, 2#8] [0x40#8])) = none ∧
      answer .tableWrite plain 0x01#8 [3#8, 0#8, 5#8, 0xC0#8, 9#8, 1#8] = [0#8, 1#8, 3#8, 0#8, 5#8, 9#8, 1#8] ∧
      answer .tableWrite plain 0x01#8 [3#8, 0#8, 5#8, 0x40#8, 9#8, 2#8] = [7#8, 1#8] := by decide +kernel

/-! ### Witnesses of the second review's clauses -/

/-- The last container, at the last slot of the last station, the one stop of the last round. -/
def lastPlaces : State :=
  { plain with
    pending := [.clockAdvance]
    stations := { entries := [(31, station0)] }
    containers := { entries := [(127, box locked)] }
    rounds := { entries := [(3, { oneStop .loaded none none with
      stops := [{ container := 127, state := none, origin := .planned, doneTime := none }] })] } }

/-- The cross-field rules and their premises hold together in that part, whose step answers a next state that is not in LOADING;
the image area after reset, and any that does not judge VALID, keeps the rule of the slots. -/
theorem witness_ConfigurationStaysInRange_cross :
    lastPlaces.canonical = true ∧ lastPlaces.dueLawful ∧ lastPlaces.crossLegal ∧
      (match step lastPlaces with
        | .next t => t.part.phase
        | _ => .loading) = .running ∧ imageSlotsLegal State.reset.flash := by
  have other : ∀ c, c ≠ 127 → lastPlaces.container c = Container.blank := fun c hc => by
    simp [lastPlaces, State.container, Tab.get, Tab.find, Ne.symm hc]
  refine ⟨by decide, ⟨fun c cls => ?_, by decide, by decide⟩, ⟨fun r => ?_, fun c hp => ?_⟩, by decide +kernel,
    fun h => absurd h (by decide)⟩
  · have h : (lastPlaces.container c).dueClass = none := by
      by_cases hc : c = 127
      · subst hc
        rfl
      · rw [other c hc]
        rfl
    rw [h]
    exact ⟨fun ⟨_, he, _⟩ => (List.not_mem_nil he).elim, fun e => nomatch e⟩
  · by_cases hr : r = 3
    · subst hr
      refine ⟨fun p hp => ?_, by decide⟩
      have : p = { container := 127, state := none, origin := .planned, doneTime := none } := by
        simpa [lastPlaces, State.round, Tab.get, Tab.find] using hp
      rw [this]
    · have h : lastPlaces.round r = Round.blank := by simp [lastPlaces, State.round, Tab.get, Tab.find, Ne.symm hr]
      rw [h]
      exact ⟨by decide, by decide⟩
  · by_cases hc : c = 127
    · subst hc
      decide
    · have h : (lastPlaces.container c).cfg.present = false := by rw [other c hc]; rfl
      exact absurd hp (by simp [h])

/-- A STATION_MAINT with 8 frames waiting: refused, captured, and holding its station under either hold action; one in the way
and one without a match. -/
theorem witness_WatchLetsReceivedFramesThrough_refused :
    let maint : Frame := { dst := 0#8, src := 1#8, kind := 0x17#8, tag := 9#8, payload := [1#8] }
    let key := fun a : WatchAction => { armed a with keyKind := .station, keyValue := 0 }
    let full : State := { waiting .poll (district locked) with link := { plain.link with toCenter := List.replicate 8 maint } }
    let s := fun w : Watch => { full with watch := w }
    let r := fun w : Watch => ((s w).refusedPassesWatch 0 maint).watch
    let taken := after (.lineFrameReceived .a true (sent 0 0x17#8 9#8 [1#8])) (s (key .holdBefore))
    receive (sent 0 0x17#8 9#8 [1#8]) = .good maint ∧ ((full.goodFrame 0).station 0).lastItem ≠ some 9 ∧
      8 ≤ (full.goodFrame 0).centerPlaces ∧ (s (key .capture)).watch.matches 0 maint = true ∧
      (s { key .capture with keyValue := 1 }).watch.matches 0 maint = false ∧ (s (key .holdAfter)).holdFree = true ∧
      (s { key .holdAfter with state := .held }).holdFree = false ∧ (r (key .capture)).matchCount = 1 ∧
      (r (key .capture)).held = none ∧ (r (key .holdAfter)).held = some 0 ∧ (r (key .holdBefore)).held = some 0 ∧
      (r (key .holdBefore)).parked = none ∧ (r { key .holdAfter with state := .held }).matchCount = 1 ∧
      taken.watch.held = some 0 ∧ taken.watch.matchCount = 1 ∧ taken.link.toCenter.length = 8 := by decide +kernel

/-- An INLET_COMMAND sent at the first and last slot, and a SAMPLE_REQUEST beside a pending command. -/
theorem witness_TurnSendsInOrder_sent :
    let cmd : InletCommand := { action := .lock, window := 0, code := .ready, value := 0, sent := false }
    let s := fun c : Nat => { district locked with containers := { entries := [(c, box { locked with command := some cmd })] } }
    let mark := fun (c : Nat) (what : Sent) => ((((s c).presentFrame .a 0 [] what (toStation 0 0x02#8 0#8 [])).1.container
      c).inlet.command.map InletCommand.sent)
    mark 0 (.inlet 1) = some true ∧ mark 3 (.inlet 4) = some true ∧ mark 3 (.inlet 1) = some false ∧
      mark 0 (.sample 1) = some false := by decide +kernel

/-- An advance onto a minute with nothing due: a present container's countdown, 1 before, and running timers. -/
theorem witness_AQuietSecondOnlyCounts_minute :
    let n : Inlet := { locked with state := .opened, grant := some { grant935 with windowLeft := 1 } }
    let s : State := { (district n).updFill 0 (fun f => { f with countdown := some 1 }) with
      clock := { plain.clock with time := { day := 100, sec := 49979 } } }
    let last : State := { s with clock := { plain.clock with time := { day := 100, sec := 86399 } } }
    let u := after .clockAdvance s
    s.part.phase = .running ∧ s.canonical = true ∧ s.clock.pending = none ∧ s.clock.time.next.sec % 60 = 0 ∧
      last.clock.time.next.sec = 0 ∧ (∀ r ∈ List.range 4, s.round r = Round.blank) ∧ Round.blank.cfg.standing = false ∧
      Round.blank.requested = none ∧ Round.blank.state = .free ∧ (u.container 0).fill.countdown = some 0 ∧
      (u.container 0).inlet.grant.map Grant.windowLeft = some 0 ∧ (u.container 1).fill.countdown = none ∧
      ((after .clockAdvance last).noticeClass 6).flag = true := by decide +kernel

/-- Nothing is due in that part. -/
theorem witness_AQuietSecondOnlyCounts_minute_nothing_due :
    let n : Inlet := { locked with state := .opened, grant := some { grant935 with windowLeft := 1 } }
    ({ (district n).updFill 0 (fun f => { f with countdown := some 1 }) with
      clock := { plain.clock with time := { day := 100, sec := 49979 } } } : State).nothingDue := by
  intro n
  refine ⟨rfl, (by decide : (none : Option Nat) ≠ some 0), fun c => ?_⟩
  by_cases h : c = 0
  · subst h
    decide
  · have e : ({ (district n).updFill 0 (fun f => { f with countdown := some 1 }) with
        clock := { plain.clock with time := { day := 100, sec := 49979 } } } : State).container c =
        (district n).container c := Tab.get_set_other h
    rw [e, show (district n).container c = Container.blank by
      simp [district, State.container, Tab.get, Tab.find, Ne.symm h]]
    decide

/-- What the inlet of container 0 shows of card 935. -/
def shown935 (s : State) : Option (InletAction × DisplayCode × Nat) :=
  ((s.cardShown 0 0 false 0x2E413A75 10).container 0).inlet.command.map (fun c => (c.action, c.code, c.value))

/-- The district with card 935 changed. -/
def card935 (f : CardCfg → CardCfg) : State := (district locked).updCard 935 (fun k => { k with cfg := f k.cfg })

/-- The district with container 0 FULL and container 1 its alternate. -/
def full0 : State := (district locked).updContainer 0 (fun k =>
  { k with cfg := { k.cfg with alternate := some 1 }, fill := { k.fill with status := .full } })

/-- The district with nothing left of household 412's allowance in period 100, the epoch given. -/
def used412 (epoch : Nat) : State := (district locked).updHousehold 412 (fun h =>
  { h with used := { PerFraction.zero with paper := 4 }, epoch := some epoch })

/-- The state in open mode. -/
def openAll (s : State) : State := { s with part := { s.part with openMode := true } }

/-- The refusals of a resident's or business's card by household, inlet state and fill. -/
theorem witness_ValidationRunsInOrder_residents :
    let at' := fun n : Inlet => shown935 (district n)
    let other : State := { full0 with
      containers := { entries := full0.containers.entries ++ [(1, box locked)] }
      banks := { entries := [(3, { residentialOnly := false, displayNumber := 77 })] } }
    other.validate 0x2E413A75 = none ∧ full0.validate 0x2E413A75 = none ∧
      shown935 (card935 (fun k => { k with household := none })) = some (.showCode, .noAccount, 0) ∧
      at' { locked with state := .barred } = some (.showCode, .outOfService, 0) ∧
      at' { locked with state := .opened } = some (.showCode, .inletBusy, 0) ∧
      at' { locked with state := .service } = some (.showCode, .servicing, 0) ∧
      at' { locked with state := .lifting } = some (.showCode, .servicing, 0) ∧
      at' { locked with state := .settling } = some (.showCode, .servicing, 0) ∧
      shown935 full0 = some (.showCode, .full, 0) ∧ shown935 other = some (.showCode, .full, 77) := by decide +kernel

/-- Its refusals by bank, fraction, quota and room, in period 100, and what the lazy reset of an older epoch lets pass. -/
theorem witness_ValidationRunsInOrder_accounts :
    let noRoom : State := { district locked with journal := { records := [], serial := 0, reserved := 992 } }
    let residential : State := { card935 (fun k => { k with cls := .business }) with
      banks := { entries := [(3, { residentialOnly := true, displayNumber := 0 })] } }
    let u := (used412 100).cardShown 0 0 false 0x2E413A75 10
    let v := noRoom.cardShown 0 0 false 0x2E413A75 10
    (used412 100).validate 0x2E413A75 = none ∧ noRoom.validate 0x2E413A75 = none ∧
      residential.validate 0x2E413A75 = none ∧ shown935 residential = some (.showCode, .bank, 0) ∧
      shown935 (card935 (fun k => { k with banks := 0#16 })) = some (.showCode, .bank, 0) ∧
      shown935 (card935 (fun k => { k with fractions := 0x3D#6 })) = some (.showCode, .fraction, 0) ∧
      shown935 (used412 100) = some (.showCode, .quota, 0) ∧ shown935 (used412 99) = some (.unlock, .granted, 3) ∧
      shown935 noRoom = some (.showCode, .journalFull, 0) ∧
      (v.noticeClass 22).last = some { subject := some 992, value := 0 } ∧ (v.household 412).epoch = some 100 ∧
      (u.card 935).lastSeen.map (fun l => l.code) = some .quota := by decide +kernel

/-- Any card at an INLET reader in open mode: refused by inlet state and fill alone, and granted past its quota. -/
theorem witness_ValidationRunsInOrder_open :
    (openAll full0).validate 0x2E413A75 = none ∧
      shown935 (openAll (district { locked with state := .barred })) = some (.showCode, .outOfService, 0) ∧
      shown935 (openAll full0) = some (.showCode, .full, 0) ∧
      shown935 (openAll (used412 100)) = some (.unlock, .granted, 255) ∧
      (((openAll (used412 100)).cardShown 0 0 false 0x2E413A75 10).card 935).lastSeen = none := by decide +kernel

/-- An UNLOCK set over a LOCK, at a station that is on the list, one that is not, and a DISABLED one. -/
theorem witness_ShowNeverReplacesALockCommand_set :
    let s := district { locked with command := some { action := .lock, window := 0, code := .closed, value := 0, sent := true } }
    let list := fun s : State => (s.setCommand 0 .unlock 30 .granted 3).lineA.priority
    ((s.setCommand 0 .unlock 30 .granted 3).container 0).inlet.command =
        some { action := .unlock, window := 30, code := .granted, value := 3, sent := false } ∧
      list s = [0] ∧ list (s.updLine .a (fun d => { d with priority := [5, 0] })) = [5, 0] ∧
      list (s.updStation 0 (fun k => { k with state := .disabled })) = [] := by decide +kernel

/-- A grant in open mode. -/
theorem witness_ACardThatPassesIsGranted_open :
    let s : State := { district locked with part := { plain.part with openMode := true } }
    s.part.openMode = true ∧ s.validate 0x2E413A75 = none ∧ (s.container 0).cfg.present = true ∧
      (s.container 0).inlet.state = .locked ∧ (s.container 0).fill.status = .normal ∧
      ((s.cardShown 0 0 false 0x2E413A75 10).container 0).inlet.grant =
        some { grant935 with household := none, reserved := false, windowLeft := 30 } := by decide +kernel

/-- A deposit of three turns whose record is the 768th, turns without a grant, no turn, and a container that is not present. -/
theorem witness_DepositClosesTheGrant_others :
    let many : State := { granted with journal := { granted.journal with records := List.replicate 767 (record 0) } }
    let u := many.depositDone 0 2
    let s := district { locked with lastDrum := some 7, unattributed := 65534 }
    u.journal.records.length = 768 ∧ (u.noticeClass 21).last = some { subject := none, value := 768 } ∧
      (u.noticeClass 20).last = some { subject := some 0, value := 2 } ∧ (u.container 0).inlet.unattributed = 2 ∧
      ((granted.depositDone 0 0).noticeClass 21).flag = false ∧ ((granted.depositDone 0 0).noticeClass 20).flag = false ∧
      (s.container 0).inlet.grant = none ∧ ((s.depositDone 0 9).container 0).inlet.unattributed = 65535 ∧
      ((s.depositDone 0 9).noticeClass 20).last = some { subject := some 0, value := 2 } ∧
      s.depositDone 0 7 = s ∧ (s.container 1).cfg.present = false ∧
      ((s.depositDone 1 9).container 1).inlet = { (s.container 1).inlet with lastDrum := some 9 } := by decide +kernel

/-- The priority turn that UNLOCK, LOCK and SERVICE_UNLOCK ask for. -/
theorem test_commands_ask_for_a_turn :
    let list := fun s : State => s.lineA.priority
    list ((district locked).cardShown 0 0 false 0x2E413A75 10) = [0] ∧ list (granted.depositDone 0 0) = [0] ∧
      list ((routed locked .pending).cardShown 0 0 false 0x2E413840 0) = [0] ∧ list (granted.liftBegun 0 0) = [0] := by
  decide +kernel

/-- Writes of a card, a household and a fraction record, with something to keep. -/
theorem witness_TableWriteChecksInOrder_kept :
    let s := granted.cardShown 0 0 false 0x2E413A75 10
    let card := { CardCfg.blank with generation := 9 }
    let house : HouseholdCfg := { metered := false, allowance := { PerFraction.zero with glass := 255 } }
    (s.card 935).lastSeen.isSome = true ∧ (s.writeRecordOf 935 (.card card)).card 935 =
        { cfg := card, lastSeen := (s.card 935).lastSeen } ∧
      (s.writeRecordOf 412 (.household house)).household 412 =
        { cfg := house, used := PerFraction.zero, epoch := some 100, held := { PerFraction.zero with paper := 1 } } ∧
      (s.writeRecordOf 5 (.fraction { nominal := 255, metered := true })).fraction .textile =
        { nominal := 255, metered := true } := by decide +kernel

/-- A journal record and the runtime positions of a household and of a container, written out from 11.7. -/
theorem test_layouts :
    let part := fun i n : Nat => ((granted.image .container 0).drop i).take n
    (record 65534).bytes =
        [0xFF#8, 0xFE#8, 0#8, 0#8, 100#8, 0#8, 0x9C#8, 0x40#8, 0#8, 0x03#8, 0xA7#8, 0x01#8, 0x9C#8, 1#8, 0#8, 100#8, 4#8] ∧
      granted.image .household 412 =
        [1#8, 0#8, 4#8, 0#8, 0#8, 0#8, 0#8, 0#8, 0#8, 0#8, 0#8, 0#8, 0#8, 1#8, 0#8, 100#8, 0#8, 1#8, 0#8, 0#8, 0#8, 0#8] ∧
      part 24 8 = [0xFF#8, 0xFF#8, 1#8, 0#8, 0#8, 0#8, 0#8, 0x50#8] ∧ part 34 4 = [0#8, 0#8, 3#8, 0#8] ∧
      part 39 3 = [1#8, 0#8, 0xFF#8] ∧ part 46 4 = [0xFF#8, 0xFF#8, 0#8, 0#8] ∧
      part 50 8 = [0x03#8, 0xA7#8, 0x01#8, 0x9C#8, 1#8, 0#8, 100#8, 0#8] ∧ part 58 8 = List.replicate 8 0xFF#8 ∧
      part 66 9 = 1#8 :: List.replicate 8 0xFF#8 ∧ (granted.image .container 0).length = 75 := by decide +kernel

/-- A start of a part without main power whose image area holds the image of a legal configuration. -/
theorem witness_SuppliesAndRequestsMakeStarts_valid :
    let v : State := { State.reset with pending := [.clockAdvance] }
    let s : State := { after .mainPowerLost plain with flash := Memory.ofBytes 0 v.storedImage }
    v.configLegal ∧ (∀ r, (v.round r).stopsLegal) ∧ s.canonical = true ∧ s.power.main = false ∧ s.power.marker = true ∧
      s.power.resetAsserted = false ∧ judge true s.flash = .valid := by
  have h : (after .mainPowerLost plain).canonical = true := by decide
  refine ⟨witness_ConfigurationStaysInRange.1, fun r => ⟨fun p hp => (List.not_mem_nil hp).elim, List.nodup_nil⟩, ?_, by decide,
    by decide, by decide, judge_storedImage _⟩
  simp only [State.canonical, Bool.and_eq_true] at h ⊢
  exact ⟨h.1, Memory.wf_ofBytes _⟩

/-! ### Witnesses of the third review's clauses -/

/-- A part that holds a STATUS_READ with another frame behind it, one reply waiting, a time pending, two journal records, and
station 0 held with a parked and a captured frame. -/
def reporting : State :=
  { (district locked).updStation 0 (fun k => { k with health := { tamper := true, flood := false, supplyLow := true } }) with
    clock := { plain.clock with pending := some { day := 1, sec := 2 } }
    journal := { records := [record 65534, record 65535], serial := 0, reserved := 1 }
    link := { plain.link with rx := [ask 0x08#8 [], echo0], replies := [echo0] }
    watch := { armed .holdBefore with
      state := .held, held := some 0, matchCount := 1
      parked := some { station := 0, frame := echo0, how := .received, received := plain.clock.time, age := 3 }
      captured := some { kind := 0x13#8, tag := 0x07#8, src := 0x01#8, dst := 0x00#8, station := 0, length := 5,
                         bytes := echo0.payload, time := plain.clock.time } } }

/-- Its 110 bytes, as 11.7 lays them out. -/
def reported : List Byte :=
  [0xF1#8, 0#8, 0#8, 0#8, 100#8, 0#8, 0xC3#8, 0x50#8, 0#8, 1#8, 0#8, 0#8, 2#8, 0#8, 100#8] ++
    [0#8, 2#8, 0#8, 1#8, 0xFF#8, 0xFE#8, 0#8, 0#8, 1#8, 0x11#8, 0#8, 0#8, 0#8] ++ 0x51#8 :: List.replicate 31 4#8 ++
    [2#8, 0#8, 0#8, 0#8, 0#8, 0x7F#8, 3#8, 2#8, 0#8, 0x13#8, 0#8, 3#8, 0xFF#8] ++
    [0x13#8, 7#8, 1#8, 0#8, 0#8, 5#8, 1#8, 0x27#8, 0x10#8, 9#8, 5#8] ++ List.replicate 19 0#8 ++
    [0#8, 100#8, 0#8, 0xC3#8, 0x50#8, 0#8, 1#8]

/-- STATUS_READ of that part: the statement's hypotheses, its answer, and every clause about the bytes of the answer, the layout
of the state with the taken frame gone among them. -/
theorem witness_ReadsReportAndChangeNothing_status :
    let f := ask 0x08#8 []
    reporting.part.phase ≠ .stopped ∧ reporting.link.rx = f :: [echo0] ∧ reporting.link.replies.length < 4 ∧
      reporting.part.requested = none ∧ f.asks 0x08#8 [] ∧
      after .statusRead reporting = reporting.answered f [echo0] 0x00#8 0x08#8 reported ∧ reported.length = 110 ∧
      spells reported ({ reporting with link := { reporting.link with rx := [echo0] } } : State).statusLayout ∧
      (reported.drop 24).take 1 = be 1 (16 * [echo0].length + reporting.link.replies.length) ∧
      (reported.drop 28).take 1 =
        be 1 ((reporting.station 0).state.code + 16 * (reporting.station 0).health.code) :=
  ⟨by decide, rfl, by decide, rfl, ⟨rfl, rfl, rfl⟩, by decide +kernel, by decide, spells_iff_reads.mpr (by decide +kernel),
    by decide, by decide⟩

/-- TABLE_READ of a part that holds another frame behind it: the last FRACTION record, and one index past it. -/
theorem witness_ReadsReportAndChangeNothing_table :
    let f := fun i : Byte => ask 0x02#8 [0x03#8, 0#8, i, 1#8]
    let s := fun i : Byte => { reporting with link := { reporting.link with rx := [f i, echo0] } }
    (s 5#8).takes (f 5#8) [echo0] ∧ (f 5#8).asks 0x02#8 [0x03#8, 0#8, 5#8, 1#8] ∧
      after .tableRead (s 5#8) = (s 5#8).answered (f 5#8) [echo0] 0x00#8 0x02#8
        ([0x03#8, 0#8, 5#8, 1#8] ++ (s 5#8).image .fraction 5) ∧
      after .tableRead (s 6#8) = (s 6#8).answered (f 6#8) [echo0] 0x05#8 0x02#8 [] :=
  ⟨⟨rfl, rfl, by decide, rfl⟩, ⟨rfl, rfl, rfl⟩, by decide +kernel, by decide +kernel⟩

/-- What a turn leaves of its line: by rotation, by priority, and ended by the watch at its first frame. -/
theorem witness_ArbiterChoosesByPriorityThenRotation_turn :
    let s : State := { (district { locked with state := .opened, grant := some grant935 }) with
      lineA := { LineState.start .a with priority := [5, 0, 7] } }
    let e := fun rot => ((s.beginTurn .a 0 rot).1).lineA
    let figures := fun d : LineState => (d.fastCursor, d.normalCursor, d.mark)
    let held : State := { s.updFill 0 (fun f => { f with request := .pending }) with watch := armed .holdBefore }
    (∀ rot ∈ [none, some Rotation.fast, some .normal],
      (e rot).priority = [5, 7] ∧ (e rot).turn.map Turn.station = some 0) ∧
      figures (e none) = (15, 15, .normal) ∧ figures (e (some .fast)) = (0, 15, .normal) ∧
      figures (e (some .normal)) = (15, 0, .fast) ∧ (s.beginTurn .a 0 none).2 = true ∧
      (held.beginTurn .a 0 none).2 = false ∧ (held.beginTurn .a 0 none).1.lineA.turn = none ∧
      (held.beginTurn .a 0 none).1.lineA.priority = [5, 7] := by decide +kernel

/-- An idle line that chooses: no station, one whose turn is sent, one that the watch holds at its first frame, and then
another. -/
theorem witness_ArbiterChoosesByPriorityThenRotation_kick :
    let s := (district locked).updFill 0 (fun f => { f with request := .pending })
    let held : State := { s with watch := armed .holdBefore }
    let two := held.updStation 1 (fun _ => station0)
    s.part.phase = .running ∧ (s.line .a).turn = none ∧ plain.choose .a = none ∧ s.choose .a = some (0, some .normal) ∧
      (s.kick .a).lineA.turn.isSome = true ∧ (held.beginTurn .a 0 (some .normal)).2 = false ∧
      (held.beginTurn .a 0 (some .normal)).1.choose .a = none ∧ (held.kick .a).watch.held = some 0 ∧
      (two.beginTurn .a 0 (some .normal)).2 = false ∧
      (two.beginTurn .a 0 (some .normal)).1.choose .a = some (1, some .normal) ∧
      (two.kick .a).lineA.turn.map Turn.station = some 1 ∧ (waiting .poll s).kick .a = waiting .poll s := by decide +kernel

/-- A deadline with two PENDING stops and a DONE one, with a SERVICING one, and with no PENDING one; the rest of the tick closes
no later round, or one. -/
theorem witness_TheTickTakesDeadlinesAndStandingReleases_notices :
    let stop := fun (c : Nat) (st : StopState) =>
      ({ container := c, state := some st, origin := .planned, doneTime := none } : Stop)
    let s := fun (stops : List Stop) (later : Round) => { district locked with
      rounds := { entries := [(0, { oneStop .active none (some { day := 100, sec := 50000 }) with stops := stops }), (1, later)] }
      planner := { due := [], prevTick := { day := 100, sec := 49939 }, tickTodo := tickStages.drop 1 } }
    let quiet := oneStop .active (some .pending) none
    let done := oneStop .active (some .done) none
    let u := fun (stops : List Stop) (later : Round) => after (.roundDeadlineReached 0) (s stops later)
    let last := fun (n : Nat) (t : State) => (t.noticeClass n).last
    let two := [stop 5 .pending, stop 9 .done, stop 0 .pending, stop 7 .done]
    (s two quiet).planner.tickTodo = tickStages.drop (4 * 0 + 1) ∧
      two = [stop 5 .pending, stop 9 .done] ++ stop 0 .pending :: [stop 7 .done] ∧
      last 18 (u two quiet) = some { subject := some 0, value := 0 } ∧
      last 17 (u two quiet) = some { subject := some 0, value := 2 } ∧
      last 17 (u two done) = some { subject := some 1, value := 1 } ∧
      last 17 (u [stop 5 .servicing, stop 0 .pending] quiet) = none ∧
      last 18 (u [stop 5 .servicing, stop 0 .pending] quiet) = some { subject := some 0, value := 0 } ∧
      last 18 (u [stop 5 .servicing] quiet) = none ∧
      ((u [stop 5 .servicing] quiet).round 0).state = .closing := by decide +kernel

/-! ### Witnesses of the fourth review's clauses -/

/-- A failed exchange and a non-answer, of a POLL and of a command, without a hold and with the watch HELD elsewhere: the turn
ends, and the line of one station begins its next. -/
theorem witness_FailedExchangeIsAMiss_ends :
    let s := fun what => waiting what (district locked)
    let elsewhere : State := { s .poll with watch := { armed .holdAfter with state := .held, held := some 5 } }
    let non := sent 0 0x10#8 0#8 []
    let turn := fun t : State => t.lineA.turn.map (fun t => (t.station, t.exchange.what, t.exchange.waiting))
    (∀ what ∈ [Sent.poll, .sample 1, .relay 0],
      ((s what).waitingTurn .a).map (fun t => t.exchange.holdAfter) = some false ∧
      turn (after (.responseWindowExpired .a) (s what)) = some (0, .poll, false) ∧
      turn (after (.lineFrameReceived .a true [0x5B#8]) (s what)) = some (0, .poll, false) ∧
      turn (after (.lineFrameReceived .a true non) (s what)) = some (0, .poll, false) ∧
      ((after (.lineFrameReceived .a true non) (s what)).station 0).missCount = 0) ∧
      receive [0x5B#8] = .bad ∧ elsewhere.watch.state = .held ∧
      (after (.responseWindowExpired .a) elsewhere).watch.held = some 5 := by decide +kernel

/-- An ACK after which the turn goes on with the looks that remain, and one after which the watch ends it at its next frame. -/
theorem witness_AckEndsTheExchange_continues :
    let s := fun (w : Watch) (n : Inlet) => { (district n).updFill 0 (fun f => { f with request := .pending }) with
      watch := w
      lineA := { LineState.start .a with turn := some { station := 0, todo := turnLooks.drop 2, exchange :=
        { what := .inlet 2, frame := ask 0#8 [], waiting := true, holdAfter := false } } } }
    let ack := sent 0 0x05#8 0#8 []
    let t := (s Watch.start locked).lineA.turn
    let held := s (armed .holdBefore) locked
    let turn := fun t : State => t.lineA.turn.map (fun t => (t.station, t.exchange.what, t.todo))
    t.map (fun t => ((State.sendNext .a t.station t.todo ((s Watch.start locked).clearTurn .a)).2,
        (State.sendNext .a t.station t.todo (held.clearTurn .a)).2)) = some (true, false) ∧
      turn (after (.lineFrameReceived .a true ack) (s Watch.start locked)) =
        some (0, .sample 1, [.sample 2, .sample 3, .sample 4, .relay, .poll]) ∧
      (after (.lineFrameReceived .a true ack) held).lineA.turn = none ∧
      (after (.lineFrameReceived .a true ack) held).watch.held = some 0 ∧ held.watch.stepMark ≠ some 0 := by decide +kernel

/-- A POLL's answer ends the turn: a repeat, a refused STATION_MAINT, a taken one, a STATION_STATUS and a non-answer, after each
of which the line begins the next turn of its one station. -/
theorem witness_PollIsAnswered_ends :
    let maint : Frame := { dst := 0#8, src := 1#8, kind := 0x17#8, tag := 9#8, payload := [1#8] }
    let w := waiting .poll (district locked)
    let full : State := { w with link := { w.link with toCenter := List.replicate 8 maint } }
    let repeated := w.updStation 0 (fun k => { k with lastItem := some 9 })
    let u := fun (kind : Byte) (s : State) => after (.lineFrameReceived .a true (sent 0 kind 9#8 [1#8])) s
    let poll := fun (kind : Byte) (s : State) =>
      (u kind s).lineA.turn.map (fun t => (t.exchange.waiting, t.exchange.frame.payload))
    let item := fun (kind : Byte) (s : State) => ((u kind s).station 0).lastItem
    poll 0x17#8 repeated = some (false, [1#8]) ∧ poll 0x17#8 full = some (false, [0#8]) ∧
      poll 0x17#8 w = some (false, [1#8]) ∧ poll 0x16#8 w = some (false, [1#8]) ∧ poll 0x10#8 w = some (false, [0#8]) ∧
      item 0x17#8 repeated = some 9 ∧ item 0x17#8 full = none ∧ item 0x17#8 w = some 9 ∧ item 0x16#8 w = none := by
  decide +kernel

/-- The stations after the first, a middle and the last drop of each line. -/
theorem test_stationsAfter :
    stationsAfter .a 0 = [1, 2, 3, 4, 5, 6, 7, 8, 9, 10, 11, 12, 13, 14, 15, 0] ∧
      stationsAfter .b 30 = [31, 16, 17, 18, 19, 20, 21, 22, 23, 24, 25, 26, 27, 28, 29, 30] ∧
      stationsAfter .b 31 = [16, 17, 18, 19, 20, 21, 22, 23, 24, 25, 26, 27, 28, 29, 30, 31] := by decide

/-- A time plus minutes: within the day, across its end, at the last second there is, and past it. -/
theorem test_plusMinutes :
    ({ day := 7, sec := 3599 } : Time).plusMinutes 10 = { day := 7, sec := 4199 } ∧
      ({ day := 7, sec := 86399 } : Time).plusMinutes 1440 = { day := 8, sec := 86399 } ∧
      ({ day := 65534, sec := 86399 } : Time).plusMinutes 1440 = { day := 65535, sec := 86399 } ∧
      ({ day := 65535, sec := 86340 } : Time).plusMinutes 1 = { day := 65535, sec := 86399 } := by decide

/-- A whole measurement: a sample within the dead zone and one beyond it. -/
theorem test_measure :
    measure { paper with deadZone := 1700 } Shape.blank 10000 10 = { perMille := 291, volume := 873, saturated := true } ∧
      measure paper Shape.blank 10000 10 = { perMille := 297, volume := 891, saturated := false } := by decide

/-- A sample fused while the expiry of the countdown waits (log 39), and a malformed item resumed (log 40). -/
theorem test_choices_39_40 :
    let waits := (district locked).updFill 0 (fun f => { f with countdown := some 0, request := .outstanding 1 })
    let u := waits.echoSample 0 10000 9 10
    let bad : Parked := { station := 0, frame := { echo0 with payload := [] }, how := .received, received := plain.clock.time, age := 0 }
    let held : State := { district locked with watch := { armed .holdBefore with state := .held, held := some 0, parked := some bad } }
    (u.container 0).fill.countdown = some 30 ∧ (after (.sampleCountdownExpiry 0) u).containers = u.containers ∧
      answer .watchResumeContinue held 0x15#8 [0#8] = [0#8, 0x15#8, 1#8] := by decide +kernel

/-- A service window that runs out at the advance of a tick which takes a CLOSE: the tick finds the stop SERVICING, and the expiry
after it makes the stop SKIPPED in a CLOSING round (log 41). -/
theorem test_choice_41 :
    let s : State := { routed { locked with state := .service, service := some (service (some 1) none) } .servicing with
      clock := { plain.clock with time := { day := 100, sec := 49979 } }
      rounds := { entries := [(1, { oneStop .active (some .servicing) none with requested := some .close })] } }
    let u := after .clockAdvance s
    (u.round 1).state = .closing ∧ (u.round 1).stops.map Stop.state = [some .servicing] ∧
      ((after (.serviceWindowExpiry 0) u).round 1).stops.map Stop.state = [some .skipped] := by decide +kernel

end Sys2Proof.Tests
end

section
/-! PROOFS. What a raise and a clear leave of the classes and the notice queue, and the statements on them (R29,
R30, R33). -/

namespace Sys2Proof.Machine

/-! ### A raise (R29) -/

/-- The frame of a raise, which shows its class as the raise leaves it (R30). -/
def State.frameOfRaise (s : State) (n : Notice) (r : Raise) : NoticeFrame :=
  { priority := (s.noticeClass n.number).priority
    frame := noticeFrame n ((s.noticeClass n.number).raised r s.link.notices.length) r s.clock.set s.now }

/-- The frames a raise appends to the notice queue: one, where the class has a priority and the queue has room. -/
def State.framesOfRaise (s : State) (n : Notice) (r : Raise) : List NoticeFrame :=
  if 1 ≤ (s.noticeClass n.number).priority ∧ s.link.notices.length < 16 then [s.frameOfRaise n r] else []

theorem State.framesOfRaise_nil {s : State} {n : Notice} {r : Raise}
    (h : (s.noticeClass n.number).priority = 0 ∨ 16 ≤ s.link.notices.length) : s.framesOfRaise n r = [] :=
  if_neg (by omega)

theorem State.framesOfRaise_single {s : State} {n : Notice} {r : Raise}
    (hp : 1 ≤ (s.noticeClass n.number).priority) (hl : s.link.notices.length < 16) :
    s.framesOfRaise n r = [s.frameOfRaise n r] :=
  if_pos ⟨hp, hl⟩

/-- An append of no frame changes nothing. -/
theorem State.updLink_notices_append_nil (s : State) :
    s.updLink (fun e => { e with notices := e.notices ++ [] }) = s := by
  simp only [List.append_nil]
  rfl

/-- A raise is an update of its class and an append to the notice queue. -/
theorem State.raise_form (s : State) (n : Notice) (subject : Option Nat) (value : Nat) :
    s.raise n subject value =
      (s.updClass n.number (fun c => c.raised { subject := subject, value := value } s.link.notices.length)).updLink
        (fun e => { e with notices := e.notices ++ s.framesOfRaise n { subject := subject, value := value } }) := by
  unfold State.raise
  dsimp only
  split_ifs with hp hl
  · rw [State.framesOfRaise_nil (Or.inl hp), State.updLink_notices_append_nil]
  · rw [State.framesOfRaise_single (by omega) hl]
    rfl
  · rw [State.framesOfRaise_nil (Or.inr (by omega)), State.updLink_notices_append_nil]

/-- A raise changes the classes and the notice queue alone. -/
theorem State.raise_frame (s : State) (n : Notice) (subject : Option Nat) (value : Nat) :
    { s.raise n subject value with
        classes := s.classes, link := { (s.raise n subject value).link with notices := s.link.notices } } = s := by
  rw [State.raise_form]
  rfl

@[simp] theorem State.noticeClass_raise_same (s : State) (n : Notice) (subject : Option Nat) (value : Nat) :
    (s.raise n subject value).noticeClass n.number =
      (s.noticeClass n.number).raised { subject := subject, value := value } s.link.notices.length := by
  rw [State.raise_form, State.noticeClass_updLink, State.noticeClass_updClass_same]

theorem State.noticeClass_raise_other (s : State) {n : Notice} (subject : Option Nat) (value : Nat) {k : Nat}
    (hk : k ≠ n.number) : (s.raise n subject value).noticeClass k = s.noticeClass k := by
  rw [State.raise_form, State.noticeClass_updLink, State.noticeClass_updClass, if_neg hk]

theorem State.notices_raise (s : State) (n : Notice) (subject : Option Nat) (value : Nat) :
    (s.raise n subject value).link.notices =
      s.link.notices ++ s.framesOfRaise n { subject := subject, value := value } := by
  rw [State.raise_form]
  rfl

theorem State.wf_classes_raise {s : State} (h : s.classes.wf NoticeClass.blank = true) (n : Notice)
    (subject : Option Nat) (value : Nat) : (s.raise n subject value).classes.wf NoticeClass.blank = true := by
  rw [State.raise_form]
  exact Tab.wf_set h

/-! ### The class a raise leaves -/

theorem NoticeClass.raised_eq (c : NoticeClass) (r : Raise) (n : Nat) :
    c.raised r n = { priority := c.priority, flag := true, last := some r,
                     overrun := c.overrun || (decide (1 ≤ c.priority) && decide (16 ≤ n)) } := by
  simp only [NoticeClass.raised, Nat.one_le_iff_ne_zero]

@[simp] theorem NoticeClass.raised_flag (c : NoticeClass) (r : Raise) (n : Nat) : (c.raised r n).flag = true := rfl

@[simp] theorem NoticeClass.raised_last (c : NoticeClass) (r : Raise) (n : Nat) : (c.raised r n).last = some r := rfl

/-! ### A clear (R33) -/

@[simp] theorem NoticeClass.cleared_flag (c : NoticeClass) : c.cleared.flag = false := rfl

@[simp] theorem NoticeClass.cleared_last (c : NoticeClass) : c.cleared.last = c.last := rfl

/-- The set of the operand bytes names the class at its bit (11.7). -/
theorem inClassSet_eq_testBit (set n : Nat) : inClassSet set n = set.testBit n :=
  Nat.testBit_eq_decide_div_mod_eq.symm

/-- A clear reaches the classes of its set alone. -/
theorem State.noticeClass_clearFlags {s : State} (h : s.classes.wf NoticeClass.blank = true) (set n : Nat) :
    (s.clearFlags set).noticeClass n =
      if inClassSet set n then (s.noticeClass n).cleared else s.noticeClass n := by
  have blank_kept : (if inClassSet set n then NoticeClass.blank.cleared else NoticeClass.blank) = NoticeClass.blank :=
    ite_self _
  exact Tab.get_map blank_kept h

theorem legalClassSet_iff (set : Nat) : legalClassSet set = true ↔ set % 2 = 0 ∧ set < 2 ^ 25 := by
  simp only [legalClassSet, Bool.and_eq_true, decide_eq_true_eq]

/-! ### The body of NOTICE_FLAGS_CLEAR -/

theorem field_whole (o : List Byte) : field o 0 o.length = ofBe o := by
  simp [field]

theorem noticeFlagsClearBody_badLength {f : Frame} {o : List Byte} (hf : f.asks 0x06#8 o) (hl : o.length ≠ 4)
    (s : State) : noticeFlagsClearBody f s = (s, replyOnly .badLength) := by
  simp only [noticeFlagsClearBody, operandsOf_asks hf]
  exact if_pos hl

theorem noticeFlagsClearBody_badValue {f : Frame} {o : List Byte} (hf : f.asks 0x06#8 o) (hl : o.length = 4)
    (hset : legalClassSet (ofBe o) = false) (s : State) : noticeFlagsClearBody f s = (s, replyOnly .badValue) := by
  have hfield : field o 0 4 = ofBe o := hl ▸ field_whole o
  simp [noticeFlagsClearBody, operandsOf_asks hf, hl, hfield, hset]

theorem noticeFlagsClearBody_ok {f : Frame} {o : List Byte} (hf : f.asks 0x06#8 o) (hl : o.length = 4)
    (hset : legalClassSet (ofBe o) = true) (s : State) :
    noticeFlagsClearBody f s = (s.clearFlags (ofBe o), replyOnly .ok) := by
  have hfield : field o 0 4 = ofBe o := hl ▸ field_whole o
  simp [noticeFlagsClearBody, operandsOf_asks hf, hl, hfield, hset]

/-- A body that only refuses leaves nothing but its reply. -/
theorem noticeFlagsClear_refused {s : State} {f : Frame} {rest : List Frame} {o : List Byte} {r : Result}
    (ht : s.takes f rest) (hf : f.asks 0x06#8 o)
    (hb : noticeFlagsClearBody f (s.dropFrame rest) = (s.dropFrame rest, replyOnly r)) :
    exec .noticeFlagsClear s = .next (s.answered f rest (BitVec.ofNat 8 r.code) 0x06#8 []) :=
  congrArg Host.Outcome.next (State.handle_answered ht hf rfl (by decide) hb)

/-- A legal set is answered OK, and its classes are cleared. -/
theorem noticeFlagsClear_done {s : State} {f : Frame} {rest : List Frame} {o : List Byte}
    (ht : s.takes f rest) (hf : f.asks 0x06#8 o) (hl : o.length = 4) (hset : legalClassSet (ofBe o) = true) :
    exec .noticeFlagsClear s = .next ((s.answered f rest 0x00#8 0x06#8 []).clearFlags (ofBe o)) := by
  have hq : requestOf f = .noticeFlagsClear := requestOf_asks hf
  have hrun := State.handle_of ht hq (noticeFlagsClearBody_ok hf hl hset (s.dropFrame rest))
  rw [replyCode_asks hf, replyKind_eq, hq, if_neg (by decide)] at hrun
  exact congrArg Host.Outcome.next hrun

/-! ### The statements -/

/-- What a raise and a clear of one class leave of its flag and its last raise, in either order (R29, R33). -/
theorem raise_clear_either_order {s : State} (n : Notice) (subject : Option Nat) (value set : Nat)
    (hw : s.classes.wf NoticeClass.blank = true) (hs : inClassSet set n.number = true) :
    (((s.raise n subject value).clearFlags set).noticeClass n.number).flag = false ∧
      (((s.raise n subject value).clearFlags set).noticeClass n.number).last =
        some { subject := subject, value := value } ∧
      (((s.clearFlags set).raise n subject value).noticeClass n.number).flag = true ∧
      (((s.clearFlags set).raise n subject value).noticeClass n.number).last =
        some { subject := subject, value := value } := by
  rw [State.noticeClass_clearFlags (State.wf_classes_raise hw n subject value), if_pos hs]
  simp

/-- The one frame of a raise that finds room, laid out byte by byte (R30, 11.7). -/
theorem raise_appends_frame {s : State} {n : Notice} (subject : Option Nat) (value : Nat)
    (hp : 1 ≤ (s.noticeClass n.number).priority) (hl : s.link.notices.length < 16) :
    ∃ (q : NoticeFrame) (subjectBytes : List Byte),
      (s.raise n subject value).link.notices = s.link.notices ++ [q] ∧
      q.priority = (s.noticeClass n.number).priority ∧ subjectBytes.length = 2 ∧
      (∀ k, subject = some k → subjectBytes = be 2 k) ∧
      q.frame.dst = 0x7F#8 ∧ q.frame.src = 0x00#8 ∧ q.frame.kind = 0x23#8 ∧ q.frame.tag = 0x00#8 ∧
      q.frame.payload =
        be 1 n.number ++ be 1 (s.noticeClass n.number).priority ++
          be 1 ((if s.clock.set then 1 else 0) +
            (if ((s.raise n subject value).noticeClass n.number).overrun then 2 else 0) +
            (if subject.isSome then 4 else 0)) ++
          subjectBytes ++ be 2 value ++ be 2 s.clock.time.day ++ be 3 s.clock.time.sec := by
  refine ⟨s.frameOfRaise n { subject := subject, value := value }, be 2 (subject.getD 0), ?queue, rfl, rfl, ?subject,
    rfl, rfl, rfl, rfl, ?payload⟩
  case queue => rw [State.notices_raise, State.framesOfRaise_single hp hl]
  case subject => rintro k rfl; rfl
  case payload =>
    rw [State.noticeClass_raise_same]
    simp only [State.frameOfRaise, noticeFrame, bit, timeBytes, List.append_assoc]
    rfl

/-- Settles O27: a raise is one update of its class and one append (`State.raise_form`), read clause by clause. -/
theorem raiseSetsFlagAndQueue : Obligations.RaiseSetsFlagAndQueue := by
  intro s n subject value
  refine ⟨s.raise_frame n subject value, fun k hk => s.noticeClass_raise_other subject value hk, ?raisedClass, ?noFrame,
    raise_appends_frame subject value, fun set => raise_clear_either_order n subject value set, ?secondRaise⟩
  case raisedClass => rw [State.noticeClass_raise_same, NoticeClass.raised_eq]
  case noFrame =>
    intro h
    rw [State.notices_raise, State.framesOfRaise_nil h, List.append_nil]
  case secondRaise =>
    intro subject' value'
    rw [State.noticeClass_raise_same, NoticeClass.raised_last]

/-- Settles O28, by the three answers of the body: BAD_LENGTH, BAD_VALUE and OK. -/
theorem noticeFlagsClearClearsTheSet : Obligations.NoticeFlagsClearClearsTheSet := by
  intro s f rest o ht hf hw
  refine ⟨fun hl => noticeFlagsClear_refused ht hf (noticeFlagsClearBody_badLength hf hl _),
    fun hl => ⟨fun hset => ?badValue, fun heven hlt => ?ok⟩⟩
  case badValue =>
    have hillegal : legalClassSet (ofBe o) = false := by
      rw [Bool.eq_false_iff, ne_eq, legalClassSet_iff]
      omega
    exact noticeFlagsClear_refused ht hf (noticeFlagsClearBody_badValue hf hl hillegal _)
  case ok =>
    have hlegal := (legalClassSet_iff _).mpr ⟨heven, hlt⟩
    refine ⟨_, noticeFlagsClear_done ht hf hl hlegal, rfl, fun n => ?_⟩
    have hanswered : (s.answered f rest 0x00#8 0x06#8 []).classes.wf NoticeClass.blank = true := hw
    rw [State.noticeClass_clearFlags hanswered, inClassSet_eq_testBit]
    rfl

end Sys2Proof.Machine
end

section
/-! PROOFS. The fill computation stage by stage, distance, level and volume, and the five fusion cases, and the
statements on them (R72 to R79). -/

namespace Sys2Proof.Machine

/-! ### Distance (R72) -/

theorem clamp_temperature_eq_ite (T : Int) :
    max (-40) (min 60 T) = if T < -40 then -40 else if 60 < T then 60 else T := by
  split_ifs <;> omega

/-- The clamped temperature keeps c10 in its range, so it is positive and no truncation to a natural number shows. -/
theorem distance_of_clamped {tof : Nat} {T t : Int} (ht : max (-40) (min 60 T) = t) :
    3073 ≤ 3313 + 6 * t ∧ 3313 + 6 * t ≤ 3673 ∧
      (distance tof T : Int) = ((tof : Int) * (3313 + 6 * t) + 10000) / 20000 := by
  have hlow : 3073 ≤ 3313 + 6 * t := by omega
  have hhigh : 3313 + 6 * t ≤ 3673 := by omega
  have hspeed : ((3313 + 6 * t).toNat : Int) = 3313 + 6 * t := Int.toNat_of_nonneg (by omega)
  refine ⟨hlow, hhigh, ?_⟩
  simp only [distance, ht]
  push_cast
  rw [hspeed]

/-! ### Level (R73) -/

/-- The subtraction of natural numbers is the clamp at 0. -/
theorem sub_eq_ite_le (m n : Nat) : m - n = if m ≤ n then 0 else m - n := by
  split_ifs <;> omega

theorem level_of_lt {d deadZone : Nat} (h : d < deadZone) (height : Nat) :
    level d height deadZone = (if height ≤ deadZone then 0 else height - deadZone, true) := by
  rw [level, if_pos h, ← sub_eq_ite_le]

theorem level_of_le {d deadZone : Nat} (h : deadZone ≤ d) (height : Nat) :
    level d height deadZone = (if height ≤ d then 0 else height - d, false) := by
  rw [level, if_neg (Nat.not_lt.mpr h), ← sub_eq_ite_le]

/-! ### Volume (R74) -/

/-- The segment of a shape a level lies in, the last one for a level at the height. -/
def shapeSegment (lvl height : Nat) : Nat := min 7 (lvl * 8 / height)

theorem volumePerMille_eq (p : Shape) (lvl height : Nat) :
    volumePerMille p lvl height =
      p.point (shapeSegment lvl height) +
        (p.point (shapeSegment lvl height + 1) - p.point (shapeSegment lvl height)) *
          (lvl * 8 - shapeSegment lvl height * height) / height := rfl

theorem shapeSegment_lt (lvl height : Nat) : shapeSegment lvl height < 8 :=
  Nat.lt_succ_of_le (Nat.min_le_left 7 _)

theorem shapeSegment_full {height : Nat} (hpos : 0 < height) : shapeSegment height height = 7 := by
  rw [shapeSegment, Nat.mul_div_cancel_left 8 hpos]
  rfl

/-- The part of a level above the foot of its segment: below the last segment a remainder, in the last one what the
height leaves. -/
theorem sub_shapeSegment_le {lvl height : Nat} (hpos : 0 < height) (hle : lvl ≤ height) :
    lvl * 8 - shapeSegment lvl height * height ≤ height := by
  rcases Nat.le_total (lvl * 8 / height) 7 with hbelow | hlast
  · rw [shapeSegment, Nat.min_eq_right hbelow, ← Nat.mod_eq_sub_div_mul]
    exact (Nat.mod_lt _ hpos).le
  · rw [shapeSegment, Nat.min_eq_left hlast]
    omega

theorem interpolated_le {a b r h : Nat} (hab : a ≤ b) (hr : r ≤ h) : a + (b - a) * r / h ≤ b := by
  have hrise : (b - a) * r / h ≤ b - a :=
    Nat.div_le_of_le_mul (Nat.mul_comm h _ ▸ Nat.mul_le_mul_left (b - a) hr)
  omega

theorem Shape.point_le_last {p : Shape} (hmono : ∀ k, k < 8 → p.point k ≤ p.point (k + 1)) {k : Nat} (hk : k ≤ 8) :
    p.point k ≤ p.point 8 :=
  Nat.decreasingInduction' (P := fun j => p.point j ≤ p.point 8) (fun j hj _ ih => (hmono j hj).trans ih) hk le_rfl

/-- The volume lies between the two points of its segment. -/
theorem volumePerMille_between {p : Shape} {lvl height : Nat} (hpos : 0 < height) (hle : lvl ≤ height)
    (hmono : ∀ k, k < 8 → p.point k ≤ p.point (k + 1)) :
    p.point (shapeSegment lvl height) ≤ volumePerMille p lvl height ∧
      volumePerMille p lvl height ≤ p.point (shapeSegment lvl height + 1) := by
  rw [volumePerMille_eq]
  exact ⟨Nat.le_add_right _ _, interpolated_le (hmono _ (shapeSegment_lt lvl height)) (sub_shapeSegment_le hpos hle)⟩

theorem volumePerMille_le_last {p : Shape} {lvl height : Nat} (hpos : 0 < height) (hle : lvl ≤ height)
    (hmono : ∀ k, k < 8 → p.point k ≤ p.point (k + 1)) : volumePerMille p lvl height ≤ p.point 8 :=
  (volumePerMille_between hpos hle hmono).2.trans (Shape.point_le_last hmono (shapeSegment_lt lvl height))

/-- At the height the level is at the end of the last segment. -/
theorem volumePerMille_full {p : Shape} {height : Nat} (hpos : 0 < height) (hmono : p.point 7 ≤ p.point 8) :
    volumePerMille p height height = p.point 8 := by
  have hrest : height * 8 - 7 * height = height := by omega
  rw [volumePerMille_eq, shapeSegment_full hpos, hrest, Nat.mul_div_cancel _ hpos, Nat.add_sub_cancel' hmono]

/-! ### Fusion (R75 to R79) -/

section
variable {g : ContainerCfg} {f : Fill} {x : Measured} {e : Nat}

/-- Case 1: without an estimate, or after a lift, the measurement is adopted (R75). -/
theorem fuse_adopts (h : f.estimate = none ∨ f.postLift = true) : fuse g f x = (x.volume, false) := by
  cases he : f.estimate with
  | none => simp only [fuse, he]
  | some e =>
    have hlift : f.postLift = true := h.resolve_left (by simp [he])
    simp only [fuse, he, hlift, if_true]

/-- Case 2: a saturated sample only raises the estimate (R76). -/
theorem fuse_saturated (he : f.estimate = some e) (hlift : f.postLift = false) (hsat : x.saturated = true) :
    fuse g f x = (max e x.volume, f.risePending) := by
  simp [fuse, he, hlift, hsat]

/-- Case 3: within the tolerance the weighted mean is taken (R77). -/
theorem fuse_within (he : f.estimate = some e) (hlift : f.postLift = false) (hsat : x.saturated = false)
    (hhigh : x.volume ≤ e + g.tolerance) (hlow : e ≤ x.volume + g.tolerance) :
    fuse g f x = ((e * (8 - g.weight) + x.volume * g.weight + 4) / 8, false) := by
  simp [fuse, he, hlift, hsat, hhigh, hlow]

/-- Case 4: a rise beyond the tolerance is adopted when one is pending, and else becomes pending (R78). -/
theorem fuse_above (he : f.estimate = some e) (hlift : f.postLift = false) (hsat : x.saturated = false)
    (habove : e + g.tolerance < x.volume) :
    fuse g f x = if f.risePending then (x.volume, false) else (e, true) := by
  simp [fuse, he, hlift, hsat, habove, Nat.not_le.mpr habove]

/-- Case 5: beyond the tolerance below, the estimate sinks by at most the sink step (R79). -/
theorem fuse_below (he : f.estimate = some e) (hlift : f.postLift = false) (hsat : x.saturated = false)
    (hbelow : x.volume + g.tolerance < e) : fuse g f x = (max x.volume (e - g.sinkStep), false) := by
  have hnotAbove : ¬ e + g.tolerance < x.volume := by omega
  simp [fuse, he, hlift, hsat, hnotAbove, Nat.not_le.mpr hbelow]

end

/-! ### The statements -/

/-- Settles O37: the three stages one by one; a sample's measurement is their composition by definition. -/
theorem echoGivesDistanceLevelAndVolume : Obligations.EchoGivesDistanceLevelAndVolume := by
  refine ⟨fun tof T => distance_of_clamped (clamp_temperature_eq_ite T),
    fun _ hs _ => ⟨fun h => level_of_lt h hs, fun h => level_of_le h hs⟩, ?volume, fun _ _ _ _ => ⟨rfl, rfl, rfl⟩⟩
  case volume =>
    intro p lvl hs capacity hpos hle _ _ hlast hmono
    obtain ⟨hfoot, hhead⟩ := volumePerMille_between hpos hle hmono
    have hthousand : volumePerMille p lvl hs ≤ 1000 := hlast ▸ volumePerMille_le_last hpos hle hmono
    have hcapacity : volumePerMille p lvl hs * capacity / 1000 ≤ capacity :=
      Nat.div_le_of_le_mul (Nat.mul_le_mul_right capacity hthousand)
    refine ⟨volumePerMille_eq p lvl hs, hfoot, hhead, hthousand, hcapacity, ?full⟩
    rintro rfl
    exact (volumePerMille_full hpos (hmono 7 (by decide))).trans hlast

/-- Settles O38: one equation of `fuse` per case. -/
theorem fusionHasFiveCases : Obligations.FusionHasFiveCases :=
  fun _ _ _ => ⟨fuse_adopts, fun _ he hlift =>
    ⟨fuse_saturated he hlift, fuse_within he hlift, fuse_above he hlift, fuse_below he hlift⟩⟩

end Sys2Proof.Machine
end

section
/-! PROOFS. The status and the full-pending count an evaluation gives, from each status before it, and the statement on
them (R93 to R96). -/

namespace Sys2Proof.Machine

/-! ### The overfull level (R93) -/

section
variable {old : FillStatus} {count F alert full confirm : Nat}

theorem evaluated_of_overfull_level (hF : 1100 ≤ F) : evaluated old count F alert full confirm = (.overfull, 0) :=
  if_pos hF

/-- Below the overfull level OVERFULL is held by a hysteresis of 50 per mille. -/
theorem evaluated_overfull_held (hF : F < 1100) (hheld : 1050 ≤ F) :
    evaluated .overfull count F alert full confirm = (.overfull, 0) := by
  rw [evaluated, if_neg (Nat.not_le.mpr hF)]
  exact if_pos hheld

/-- OVERFULL is left for FULL or the alert band, never for FULL_PENDING. -/
theorem evaluated_overfull_left (hF : F < 1050) :
    evaluated .overfull count F alert full confirm =
      (if full ≤ F + 50 then .full else highOrNormal F alert, 0) := by
  have hlevel : ¬ 1100 ≤ F := by omega
  rw [evaluated, if_neg hlevel, apply_ite (Prod.mk · 0)]
  exact if_neg (Nat.not_le.mpr hF)

/-! ### The full check (R94, R95) -/

/-- FULL is held by a hysteresis of 50 per mille, so it is held at the full level and above it too. -/
theorem evaluated_full (hF : F < 1100) :
    evaluated .full count F alert full confirm =
      (if full ≤ F + 50 then .full else highOrNormal F alert, 0) := by
  rw [evaluated, if_neg (Nat.not_le.mpr hF), apply_ite (Prod.mk · 0)]

theorem evaluated_fullPending_reached (hF : F < 1100) (hfull : full ≤ F) :
    evaluated .fullPending count F alert full confirm =
      if confirm ≤ count + 1 then (.full, 0) else (.fullPending, count + 1) := by
  rw [evaluated, if_neg (Nat.not_le.mpr hF)]
  exact if_pos hfull

theorem evaluated_fullPending_below (hF : F < 1100) (hfull : F < full) :
    evaluated .fullPending count F alert full confirm = (highOrNormal F alert, 0) := by
  rw [evaluated, if_neg (Nat.not_le.mpr hF)]
  exact if_neg (Nat.not_le.mpr hfull)

/-- From a status that says nothing of fullness, the full level starts a confirmation, of which this evaluation is the
first. -/
theorem evaluated_confirmation_starts (hF : F < 1100) (hfull : full ≤ F)
    (hold : old = .unknown ∨ old = .normal ∨ old = .high) :
    evaluated old count F alert full confirm = if confirm = 1 then (.full, 0) else (.fullPending, 1) := by
  obtain rfl | rfl | rfl := hold <;> exact (if_neg (Nat.not_le.mpr hF)).trans (if_pos hfull)

/-! ### The alert band (R96) -/

theorem evaluated_high_below (hF : F < 1100) (hfull : F < full) :
    evaluated .high count F alert full confirm = (highOrNormal F alert, 0) := by
  rw [evaluated, if_neg (Nat.not_le.mpr hF)]
  exact if_neg (Nat.not_le.mpr hfull)

/-- HIGH is reached at the alert level itself: the hysteresis holds it only where the container had it. -/
theorem evaluated_unalerted_below (hF : F < 1100) (hfull : F < full) (hold : old = .normal ∨ old = .unknown) :
    evaluated old count F alert full confirm = (if alert ≤ F then .high else .normal, 0) := by
  rw [apply_ite (Prod.mk · 0)]
  obtain rfl | rfl := hold <;> exact (if_neg (Nat.not_le.mpr hF)).trans (if_neg (Nat.not_le.mpr hfull))

end

/-! ### The statement -/

/-- Settles O39: overfull, then full, then the alert band, with one equation of `evaluated` per status before; its
`highOrNormal` is the statement's band. -/
theorem evaluationDecidesTheStatus : Obligations.EvaluationDecidesTheStatus := by
  intro old count F a f c
  refine ⟨evaluated_of_overfull_level, fun hF =>
    ⟨?overfullHeld, ?overfullLeft, fun hfull => ?reached, fun hfull => ?below⟩⟩
  case overfullHeld =>
    rintro rfl hheld
    exact evaluated_overfull_held hF hheld
  case overfullLeft =>
    rintro rfl hleft
    exact evaluated_overfull_left hleft
  case reached =>
    refine ⟨evaluated_confirmation_starts hF hfull, ?fullPending, ?full⟩
    case fullPending =>
      rintro rfl
      exact evaluated_fullPending_reached hF hfull
    case full =>
      rintro rfl
      have hheld : f ≤ F + 50 := Nat.le_add_right_of_le hfull
      exact (evaluated_full hF).trans (by rw [if_pos hheld])
  case below =>
    refine ⟨?fullPending, ?full, ?high, evaluated_unalerted_below hF hfull⟩
    case fullPending =>
      rintro rfl
      exact evaluated_fullPending_below hF hfull
    case full =>
      rintro rfl
      exact evaluated_full hF
    case high =>
      rintro rfl
      exact evaluated_high_below hF hfull

end Sys2Proof.Machine
end

section
/-! PROOFS. What the shared operations of inlet, fill, stops and journal can touch, and what the records read after them
(R29, R58, R82, R111, R161). -/

namespace Sys2Proof.Machine

/-! ### What each shared operation can touch -/

theorem setStatus_touches (s : State) (c : Nat) (st : FillStatus) (n : Nat) :
    ∃ ks p, s.setStatus c st n = { s with containers := ks, planner := p } :=
  ⟨_, _, setStatus_form s c st n⟩

theorem putBar_touches (s : State) (c : Nat) (r : BarReason) (v : Bool) :
    ∃ ks, s.putBar c r v = { s with containers := ks } := ⟨_, rfl⟩

theorem startSettling_touches (s : State) (c : Nat) : ∃ ks, s.startSettling c = { s with containers := ks } := ⟨_, rfl⟩

theorem requestDue_touches (s : State) (c : Nat) : ∃ ks, s.requestDue c = { s with containers := ks } := by
  unfold State.requestDue
  dsimp only
  split <;> exact ⟨_, rfl⟩

/-- The fill fields that a tipped lift sets first: E is 0, under the post-lift check (R82, R90). -/
def Fill.justTipped (f : Fill) : Fill :=
  { f with estimate := some 0, risePending := false, postLift := true, deposits := 0 }

theorem tippedFill_eq (s : State) (c : Nat) :
    s.tippedFill c = ((s.updFill c Fill.justTipped).setStatus c .normal 0).requestDue c := rfl

theorem emptied_touches (s : State) (c : Nat) :
    ∃ ks p, s.emptied c = { s with containers := ks, planner := p } := by
  obtain ⟨_, _, hstatus⟩ := setStatus_touches (s.updFill c Fill.justTipped) c .normal 0
  rw [State.emptied, tippedFill_eq, hstatus]
  obtain ⟨_, hdue⟩ := requestDue_touches _ c
  rw [hdue]
  exact ⟨_, _, rfl⟩

theorem requestTurn_touches (s : State) (i : Nat) :
    ∃ a b, s.requestTurn i = { s with lineA := a, lineB := b } := by
  rw [requestTurn_form]
  cases lineOf i <;> exact ⟨_, _, rfl⟩

theorem lockClosed_touches (s : State) (c : Nat) :
    ∃ ks a b, s.lockClosed c = { s with containers := ks, lineA := a, lineB := b } := by
  obtain ⟨_, _, hturn⟩ := requestTurn_touches _ (stationOf c)
  exact ⟨_, _, _, hturn⟩

theorem dropGrant_touches (s : State) (c : Nat) :
    ∃ ks hs j, s.dropGrant c = { s with containers := ks, households := hs, journal := j } := by
  cases hg : (s.container c).inlet.grant with
  | none => exact ⟨_, _, _, by rw [State.dropGrant, hg]⟩
  | some g =>
    rw [dropGrant_form s c g hg]
    cases g.household <;> exact ⟨_, _, _, rfl⟩

theorem raise_touches (s : State) (n : Notice) (subject : Option Nat) (value : Nat) :
    ∃ cs q, s.raise n subject value = { s with classes := cs, link := { s.link with notices := q } } :=
  ⟨_, _, raise_form s n subject value⟩

theorem completeStop_touches (s : State) (c : Nat) (place : Option (Nat × Nat)) :
    ∃ rs, s.completeStop c place = { s with rounds := rs } := by
  unfold State.completeStop
  split <;> split <;> exact ⟨_, rfl⟩

theorem reportMissed_touches (s : State) (r c : Nat) :
    ∃ ks p cs q, s.reportMissed r c =
      { s with containers := ks, planner := p, classes := cs, link := { s.link with notices := q } } := by
  unfold State.reportMissed
  obtain ⟨_, _, hraise⟩ := raise_touches (s.setMissed c) .stopMissed (some c) r
  rw [hraise]
  exact ⟨_, _, _, _, rfl⟩

theorem returnStop_touches (s : State) (c : Nat) (place : Option (Nat × Nat)) (why : WorkEnd) :
    ∃ ks rs p cs q, s.returnStop c place why =
      { s with containers := ks, rounds := rs, planner := p, classes := cs, link := { s.link with notices := q } } := by
  unfold State.returnStop
  split
  · exact ⟨_, _, _, _, _, rfl⟩
  · rename_i r i
    split
    · exact ⟨_, _, _, _, _, rfl⟩
    · split
      · obtain ⟨_, _, _, _, hmissed⟩ := reportMissed_touches (s.setStop r i .missed) r c
        rw [hmissed]
        exact ⟨_, _, _, _, _, rfl⟩
      · exact ⟨_, _, _, _, _, rfl⟩
    · exact ⟨_, _, _, _, _, rfl⟩

theorem writeRecord_touches (s : State) (r : JournalRecord) :
    ∃ cs q, s.writeRecord r =
      { s with journal := s.journal.append r, classes := cs, link := { s.link with notices := q } } := by
  unfold State.writeRecord
  dsimp only
  split
  · obtain ⟨_, _, hraise⟩ := raise_touches (s.updJournal (fun j => j.append r)) .journalHigh none 768
    exact ⟨_, _, hraise⟩
  · exact ⟨_, _, rfl⟩

/-! ### The fields after an operation -/

section
variable (s : State) (c : Nat)

@[simp] theorem rounds_emptied : (s.emptied c).rounds = s.rounds := by
  obtain ⟨_, _, h⟩ := emptied_touches s c
  rw [h]

@[simp] theorem journal_emptied : (s.emptied c).journal = s.journal := by
  obtain ⟨_, _, h⟩ := emptied_touches s c
  rw [h]

@[simp] theorem classes_emptied : (s.emptied c).classes = s.classes := by
  obtain ⟨_, _, h⟩ := emptied_touches s c
  rw [h]

@[simp] theorem line_emptied (l : Line) : (s.emptied c).line l = s.line l := by
  obtain ⟨_, _, h⟩ := emptied_touches s c
  rw [h]
  cases l <;> rfl

@[simp] theorem journal_lockClosed : (s.lockClosed c).journal = s.journal := by
  obtain ⟨_, _, _, h⟩ := lockClosed_touches s c
  rw [h]

@[simp] theorem households_lockClosed : (s.lockClosed c).households = s.households := by
  obtain ⟨_, _, _, h⟩ := lockClosed_touches s c
  rw [h]

@[simp] theorem journal_completeStop (place : Option (Nat × Nat)) : (s.completeStop c place).journal = s.journal := by
  obtain ⟨_, h⟩ := completeStop_touches s c place
  rw [h]

@[simp] theorem liftRecord_completeStop (place : Option (Nat × Nat)) (crew : Option Nat) :
    (s.completeStop c place).liftRecord c crew = s.liftRecord c crew := by
  obtain ⟨_, h⟩ := completeStop_touches s c place
  rw [h]
  rfl

@[simp] theorem journal_writeRecord (r : JournalRecord) : (s.writeRecord r).journal = s.journal.append r := by
  obtain ⟨_, _, h⟩ := writeRecord_touches s r
  rw [h]

@[simp] theorem rounds_writeRecord (r : JournalRecord) : (s.writeRecord r).rounds = s.rounds := by
  obtain ⟨_, _, h⟩ := writeRecord_touches s r
  rw [h]

@[simp] theorem rounds_startSettling : (s.startSettling c).rounds = s.rounds := rfl

@[simp] theorem journal_startSettling : (s.startSettling c).journal = s.journal := rfl

@[simp] theorem classes_startSettling : (s.startSettling c).classes = s.classes := rfl

@[simp] theorem line_startSettling (l : Line) : (s.startSettling c).line l = s.line l := by cases l <;> rfl

@[simp] theorem journal_putBar (r : BarReason) (v : Bool) : (s.putBar c r v).journal = s.journal := rfl

@[simp] theorem noticeClass_putBar (r : BarReason) (v : Bool) (n : Nat) :
    (s.putBar c r v).noticeClass n = s.noticeClass n := rfl

@[simp] theorem line_putBar (r : BarReason) (v : Bool) (l : Line) : (s.putBar c r v).line l = s.line l := by
  cases l <;> rfl

end

theorem noticeClass_writeRecord (s : State) (r : JournalRecord) {n : Nat} (hn : n ≠ 21) :
    (s.writeRecord r).noticeClass n = s.noticeClass n := by
  unfold State.writeRecord
  dsimp only
  split
  · exact State.noticeClass_raise_other _ none 768 hn
  · rfl

theorem told_congr {t t' : State} {n : Nat} {subject : Option Nat} {value : Nat} (h : t.told n subject value)
    (hclasses : t'.classes = t.classes) : t'.told n subject value := by
  unfold State.told at *
  rwa [State.noticeClass_congr hclasses]

/-! ### The container after an operation -/

/-- The report of a change to SETTLING: a PENDING request is DEFERRED (R88). -/
theorem report_settling (q : SampleRequest) (old : InletState) :
    q.report old .settling = if q = .pending then .deferred else q := by
  cases q <;> simp [SampleRequest.report, InletState.defers]

theorem container_putBar (s : State) (c d : Nat) (r : BarReason) (v : Bool) : (s.putBar c r v).container d =
    if d = c then { s.container c with inlet := { (s.container c).inlet with bars := (s.container c).inlet.bars.put r v } }
    else s.container d :=
  State.container_updInlet s c d _

/-- Settling starts: the settle time runs, and a PENDING sample request is DEFERRED (R88, R161). -/
theorem container_startSettling (s : State) (c d : Nat) : (s.startSettling c).container d =
    if d = c then { s.container c with
      inlet := { (s.container c).inlet with state := .settling, settleLeft := some s.params.settleTime }
      fill := { (s.container c).fill with
        request := if (s.container c).fill.request = .pending then .deferred else (s.container c).fill.request } }
    else s.container d := by
  unfold State.startSettling
  rw [container_setInlet]
  split
  · rw [State.container_updInlet, if_pos rfl, report_settling]
  next hd => rw [State.container_updInlet, if_neg hd]

/-- The fill fields after a tipped lift that leaves the inlet in a state (R82, R85, R98). -/
def Container.tippedFill (k : Container) : Fill :=
  { k.fill.justTipped with
    status := .normal, fullCount := 0
    request := if k.live = true then k.fill.request.due k.inlet.state else k.fill.request }

theorem container_tippedFill (s : State) (c d : Nat) : (s.tippedFill c).container d =
    if d = c then { s.container c with fill := (s.container c).tippedFill } else s.container d := by
  rw [tippedFill_eq, container_requestDue]
  by_cases hd : d = c
  · subst hd
    have hfill : ((s.updFill d Fill.justTipped).setStatus d .normal 0).container d =
        { s.container d with fill := { (s.container d).fill.justTipped with status := .normal, fullCount := 0 } } := by
      simp only [container_setStatus, State.container_updFill, if_true]
    have hlive : (((s.updFill d Fill.justTipped).setStatus d .normal 0).container d).live = (s.container d).live := by
      rw [hfill]
      rfl
    rw [hlive, hfill]
    by_cases hl : (s.container d).live = true <;> simp [hl, Container.tippedFill, Fill.justTipped]
  · simp [hd, container_setStatus, State.container_updFill]

theorem container_emptied (s : State) (c d : Nat) : (s.emptied c).container d =
    if d = c then { s.container c with fill := (s.container c).tippedFill, forced := false, missed := false }
    else s.container d := by
  unfold State.emptied State.clearMarks
  rw [container_rederive, State.container_updContainer, container_tippedFill, container_tippedFill, if_pos rfl]
  split <;> rfl

/-- What a tipped lift's fill fields become as settling starts (R157). -/
def Container.emptiedFill (k : Container) : Fill :=
  { k.fill.justTipped with
    status := .normal, fullCount := 0
    request := match k.fill.request with
      | .pending => .deferred
      | .idle => if k.live then .deferred else .idle
      | q => q }

/-- Settling first, then the tipped lift: a request that falls due is DEFERRED (R85, R88). -/
theorem tippedFill_eq_emptiedFill (k l : Container) (hcfg : l.cfg = k.cfg) (hstate : l.inlet.state = .settling)
    (hfill : l.fill = { k.fill with request := if k.fill.request = .pending then .deferred else k.fill.request }) :
    l.tippedFill = k.emptiedFill := by
  have hlive : l.live = k.live := by simp [Container.live, hcfg, hfill]
  unfold Container.tippedFill Container.emptiedFill
  rw [hlive, hstate, hfill]
  cases k.fill.request <;> cases k.live <;> rfl

@[simp] theorem container_unhold (s : State) (h : Option Nat) (f : Fraction) (d : Nat) :
    (s.unhold h f).container d = s.container d := by
  cases h with
  | none => rfl
  | some i => rfl

theorem container_dropGrant (s : State) (c d : Nat) : (s.dropGrant c).container d =
    if d = c then { s.container c with inlet := { (s.container c).inlet with grant := none } } else s.container d := by
  cases hg : (s.container c).inlet.grant with
  | none =>
    have hkept : s.dropGrant c = s := by rw [State.dropGrant, hg]
    rw [hkept]
    split
    next hd => rw [hd, ← hg]
    · rfl
  | some g =>
    rw [dropGrant_form s c g hg, State.container_updJournal, container_unhold, State.container_updInlet]

/-! ### Lines -/

theorem turnAsked_requestTurn (s : State) (c : Nat) : s.turnAsked (s.requestTurn (stationOf c)) c := by
  rw [requestTurn_form]
  refine ⟨fun l hl => by rw [State.line_updLine, if_neg hl], ?_⟩
  rw [State.line_updLine_same]
  simp only [List.contains_iff_mem]
  split_ifs <;> rfl

/-- `turnAsked` looks at the stations and the lines alone. -/
theorem turnAsked_congr {s s' t t' : State} {c : Nat} (h : s.turnAsked t c) (hst : s'.stations = s.stations)
    (hs : ∀ l, s'.line l = s.line l) (ht : ∀ l, t'.line l = t.line l) : s'.turnAsked t' c := by
  unfold State.turnAsked at *
  simpa only [hs, ht, State.station_congr hst] using h

theorem turnAsked_lockClosed (s : State) (c : Nat) : s.turnAsked (s.lockClosed c) c :=
  turnAsked_requestTurn (s.updInlet c _) c

end Sys2Proof.Machine
end

section
/-! PROOFS. The stop that a tipped lift completes: its record's own, or the one pending stop of its container (R146,
R153, R157). -/

namespace Sys2Proof.Machine

/-! ### The pending stop of a container -/

theorem stopPlace_eq_findIdx (c : Nat) (q : Stop → Bool) (l : List Stop) (n : Nat) :
    stopPlace c q l n = (l.findIdx? (fun p => decide (p.container = c) && q p)).map (· + n) := by
  induction l generalizing n with
  | nil => rfl
  | cons p rest ih =>
    rw [stopPlace, List.findIdx?_cons, ih]
    by_cases hp : p.container = c ∧ q p = true
    · simp [hp]
    · rw [if_neg hp, if_neg (by simpa using hp)]
      simp [Option.map_map, Function.comp_def, Nat.add_assoc, Nat.add_comm 1 n]

theorem Stop.isPending_iff (p : Stop) : p.isPending = true ↔ p.state = some .pending := by
  simp [Stop.isPending]

section
variable {s : State} {c : Nat} {ok : Round → Bool} {r i : Nat}

/-- The stop that pendingStop finds. -/
theorem pendingStop_some (h : s.pendingStop c ok = some (r, i)) :
    r < 4 ∧ (s.round r).state = .active ∧ ok (s.round r) = true ∧
      ∃ p, (s.round r).stops[i]? = some p ∧ p.container = c ∧ p.state = some .pending := by
  obtain ⟨q, hq, hfound⟩ := List.exists_of_findSome?_eq_some h
  split at hfound
  case isFalse => simp at hfound
  case isTrue hok =>
    simp only [stopPlace_eq_findIdx, Option.map_map, Option.map_eq_some_iff] at hfound
    obtain ⟨j, hj, heq⟩ := hfound
    obtain ⟨rfl, rfl⟩ : q = r ∧ j = i := by simpa using heq
    obtain ⟨hlt, hp, -⟩ := List.findIdx?_eq_some_iff_getElem.mp hj
    have hr : q < 4 := by
      simp only [rounds4, List.mem_cons, List.not_mem_nil, or_false] at hq
      omega
    simp only [Bool.and_eq_true, decide_eq_true_eq, Stop.isPending_iff] at hp
    exact ⟨hr, hok.1, hok.2, _, List.getElem?_eq_getElem hlt, hp⟩

/-- Where pendingStop finds nothing there is no such stop. -/
theorem pendingStop_none (h : s.pendingStop c ok = none) (hr : r < 4) (ha : (s.round r).state = .active)
    (hok : ok (s.round r) = true) {p : Stop} (hp : p ∈ (s.round r).stops) (hc : p.container = c) :
    p.state ≠ some .pending := by
  have hr4 : r ∈ rounds4 := by
    simp only [rounds4, List.mem_cons, List.not_mem_nil, or_false]
    omega
  have hnone := List.findSome?_eq_none_iff.mp h r hr4
  rw [if_pos ⟨ha, hok⟩, stopPlace_eq_findIdx, Option.map_eq_none_iff, Option.map_eq_none_iff,
    List.findIdx?_eq_none_iff] at hnone
  have hnot := hnone p hp
  rw [ne_eq, ← Stop.isPending_iff]
  simpa [hc] using hnot

theorem pendingStop_of_soleStop {okP : Round → Prop} (hiff : ∀ d, ok d = true ↔ okP d)
    (h : s.soleStop c okP r i) : s.pendingStop c ok = some (r, i) := by
  obtain ⟨hr, ha, hok, ⟨p, hp, hc, hpend⟩, honly⟩ := h
  cases hfind : s.pendingStop c ok with
  | none => exact absurd hpend (pendingStop_none hfind hr ha ((hiff _).mpr hok) (List.mem_of_getElem? hp) hc)
  | some place =>
    obtain ⟨q, j⟩ := place
    obtain ⟨hq, haq, hokq, p', hp', hc', hpend'⟩ := pendingStop_some hfind
    obtain ⟨rfl, rfl⟩ := honly q j p' hq haq ((hiff _).mp hokq) hp' hc' hpend'
    rfl

theorem pendingStop_of_noStop {okP : Round → Prop} (hiff : ∀ d, ok d = true ↔ okP d) (h : s.noStop c okP) :
    s.pendingStop c ok = none := by
  cases hfind : s.pendingStop c ok with
  | none => rfl
  | some place =>
    obtain ⟨q, j⟩ := place
    obtain ⟨hq, haq, hokq, p, hp, hc, hpend⟩ := pendingStop_some hfind
    exact absurd hpend (h q hq haq ((hiff _).mp hokq) p (List.mem_of_getElem? hp) hc)

end

theorem stopDone_doneStop (s : State) (r i : Nat) : s.stopDone (s.doneStop r i) r i :=
  ⟨fun q hq => by simp [State.doneStop, State.round_updRound, hq], by simp [State.doneStop, modifyStop_eq, State.now]⟩

/-- `stopDone` looks at the rounds and the time alone. -/
theorem stopDone_congr {s s' t t' : State} {r i : Nat} (h : s.stopDone t r i) (hs : s'.rounds = s.rounds)
    (hclock : s'.clock = s.clock) (ht : t'.rounds = t.rounds) : s'.stopDone t' r i := by
  unfold State.stopDone at *
  simpa only [State.round_congr hs, State.round_congr ht, hclock] using h

/-- The stop of a record's own round (R146, R157). -/
theorem stopDone_completeStop {s : State} {r i : Nat} (c : Nat)
    (h : (s.round r).state = .active ∨ (s.round r).state = .closing) :
    s.stopDone (s.completeStop c (some (r, i))) r i := by
  have hdone : s.completeStop c (some (r, i)) = s.doneStop r i := if_pos h
  rw [hdone]
  exact stopDone_doneStop s r i

/-- Without a stop of its own, a lift completes the container's PENDING stop (R157, R160). -/
theorem stopDone_completeStop_none {s : State} {c r i : Nat} (h : s.soleStop c (fun _ => True) r i) :
    s.stopDone (s.completeStop c none) r i := by
  have hfound : s.pendingStop c (fun _ => true) = some (r, i) := pendingStop_of_soleStop (by simp) h
  have hdone : s.completeStop c none = s.doneStop r i := by simp only [State.completeStop, hfound]
  rw [hdone]
  exact stopDone_doneStop s r i

theorem completeStop_none_of_noStop {s : State} {c : Nat} (h : s.noStop c (fun _ => True)) :
    s.completeStop c none = s := by
  have hfound : s.pendingStop c (fun _ => true) = none := pendingStop_of_noStop (by simp) h
  simp only [State.completeStop, hfound]

/-- A tipped lift without a stop of its own completes the container's one PENDING stop, if any (R157, R160). -/
def State.noPlaceDone (s : State) (c : Nat) (t : State) : Prop :=
  (∀ r i, s.soleStop c (fun _ => True) r i → s.stopDone t r i) ∧
    (s.noStop c (fun _ => True) → t.rounds = s.rounds)

theorem noPlaceDone_of_completeStop {s t : State} {c : Nat} (h : t.rounds = (s.completeStop c none).rounds) :
    s.noPlaceDone c t :=
  ⟨fun _ _ hsole => stopDone_congr (stopDone_completeStop_none hsole) rfl rfl h,
    fun hnone => by rw [h, completeStop_none_of_noStop hnone]⟩

/-- `noPlaceDone` looks at the rounds and the time alone. -/
theorem noPlaceDone_congr {s s' t : State} {c : Nat} (h : s.noPlaceDone c t) (hrounds : s'.rounds = s.rounds)
    (hclock : s'.clock = s.clock) : s'.noPlaceDone c t := by
  unfold State.noPlaceDone State.soleStop State.noStop State.stopDone at *
  simpa only [State.round_congr hrounds, hrounds, hclock] using h

end Sys2Proof.Machine
end

section
/-! PROOFS. The begin of a lift, authorized and unplanned (R112, R155, R156). -/

namespace Sys2Proof.Machine

/-! ### An item that is discarded (R112) -/

theorem discardsLift_iff (s : State) (station c : Nat) : s.discardsLift station c = true ↔
    (s.container c).cfg.present = false ∨ (s.station station).state = .unknown ∨ (s.station station).state = .lost ∨
      (s.station station).state = .disabled := by
  unfold State.discardsLift State.present
  cases (s.station station).state <;> simp

/-! ### A LIFT_BEGUN of an authorized lift, or of none -/

section
variable {s : State} {station c : Nat}

theorem liftBegun_of_discarded (hgone : s.discardsLift station c = true) : s.liftBegun station c = s := if_pos hgone

theorem liftBegun_of_lifting (hstate : (s.container c).inlet.state = .lifting) : s.liftBegun station c = s := by
  unfold State.liftBegun
  rw [hstate]
  exact ite_self _

theorem liftBegun_of_service {v : Service} (hacted : s.discardsLift station c = false)
    (hstate : (s.container c).inlet.state = .service) (hv : (s.container c).inlet.service = some v) :
    s.liftBegun station c = s.authorizedLift c v := by
  simp only [State.liftBegun, hacted, hstate, hv, Bool.false_eq_true, if_false]

end

theorem report_service_lifting (q : SampleRequest) : q.report .service .lifting = q := by
  cases q <;> rfl

/-- An authorized lift keeps the record's crew, place and reservation (R155). -/
theorem container_authorizedLift {s : State} {c : Nat} {v : Service} (hstate : (s.container c).inlet.state = .service)
    (d : Nat) : (s.authorizedLift c v).container d =
      if d = c then { s.container c with inlet := { (s.container c).inlet with
        state := .lifting, service := some { v with windowLeft := none, limitLeft := some 900 } } }
      else s.container d := by
  unfold State.authorizedLift
  rw [container_setInlet]
  split
  · rw [State.container_updInlet, if_pos rfl]
    simp only [hstate, report_service_lifting]
  next hd => rw [State.container_updInlet, if_neg hd]

/-! ### An unplanned lift (R156) -/

/-- The journal has room for one more reservation (R60). -/
def State.hasLiftRoom (s : State) : Bool := decide (s.journal.places < 1024)

/-- The place of an unplanned lift's record is set aside, or JOURNAL_FULL raised (R63, R156). -/
def State.takeLiftPlace (s : State) (c : Nat) : State :=
  if s.hasLiftRoom then s.updJournal Journal.reserve else s.raise .journalFull (some 1024) c

/-- The record of a lift that nobody began at a reader (R156). -/
def Service.unowned (reserved : Bool) : Service :=
  { crew := none, round := none, stop := none, reserved := reserved, windowLeft := none, limitLeft := some 900 }

theorem unplannedLift_eq (s : State) (c : Nat) : s.unplannedLift c =
    (((s.takeLiftPlace c).updInlet c (fun n =>
      { n with service := some (Service.unowned s.hasLiftRoom), settleLeft := none })).setInlet c .lifting).raise
        .unplannedLift (some c) 0 := rfl

theorem takeLiftPlace_touches (s : State) (c : Nat) :
    ∃ cs q, s.takeLiftPlace c =
      { s with
        journal := { s.journal with reserved := if s.hasLiftRoom then s.journal.reserved + 1 else s.journal.reserved }
        classes := cs, link := { s.link with notices := q } } := by
  unfold State.takeLiftPlace
  split
  · exact ⟨_, _, rfl⟩
  · exact raise_touches s .journalFull (some 1024) c

theorem unplannedLift_touches (s : State) (c : Nat) :
    ∃ ks cs q, s.unplannedLift c =
      { s with
        containers := ks
        journal := { s.journal with reserved := if s.hasLiftRoom then s.journal.reserved + 1 else s.journal.reserved }
        classes := cs, link := { s.link with notices := q } } := by
  obtain ⟨_, _, hplace⟩ := takeLiftPlace_touches s c
  rw [unplannedLift_eq, hplace]
  obtain ⟨_, _, hraise⟩ := raise_touches _ .unplannedLift (some c) 0
  exact ⟨_, _, _, hraise⟩

theorem households_unplannedLift (s : State) (c : Nat) : (s.unplannedLift c).households = s.households := by
  obtain ⟨_, _, _, h⟩ := unplannedLift_touches s c
  rw [h]

theorem line_unplannedLift (s : State) (c : Nat) (l : Line) : (s.unplannedLift c).line l = s.line l := by
  obtain ⟨_, _, _, h⟩ := unplannedLift_touches s c
  rw [h]
  cases l <;> rfl

theorem journal_unplannedLift (s : State) (c : Nat) : (s.unplannedLift c).journal =
    { s.journal with reserved := if s.hasLiftRoom then s.journal.reserved + 1 else s.journal.reserved } := by
  obtain ⟨_, _, _, h⟩ := unplannedLift_touches s c
  rw [h]

theorem container_unplannedLift (s : State) (c d : Nat) : (s.unplannedLift c).container d =
    if d = c then { s.container c with
      inlet := { (s.container c).inlet with
        state := .lifting, settleLeft := none, service := some (Service.unowned s.hasLiftRoom) }
      fill := { (s.container c).fill with request :=
        if (s.container c).fill.request = .deferred ∧ (s.container c).inlet.waits = true then .pending
        else (s.container c).fill.request } }
    else s.container d := by
  obtain ⟨_, _, hplace⟩ := takeLiftPlace_touches s c
  have hsame : ∀ e, (s.takeLiftPlace c).container e = s.container e := fun e => by rw [hplace]; rfl
  rw [unplannedLift_eq, State.container_raise, container_setInlet]
  split
  · rw [State.container_updInlet, if_pos rfl, hsame]
    simp only [report_lifting]
  next hd => rw [State.container_updInlet, if_neg hd, hsame]

theorem told_unplannedLift (s : State) (c : Nat) : (s.unplannedLift c).told 15 (some c) 0 :=
  told_raise _ .unplannedLift (some c) 0

/-- Of the class JOURNAL_FULL an unplanned lift tells no more than the place it takes. -/
theorem noticeClass_unplannedLift (s : State) (c : Nat) :
    (s.unplannedLift c).noticeClass 22 = (s.takeLiftPlace c).noticeClass 22 :=
  noticeClass_raise _ .unplannedLift (some c) 0 22 (by decide)

theorem told_full_unplannedLift {s : State} (c : Nat) (hroom : s.hasLiftRoom = false) :
    (s.unplannedLift c).told 22 (some 1024) c := by
  have hplace : s.takeLiftPlace c = s.raise .journalFull (some 1024) c := by
    simp only [State.takeLiftPlace, hroom, Bool.false_eq_true, if_false]
  unfold State.told
  rw [noticeClass_unplannedLift, hplace]
  exact told_raise s .journalFull (some 1024) c

theorem full_unplannedLift_of_room {s : State} (c : Nat) (hroom : s.hasLiftRoom = true) :
    (s.unplannedLift c).noticeClass 22 = s.noticeClass 22 := by
  rw [noticeClass_unplannedLift, State.takeLiftPlace, if_pos hroom]
  rfl

/-! ### The grant that an unplanned lift cuts (R156) -/

/-- What an unplanned lift finds: the grant of an OPEN inlet CUT, with LOCK CLOSED set (R156). -/
def State.cutFor (s : State) (c : Nat) (grant : Option Grant) : State :=
  if grant.isSome then (s.dropGrant c).lockClosed c else s

/-- The inlet is OPEN under a grant, or in a state without one (R156). -/
def Inlet.liftsUnplanned (n : Inlet) (grant : Option Grant) : Prop :=
  n.state = .opened ∧ grant.isSome = true ∧ n.grant = grant ∨
    (n.state = .locked ∨ n.state = .barred ∨ n.state = .settling) ∧ grant = none

theorem liftBegun_of_unplanned {s : State} {station c : Nat} {grant : Option Grant}
    (hacted : s.discardsLift station c = false) (h : (s.container c).inlet.liftsUnplanned grant) :
    s.liftBegun station c = (s.cutFor c grant).unplannedLift c := by
  unfold State.liftBegun State.cutFor
  rw [if_neg (by simp [hacted])]
  rcases h with ⟨hstate, hsome, -⟩ | ⟨hstate | hstate | hstate, rfl⟩
  · rw [hstate, if_pos hsome]
  all_goals rw [hstate]; rfl

section
variable {s : State} {c : Nat} {grant : Option Grant}

theorem container_cutFor (s : State) (c : Nat) (grant : Option Grant) (d : Nat) : (s.cutFor c grant).container d =
    if d = c then { s.container c with inlet := { (s.container c).inlet with
      grant := if grant.isSome then none else (s.container c).inlet.grant
      command := if grant.isSome then some InletCommand.closed else (s.container c).inlet.command } }
    else s.container d := by
  unfold State.cutFor
  split
  · rw [container_lockClosed, container_dropGrant, container_dropGrant, if_pos rfl]
    split <;> rfl
  · split
    next hd => rw [hd]
    · rfl

theorem cutFor_touches (s : State) (c : Nat) (grant : Option Grant) :
    ∃ ks hs j a b, s.cutFor c grant =
      { s with containers := ks, households := hs, journal := j, lineA := a, lineB := b } := by
  unfold State.cutFor
  split
  · obtain ⟨_, _, _, hclosed⟩ := lockClosed_touches (s.dropGrant c) c
    obtain ⟨_, _, _, hdrop⟩ := dropGrant_touches s c
    rw [hclosed, hdrop]
    exact ⟨_, _, _, _, _, rfl⟩
  · exact ⟨_, _, _, _, _, rfl⟩

/-- An unplanned lift, with the cut of a grant before it, leaves all but containers, counts, notices and lines (R156). -/
theorem unplannedLift_cutFor_frame (s : State) (c : Nat) (grant : Option Grant) :
    { (s.cutFor c grant).unplannedLift c with
        containers := s.containers, households := s.households, journal := s.journal, classes := s.classes
        lineA := s.lineA, lineB := s.lineB
        link := { ((s.cutFor c grant).unplannedLift c).link with notices := s.link.notices } } = s := by
  obtain ⟨_, _, _, hlift⟩ := unplannedLift_touches (s.cutFor c grant) c
  obtain ⟨_, _, _, _, _, hcut⟩ := cutFor_touches s c grant
  rw [hlift, hcut]

theorem noticeClass_cutFor (s : State) (c : Nat) (grant : Option Grant) (n : Nat) :
    (s.cutFor c grant).noticeClass n = s.noticeClass n := by
  obtain ⟨_, _, _, _, _, hcut⟩ := cutFor_touches s c grant
  rw [hcut]
  rfl

/-- The reservation of a grant that is cut is released (R64). -/
theorem journal_cutFor (h : (s.container c).inlet.liftsUnplanned grant) : (s.cutFor c grant).journal =
    { s.journal with reserved := s.journal.reserved - (if (grant.map Grant.reserved).getD false then 1 else 0) } := by
  obtain ⟨-, -, hg⟩ | ⟨-, rfl⟩ := h
  · cases grant with
    | none => rfl
    | some g =>
      have hcut : s.cutFor c (some g) = (s.dropGrant c).lockClosed c := rfl
      rw [hcut, journal_lockClosed, dropGrant_form s c g hg]
      cases g.household <;> rfl
  · rfl

/-- `grantGone` looks at the households alone. -/
theorem grantGone_congr {t t' : State} {g : Grant} (h : s.grantGone t g) (hhouseholds : t'.households = t.households) :
    s.grantGone t' g := by
  unfold State.grantGone at *
  simpa only [State.household_congr hhouseholds] using h

theorem grantGone_cutFor {g : Grant} (hg : (s.container c).inlet.grant = some g) : s.grantGone (s.cutFor c (some g)) g :=
  grantGone_congr (grantGone_dropGrant s c g hg) (households_lockClosed (s.dropGrant c) c)

theorem turnAsked_cutFor (h : grant.isSome = true) : s.turnAsked (s.cutFor c grant) c := by
  have hcut : s.cutFor c grant = (s.dropGrant c).lockClosed c := if_pos h
  obtain ⟨_, _, _, hdrop⟩ := dropGrant_touches s c
  rw [hcut]
  refine turnAsked_congr (turnAsked_lockClosed (s.dropGrant c) c) ?_ ?_ (fun _ => rfl)
  · rw [hdrop]
  · intro l
    rw [hdrop]
    cases l <;> rfl

end

end Sys2Proof.Machine
end

section
/-! PROOFS. The end of a lift, tipped and not tipped, in time and late, and the statement on lifts (R157, R158, R160). -/

namespace Sys2Proof.Machine

/-! ### A LIFT_ENDED as one operation -/

section
variable {s : State} {station c : Nat}

theorem liftEnded_of_discarded (tipped : Bool) (hgone : s.discardsLift station c = true) :
    s.liftEnded station c tipped = s := if_pos hgone

theorem liftEnded_of_other (tipped : Bool) (hlifting : (s.container c).inlet.state ≠ .lifting)
    (hlate : ¬((s.container c).inlet.state = .barred ∧ (s.container c).inlet.bars.liftOpen = true)) :
    s.liftEnded station c tipped = s := by
  unfold State.liftEnded
  split
  · rfl
  · split
    · rename_i hstate
      exact absurd hstate hlifting
    · rename_i hstate
      exact if_neg fun hopen => hlate ⟨hstate, hopen⟩
    · rfl

theorem liftEnded_of_lifting {v : Service} (tipped : Bool) (hacted : s.discardsLift station c = false)
    (hstate : (s.container c).inlet.state = .lifting) (hv : (s.container c).inlet.service = some v) :
    s.liftEnded station c tipped = if tipped then s.liftTipped c v else s.liftUntipped c := by
  simp only [State.liftEnded, hacted, hstate, hv, Bool.false_eq_true, if_false]

theorem liftEnded_of_late (tipped : Bool) (hacted : s.discardsLift station c = false)
    (hstate : (s.container c).inlet.state = .barred) (hopen : (s.container c).inlet.bars.liftOpen = true) :
    s.liftEnded station c tipped = s.lateEnd c tipped := by
  simp only [State.liftEnded, hacted, hstate, hopen, Bool.false_eq_true, if_false, if_true]

end

/-- What a LIFT_ENDED can do: nothing, end the lift of a service record, or end one late. -/
theorem liftEnded_cases (s : State) (station c : Nat) (tipped : Bool) :
    s.liftEnded station c tipped = s ∨
      (∃ v, (s.container c).inlet.service = some v ∧
        s.liftEnded station c tipped = if tipped then s.liftTipped c v else s.liftUntipped c) ∨
      s.liftEnded station c tipped = s.lateEnd c tipped := by
  unfold State.liftEnded
  split
  · exact Or.inl rfl
  · split
    · split
      · rename_i v hv
        exact Or.inr (Or.inl ⟨v, hv, rfl⟩)
      · exact Or.inl rfl
    · split
      · exact Or.inr (Or.inr rfl)
      · exact Or.inl rfl
    · exact Or.inl rfl

/-- The end of a lift at its inlet: record and LIFT_OPEN removed, settling started, LOCK CLOSED set (R157, R158). -/
def State.closeLift (s : State) (c : Nat) : State :=
  (((s.updInlet c (fun n => { n with service := none })).putBar c .liftOpen false).startSettling c).lockClosed c

/-- A tipped lift's stop completed and its record written (R157). -/
def State.liftWritten (s : State) (c : Nat) (v : Service) : State :=
  let s1 := s.completeStop c v.place
  if v.reserved then s1.writeReserved (s1.liftRecord c v.crew) else s1

/-- The stop and the reservation of a lift that did not tip given back (R158). -/
def State.liftReturned (s : State) (c : Nat) (v : Service) : State :=
  (s.returnStop c v.place .untipped).updJournal (fun j =>
    { j with reserved := j.reserved - (if v.reserved then 1 else 0) })

/-- A late tipped lift's stop completed, and its record written or JOURNAL_FULL raised (R160). -/
def State.lateWritten (s : State) (c : Nat) : State :=
  let s2 := s.completeStop c none
  if s2.journal.places < 1024 then s2.writeRecord (s2.liftRecord c none) else s2.raise .journalFull (some 1024) c

theorem liftTipped_eq (s : State) (c : Nat) (v : Service) :
    s.liftTipped c v = ((s.liftWritten c v).closeLift c).emptied c := rfl

theorem liftUntipped_eq {s : State} {c : Nat} {v : Service} (hv : (s.container c).inlet.service = some v) :
    s.liftUntipped c = (s.liftReturned c v).closeLift c := by
  unfold State.liftUntipped
  rw [endWork_form s c v .untipped hv]
  rfl

theorem lateEnd_tipped_eq (s : State) (c : Nat) : s.lateEnd c true =
    (((s.putBar c .liftOpen false).lateWritten c).startSettling c).emptied c := rfl

theorem lateEnd_untipped_eq (s : State) (c : Nat) : s.lateEnd c false =
    (s.putBar c .liftOpen false).startSettling c := rfl

/-! ### The inlet at the end of a lift -/

/-- The inlet settles: LIFT_OPEN removed and the settle time started (R161). -/
def Inlet.settling (n : Inlet) (settleTime : Nat) : Inlet :=
  { n with state := .settling, settleLeft := some settleTime, bars := { n.bars with liftOpen := false } }

/-- The fill fields of an inlet that begins to settle: a PENDING request is DEFERRED (R88). -/
def Container.settlingFill (k : Container) : Fill :=
  { k.fill with request := if k.fill.request = .pending then .deferred else k.fill.request }

section
variable (s : State) (c : Nat)

/-- What precedes the LOCK CLOSED of a lift's end touches the containers alone. -/
theorem settling_touches : ∃ ks, ((s.updInlet c (fun n => { n with service := none })).putBar c .liftOpen
    false).startSettling c = { s with containers := ks } := by
  obtain ⟨_, hbar⟩ := putBar_touches (s.updInlet c _) c .liftOpen false
  rw [hbar]
  obtain ⟨_, hsettling⟩ := startSettling_touches _ c
  rw [hsettling]
  exact ⟨_, rfl⟩

theorem closeLift_touches : ∃ ks a b, s.closeLift c = { s with containers := ks, lineA := a, lineB := b } := by
  obtain ⟨_, hsettling⟩ := settling_touches s c
  unfold State.closeLift
  rw [hsettling]
  obtain ⟨_, _, _, hclosed⟩ := lockClosed_touches _ c
  rw [hclosed]
  exact ⟨_, _, _, rfl⟩

@[simp] theorem rounds_closeLift : (s.closeLift c).rounds = s.rounds := by
  obtain ⟨_, _, _, h⟩ := closeLift_touches s c
  rw [h]

@[simp] theorem journal_closeLift : (s.closeLift c).journal = s.journal := by
  obtain ⟨_, _, _, h⟩ := closeLift_touches s c
  rw [h]

@[simp] theorem classes_closeLift : (s.closeLift c).classes = s.classes := by
  obtain ⟨_, _, _, h⟩ := closeLift_touches s c
  rw [h]

theorem turnAsked_closeLift : s.turnAsked (s.closeLift c) c := by
  obtain ⟨ks, hsettling⟩ := settling_touches s c
  unfold State.closeLift
  rw [hsettling]
  refine turnAsked_congr (turnAsked_lockClosed { s with containers := ks } c) rfl (fun l => ?_) (fun _ => rfl)
  cases l <;> rfl

theorem container_closeLift (d : Nat) : (s.closeLift c).container d =
    if d = c then { s.container c with
      inlet := { (s.container c).inlet.settling s.params.settleTime with
        service := none, command := some InletCommand.closed }
      fill := (s.container c).settlingFill }
    else s.container d := by
  unfold State.closeLift
  rw [container_lockClosed]
  by_cases hd : d = c
  · subst hd
    simp only [if_true, container_startSettling, container_putBar, State.container_updInlet]
    rfl
  · simp only [if_neg hd, container_startSettling, container_putBar, State.container_updInlet]

end

/-- A tipped lift's fill fields are emptied and both marks cleared, after settling has started (R157). -/
theorem emptied_settling {s t : State} {c : Nat} (hcfg : (t.container c).cfg = (s.container c).cfg)
    (hstate : (t.container c).inlet.state = .settling) (hfill : (t.container c).fill = (s.container c).settlingFill) :
    (t.emptied c).container c =
      { t.container c with fill := (s.container c).emptiedFill, forced := false, missed := false } := by
  rw [container_emptied, if_pos rfl, tippedFill_eq_emptiedFill (s.container c) (t.container c) hcfg hstate hfill]

/-! ### The stop and the record at the end of a lift -/

section
variable (s : State) (c : Nat) (v : Service)

theorem liftWritten_touches : ∃ rs j cs q, s.liftWritten c v =
    { s with rounds := rs, journal := j, classes := cs, link := { s.link with notices := q } } := by
  obtain ⟨_, hstop⟩ := completeStop_touches s c v.place
  unfold State.liftWritten
  rw [hstop]
  dsimp only
  split
  · obtain ⟨_, _, hrecord⟩ := writeRecord_touches (State.updJournal _ Journal.unreserve) _
    exact ⟨_, _, _, _, hrecord⟩
  · exact ⟨_, _, _, _, rfl⟩

theorem rounds_liftWritten : (s.liftWritten c v).rounds = (s.completeStop c v.place).rounds := by
  unfold State.liftWritten
  dsimp only
  split
  · exact rounds_writeRecord _ _
  · rfl

theorem liftReturned_touches : ∃ ks rs p j cs q, s.liftReturned c v =
    { s with containers := ks, rounds := rs, planner := p, journal := j, classes := cs
             link := { s.link with notices := q } } := by
  obtain ⟨_, _, _, _, _, hstop⟩ := returnStop_touches s c v.place .untipped
  unfold State.liftReturned
  rw [hstop]
  exact ⟨_, _, _, _, _, _, rfl⟩

theorem journal_liftReturned : (s.liftReturned c v).journal =
    { s.journal with reserved := s.journal.reserved - (if v.reserved then 1 else 0) } := by
  obtain ⟨_, _, _, _, _, hstop⟩ := returnStop_touches s c v.place .untipped
  unfold State.liftReturned
  rw [hstop]
  rfl

theorem lateWritten_touches : ∃ rs j cs q, s.lateWritten c =
    { s with rounds := rs, journal := j, classes := cs, link := { s.link with notices := q } } := by
  obtain ⟨_, hstop⟩ := completeStop_touches s c none
  unfold State.lateWritten
  rw [hstop]
  dsimp only
  split
  · obtain ⟨_, _, hrecord⟩ := writeRecord_touches _ _
    exact ⟨_, _, _, _, hrecord⟩
  · obtain ⟨_, _, hraise⟩ := raise_touches _ .journalFull (some 1024) c
    exact ⟨_, _, _, _, hraise⟩

theorem rounds_lateWritten : (s.lateWritten c).rounds = (s.completeStop c none).rounds := by
  unfold State.lateWritten
  dsimp only
  split
  · exact rounds_writeRecord _ _
  · exact State.raise_rounds _ _ _ _

end

/-- The journal record of a lift (R58), with the serial it is written under. -/
def State.liftEntry (s : State) (c : Nat) (crew : Option Nat) : JournalRecord :=
  { s.liftRecord c crew with serial := s.journal.serial }

section
variable {s : State} {c : Nat}

theorem journal_liftWritten_of_reserved {v : Service} (h : v.reserved = true) : (s.liftWritten c v).journal =
    { records := s.journal.records ++ [s.liftEntry c v.crew], serial := (s.journal.serial + 1) % 65536
      reserved := s.journal.reserved - 1 } := by
  unfold State.liftWritten State.writeReserved
  rw [if_pos h, journal_writeRecord, State.updJournal_journal, journal_completeStop, liftRecord_completeStop]
  rfl

theorem journal_liftWritten_of_unreserved {v : Service} (h : v.reserved = false) :
    (s.liftWritten c v).journal = s.journal := by
  unfold State.liftWritten
  rw [if_neg (by simp [h])]
  exact journal_completeStop s c v.place

theorem lateWritten_of_room (h : s.journal.places < 1024) :
    s.lateWritten c = (s.completeStop c none).writeRecord (s.liftRecord c none) := by
  unfold State.lateWritten
  dsimp only
  rw [journal_completeStop, if_pos h, liftRecord_completeStop]

theorem lateWritten_of_full (h : 1024 ≤ s.journal.places) :
    s.lateWritten c = (s.completeStop c none).raise .journalFull (some 1024) c := by
  unfold State.lateWritten
  dsimp only
  rw [journal_completeStop, if_neg (Nat.not_lt.mpr h)]

theorem journal_lateWritten_of_room (h : s.journal.places < 1024) : (s.lateWritten c).journal =
    { s.journal with
      records := s.journal.records ++ [s.liftEntry c none], serial := (s.journal.serial + 1) % 65536 } := by
  rw [lateWritten_of_room h, journal_writeRecord, journal_completeStop]
  rfl

theorem full_lateWritten_of_room (h : s.journal.places < 1024) :
    (s.lateWritten c).noticeClass 22 = s.noticeClass 22 := by
  obtain ⟨_, hstop⟩ := completeStop_touches s c none
  rw [lateWritten_of_room h, noticeClass_writeRecord _ _ (by decide), hstop]
  rfl

theorem journal_lateWritten_of_full (h : 1024 ≤ s.journal.places) : (s.lateWritten c).journal = s.journal := by
  rw [lateWritten_of_full h, State.raise_journal, journal_completeStop]

theorem told_lateWritten_of_full (h : 1024 ≤ s.journal.places) : (s.lateWritten c).told 22 (some 1024) c := by
  rw [lateWritten_of_full h]
  exact told_raise _ .journalFull (some 1024) c

/-! ### What a lift's end leaves alone -/

/-- From one state to the other at most what a lift's end deals with differs (R157, R158, R160). -/
def State.onlyEnds (s t : State) : Prop :=
  { t with containers := s.containers, journal := s.journal, rounds := s.rounds, planner := s.planner,
           classes := s.classes, lineA := s.lineA, lineB := s.lineB, link := { t.link with notices := s.link.notices } } = s

theorem onlyEnds_trans {s t u : State} (hst : s.onlyEnds t) (htu : t.onlyEnds u) : s.onlyEnds u := by
  unfold State.onlyEnds at hst htu
  rw [← htu] at hst
  exact hst

theorem startSettling_onlyEnds (s : State) (c : Nat) : s.onlyEnds (s.startSettling c) := rfl

theorem emptied_onlyEnds (s : State) (c : Nat) : s.onlyEnds (s.emptied c) := by
  obtain ⟨_, _, h⟩ := emptied_touches s c
  rw [h]
  rfl

theorem closeLift_onlyEnds (s : State) (c : Nat) : s.onlyEnds (s.closeLift c) := by
  obtain ⟨_, _, _, h⟩ := closeLift_touches s c
  rw [h]
  rfl

theorem liftTipped_onlyEnds (s : State) (c : Nat) (v : Service) : s.onlyEnds (s.liftTipped c v) := by
  have hwritten : s.onlyEnds (s.liftWritten c v) := by
    obtain ⟨_, _, _, _, h⟩ := liftWritten_touches s c v
    rw [h]
    rfl
  exact onlyEnds_trans hwritten (onlyEnds_trans (closeLift_onlyEnds _ c) (emptied_onlyEnds _ c))

theorem liftUntipped_onlyEnds {v : Service} (hv : (s.container c).inlet.service = some v) :
    s.onlyEnds (s.liftUntipped c) := by
  have hreturned : s.onlyEnds (s.liftReturned c v) := by
    obtain ⟨_, _, _, _, _, _, h⟩ := liftReturned_touches s c v
    rw [h]
    rfl
  rw [liftUntipped_eq hv]
  exact onlyEnds_trans hreturned (closeLift_onlyEnds _ c)

theorem lateEnd_onlyEnds (s : State) (c : Nat) (tipped : Bool) : s.onlyEnds (s.lateEnd c tipped) := by
  have hbar : s.onlyEnds (s.putBar c .liftOpen false) := rfl
  have hwritten (t : State) : t.onlyEnds (t.lateWritten c) := by
    obtain ⟨_, _, _, _, h⟩ := lateWritten_touches t c
    rw [h]
    rfl
  cases tipped with
  | false => exact onlyEnds_trans hbar (startSettling_onlyEnds _ c)
  | true =>
    exact onlyEnds_trans hbar
      (onlyEnds_trans (hwritten _) (onlyEnds_trans (startSettling_onlyEnds _ c) (emptied_onlyEnds _ c)))

/-! ### The container after a lift's end -/

theorem container_liftTipped (s : State) (c : Nat) (v : Service) (d : Nat) : (s.liftTipped c v).container d =
    if d = c then { s.container c with
      inlet := { (s.container c).inlet.settling s.params.settleTime with
        service := none, command := some InletCommand.closed }
      fill := (s.container c).emptiedFill, forced := false, missed := false }
    else s.container d := by
  obtain ⟨_, _, _, _, hwritten⟩ := liftWritten_touches s c v
  have hsame : ∀ e, (s.liftWritten c v).container e = s.container e := fun e => by rw [hwritten]; rfl
  have hparams : (s.liftWritten c v).params = s.params := by rw [hwritten]
  rw [liftTipped_eq]
  split
  next hd =>
    subst hd
    have hclosed := container_closeLift (s.liftWritten d v) d d
    rw [if_pos rfl, hsame, hparams] at hclosed
    rw [emptied_settling (s := s) (by rw [hclosed]) (by rw [hclosed]; rfl) (by rw [hclosed]), hclosed]
  next hd => rw [container_emptied, if_neg hd, container_closeLift, if_neg hd, hsame]

theorem container_liftUntipped {v : Service} (hv : (s.container c).inlet.service = some v) :
    (∀ d, d ≠ c → (s.liftUntipped c).container d = s.container d) ∧
      (s.liftUntipped c).container c = { s.container c with
        inlet := { (s.container c).inlet.settling s.params.settleTime with
          service := none, command := some InletCommand.closed }
        fill := (s.container c).settlingFill
        missed := ((s.returnStop c v.place .untipped).container c).missed } := by
  obtain ⟨_, _, _, _, _, _, hreturned⟩ := liftReturned_touches s c v
  have hparams : (s.liftReturned c v).params = s.params := by rw [hreturned]
  have hsame : ∀ e, (s.liftReturned c v).container e = (s.returnStop c v.place .untipped).container e := fun _ => rfl
  obtain ⟨others, m, hmissed⟩ := container_returnStop s c v.place .untipped
  rw [liftUntipped_eq hv]
  refine ⟨fun d hd => ?_, ?_⟩
  · rw [container_closeLift, if_neg hd, hsame, others d hd]
  · rw [container_closeLift, if_pos rfl, hparams, hsame, hmissed]
    rfl

theorem container_lateEnd_untipped (s : State) (c d : Nat) : (s.lateEnd c false).container d =
    if d = c then { s.container c with
      inlet := (s.container c).inlet.settling s.params.settleTime, fill := (s.container c).settlingFill }
    else s.container d := by
  rw [lateEnd_untipped_eq, container_startSettling, container_putBar, container_putBar, if_pos rfl]
  split <;> rfl

theorem container_lateEnd_tipped (s : State) (c d : Nat) : (s.lateEnd c true).container d =
    if d = c then { s.container c with
      inlet := (s.container c).inlet.settling s.params.settleTime
      fill := (s.container c).emptiedFill, forced := false, missed := false }
    else s.container d := by
  obtain ⟨_, _, _, _, hwritten⟩ := lateWritten_touches (s.putBar c .liftOpen false) c
  have hsettling : ∀ e, (((s.putBar c .liftOpen false).lateWritten c).startSettling c).container e =
      (s.lateEnd c false).container e := fun e => by
    rw [lateEnd_untipped_eq, container_startSettling, container_startSettling, hwritten]
    rfl
  rw [lateEnd_tipped_eq]
  split
  next hd =>
    subst hd
    have hclosed := hsettling d
    rw [container_lateEnd_untipped, if_pos rfl] at hclosed
    rw [emptied_settling (s := s) (by rw [hclosed]) (by rw [hclosed]; rfl) (by rw [hclosed]), hclosed]
  next hd => rw [container_emptied, if_neg hd, hsettling, container_lateEnd_untipped, if_neg hd]

/-! ### Lines, stops and journal after a lift's end -/

theorem turnAsked_liftTipped (s : State) (c : Nat) (v : Service) : s.turnAsked (s.liftTipped c v) c := by
  obtain ⟨_, _, _, _, hwritten⟩ := liftWritten_touches s c v
  rw [liftTipped_eq]
  refine turnAsked_congr (turnAsked_closeLift (s.liftWritten c v) c) (by rw [hwritten]) (fun l => ?_)
    (line_emptied _ c)
  rw [hwritten]
  cases l <;> rfl

theorem turnAsked_liftUntipped {v : Service} (hv : (s.container c).inlet.service = some v) :
    s.turnAsked (s.liftUntipped c) c := by
  obtain ⟨_, _, _, _, _, _, hreturned⟩ := liftReturned_touches s c v
  rw [liftUntipped_eq hv]
  refine turnAsked_congr (turnAsked_closeLift (s.liftReturned c v) c) (by rw [hreturned]) (fun l => ?_) (fun _ => rfl)
  rw [hreturned]
  cases l <;> rfl

theorem rounds_liftTipped (s : State) (c : Nat) (v : Service) :
    (s.liftTipped c v).rounds = (s.completeStop c v.place).rounds := by
  rw [liftTipped_eq, rounds_emptied, rounds_closeLift, rounds_liftWritten]

theorem journal_liftTipped (s : State) (c : Nat) (v : Service) :
    (s.liftTipped c v).journal = (s.liftWritten c v).journal := by
  rw [liftTipped_eq, journal_emptied, journal_closeLift]

/-- A tipped lift's own stop is DONE in a round still at work (R146, R157). -/
theorem stopDone_liftTipped {v : Service} {r i : Nat} (hround : v.round = some r) (hstop : v.stop = some i)
    (hwork : (s.round r).state = .active ∨ (s.round r).state = .closing) : s.stopDone (s.liftTipped c v) r i := by
  have hplace : v.place = some (r, i) := by simp only [Service.place, hround, hstop]
  exact stopDone_congr (stopDone_completeStop c hwork) rfl rfl (by rw [rounds_liftTipped, hplace])

theorem noPlaceDone_liftTipped {v : Service} (hround : v.round = none) : s.noPlaceDone c (s.liftTipped c v) := by
  have hplace : v.place = none := by simp only [Service.place, hround]
  exact noPlaceDone_of_completeStop (by rw [rounds_liftTipped, hplace])

theorem stopReturned_liftUntipped {v : Service} (hv : (s.container c).inlet.service = some v) :
    s.stopReturned (s.liftUntipped c) c v := by
  refine stopReturned_congr (stopReturned_returnStop s c v) rfl rfl rfl ?rounds ?missed ?notice
  case rounds =>
    rw [liftUntipped_eq hv, rounds_closeLift]
    rfl
  case missed => rw [(container_liftUntipped hv).2]
  case notice =>
    rw [liftUntipped_eq hv]
    exact State.noticeClass_congr (classes_closeLift _ c) 18

theorem journal_liftUntipped {v : Service} (hv : (s.container c).inlet.service = some v) :
    (s.liftUntipped c).journal =
      { s.journal with reserved := s.journal.reserved - (if v.reserved then 1 else 0) } := by
  rw [liftUntipped_eq hv, journal_closeLift, journal_liftReturned]

theorem noPlaceDone_lateEnd (s : State) (c : Nat) : s.noPlaceDone c (s.lateEnd c true) := by
  have hrounds : (s.lateEnd c true).rounds = ((s.putBar c .liftOpen false).completeStop c none).rounds := by
    rw [lateEnd_tipped_eq, rounds_emptied, rounds_startSettling, rounds_lateWritten]
  exact noPlaceDone_congr (noPlaceDone_of_completeStop hrounds) rfl rfl

theorem journal_lateEnd (s : State) (c : Nat) :
    (s.lateEnd c true).journal = ((s.putBar c .liftOpen false).lateWritten c).journal := by
  rw [lateEnd_tipped_eq, journal_emptied, journal_startSettling]

theorem classes_lateEnd (s : State) (c : Nat) :
    (s.lateEnd c true).classes = ((s.putBar c .liftOpen false).lateWritten c).classes := by
  rw [lateEnd_tipped_eq, classes_emptied, classes_startSettling]

theorem liftEntry_putBar (s : State) (c : Nat) (r : BarReason) (v : Bool) (crew : Option Nat) :
    (s.putBar c r v).liftEntry c crew = s.liftEntry c crew := by
  unfold State.liftEntry State.liftRecord
  rw [container_putBar, if_pos rfl]
  rfl

/-- The record of a late end, where there is room (R160). -/
theorem journal_lateEnd_of_room (h : s.journal.places < 1024) : (s.lateEnd c true).journal =
    { s.journal with
      records := s.journal.records ++ [s.liftEntry c none], serial := (s.journal.serial + 1) % 65536 } := by
  have hroom : (s.putBar c .liftOpen false).journal.places < 1024 := h
  rw [journal_lateEnd, journal_lateWritten_of_room hroom, liftEntry_putBar, journal_putBar]

theorem full_lateEnd_of_room (h : s.journal.places < 1024) : (s.lateEnd c true).noticeClass 22 = s.noticeClass 22 := by
  have hroom : (s.putBar c .liftOpen false).journal.places < 1024 := h
  rw [State.noticeClass_congr (classes_lateEnd s c), full_lateWritten_of_room hroom, noticeClass_putBar]

theorem journal_lateEnd_of_full (h : 1024 ≤ s.journal.places) : (s.lateEnd c true).journal = s.journal := by
  have hfull : 1024 ≤ (s.putBar c .liftOpen false).journal.places := h
  rw [journal_lateEnd, journal_lateWritten_of_full hfull, journal_putBar]

theorem told_lateEnd_of_full (h : 1024 ≤ s.journal.places) : (s.lateEnd c true).told 22 (some 1024) c := by
  have hfull : 1024 ≤ (s.putBar c .liftOpen false).journal.places := h
  exact told_congr (told_lateWritten_of_full hfull) (classes_lateEnd s c)

theorem lateEnd_untipped_touches (s : State) (c : Nat) : ∃ ks, s.lateEnd c false = { s with containers := ks } := by
  obtain ⟨_, hbar⟩ := putBar_touches s c .liftOpen false
  rw [lateEnd_untipped_eq, hbar]
  exact startSettling_touches _ c

theorem line_lateEnd (s : State) (c : Nat) (tipped : Bool) (l : Line) : (s.lateEnd c tipped).line l = s.line l := by
  cases tipped with
  | false => rw [lateEnd_untipped_eq, line_startSettling, line_putBar]
  | true =>
    obtain ⟨_, _, _, _, hwritten⟩ := lateWritten_touches (s.putBar c .liftOpen false) c
    rw [lateEnd_tipped_eq, line_emptied, line_startSettling, hwritten]
    cases l <;> rfl

end

theorem liftEnded_onlyEnds (s : State) (station c : Nat) (tipped : Bool) :
    s.onlyEnds (s.liftEnded station c tipped) := by
  obtain h | ⟨v, hv, h⟩ | h := liftEnded_cases s station c tipped
  · rw [h]
    rfl
  · rw [h]
    split
    · exact liftTipped_onlyEnds s c v
    · exact liftUntipped_onlyEnds hv
  · rw [h]
    exact lateEnd_onlyEnds s c tipped

theorem container_liftEnded_other (s : State) (station : Nat) (tipped : Bool) {c d : Nat} (hd : d ≠ c) :
    (s.liftEnded station c tipped).container d = s.container d := by
  obtain h | ⟨v, hv, h⟩ | h := liftEnded_cases s station c tipped
  · rw [h]
  · rw [h]
    split
    · rw [container_liftTipped, if_neg hd]
    · exact (container_liftUntipped hv).1 d hd
  · rw [h]
    cases tipped with
    | false => rw [container_lateEnd_untipped, if_neg hd]
    | true => rw [container_lateEnd_tipped, if_neg hd]

/-! ### The statement -/

/-- Settles O46: each case of a LIFT_BEGUN and of a LIFT_ENDED is one operation (`liftBegun_of_unplanned`,
`liftEnded_cases`), read clause by clause. -/
theorem liftBeginsInService : Obligations.LiftBeginsInService := by
  intro s station c k gone record emptied doneNoPlace
  have hgone : s.discardsLift station c = true ↔ gone := discardsLift_iff s station c
  have hacted : ¬gone → s.discardsLift station c = false := fun h => Bool.eq_false_iff.mpr fun hd => h (hgone.mp hd)
  refine ⟨fun h => liftBegun_of_discarded (hgone.mpr h), liftBegun_of_lifting, fun v hin hstate hv => ?authorized,
    fun grant hin hfound => ?unplanned, fun tipped => ⟨?away, ?others, ?discarded, fun v hin hstate hv => ?ended,
      fun hin hlate => ?late⟩⟩
  case authorized =>
    rw [liftBegun_of_service (hacted hin) hstate hv]
    exact ⟨rfl, fun d hd => by rw [container_authorizedLift hstate, if_neg hd],
      by rw [container_authorizedLift hstate, if_pos rfl]⟩
  case unplanned =>
    intro u kept room
    have hu : u = (s.cutFor c grant).unplannedLift c := liftBegun_of_unplanned (hacted hin) hfound
    clear_value u
    subst hu
    have hjournal : (s.cutFor c grant).journal = { s.journal with reserved := kept } := journal_cutFor hfound
    have hroom : (s.cutFor c grant).hasLiftRoom = room := by
      unfold State.hasLiftRoom
      rw [hjournal]
      rfl
    refine ⟨unplannedLift_cutFor_frame s c grant, fun d hd => ?apart, ?container, ?held, ?households, ?journal,
      told_unplannedLift _ c, fun hsome => ?asked, ?lines, fun hfull => told_full_unplannedLift c (hroom.trans hfull),
      fun hfree => (full_unplannedLift_of_room c (hroom.trans hfree)).trans (noticeClass_cutFor s c grant 22)⟩
    case apart => rw [container_unplannedLift, if_neg hd, container_cutFor, if_neg hd]
    case container =>
      rw [container_unplannedLift, if_pos rfl, container_cutFor, if_pos rfl, hroom]
      rfl
    case held =>
      rintro g rfl
      obtain ⟨-, -, hg⟩ | ⟨-, hnone⟩ := hfound
      · exact grantGone_congr (grantGone_cutFor hg) (households_unplannedLift _ c)
      · cases hnone
    case households =>
      rintro rfl
      exact households_unplannedLift s c
    case journal => rw [journal_unplannedLift, hroom, hjournal]
    case asked => exact turnAsked_congr (turnAsked_cutFor hsome) rfl (fun _ => rfl) (line_unplannedLift _ c)
    case lines =>
      rintro rfl
      exact ⟨line_unplannedLift s c .a, line_unplannedLift s c .b⟩
  case away => exact liftEnded_onlyEnds s station c tipped
  case others => exact fun d hd => container_liftEnded_other s station tipped hd
  case discarded =>
    rintro (h | h)
    · exact liftEnded_of_discarded tipped (hgone.mpr h)
    · obtain ⟨hlifting, hlate⟩ := not_or.mp h
      exact liftEnded_of_other tipped hlifting hlate
  case ended =>
    rw [liftEnded_of_lifting tipped (hacted hin) hstate hv]
    cases tipped with
    | true =>
      have hk := container_liftTipped s c v c
      rw [if_pos rfl] at hk
      rw [if_pos rfl, hk, journal_liftTipped]
      exact ⟨rfl, rfl, turnAsked_liftTipped s c v, fun _ => ⟨rfl, rfl, rfl, journal_liftWritten_of_reserved,
        journal_liftWritten_of_unreserved, fun r i => stopDone_liftTipped, noPlaceDone_liftTipped⟩, fun h => by cases h⟩
    | false =>
      obtain ⟨-, hk⟩ := container_liftUntipped hv
      rw [if_neg (by decide), hk]
      exact ⟨rfl, rfl, turnAsked_liftUntipped hv, fun h => (by cases h), fun _ =>
        ⟨rfl, rfl, stopReturned_liftUntipped hv, journal_liftUntipped hv⟩⟩
  case late =>
    obtain ⟨hbarred, hopen⟩ := hlate
    rw [liftEnded_of_late tipped (hacted hin) hbarred hopen]
    cases tipped with
    | true =>
      have hk := container_lateEnd_tipped s c c
      rw [if_pos rfl] at hk
      rw [hk]
      exact ⟨rfl, rfl, line_lateEnd s c true .a, line_lateEnd s c true .b, fun _ => ⟨rfl, rfl, rfl,
        noPlaceDone_lateEnd s c, fun hroom => ⟨full_lateEnd_of_room hroom, journal_lateEnd_of_room hroom⟩,
        fun hfull => ⟨told_lateEnd_of_full hfull, journal_lateEnd_of_full hfull⟩⟩, fun h => by cases h⟩
    | false =>
      have hk := container_lateEnd_untipped s c c
      obtain ⟨_, hkept⟩ := lateEnd_untipped_touches s c
      rw [if_pos rfl] at hk
      rw [hk]
      exact ⟨rfl, rfl, line_lateEnd s c false .a, line_lateEnd s c false .b, fun h => (by cases h), fun _ =>
        ⟨rfl, rfl, rfl, by rw [hkept], by rw [hkept], by rw [hkept]⟩⟩

end Sys2Proof.Machine
end

section
/-! PROOFS. What every step keeps of the queue of commands and of the queues of the part, and the statements on them
(R11, R29, R177, 1.6). -/

namespace Sys2Proof.Machine

/-! ### From the commands to the steps -/

/-- What every command makes of a property that does not look at the queue of commands, every step makes of it. -/
theorem after_of_exec {P Q : State → Prop} (hexec : ∀ s, P s → ∀ c, ∃ t, exec c s = .next t ∧ Q t)
    (hweaken : ∀ s, P s → Q s) (hqueue : ∀ s q, P s → P { s with pending := q }) {s t : State} (hs : P s)
    (hstep : step s = .next t) : Q t := by
  unfold step at hstep
  split at hstep
  · cases hstep; exact hweaken s hs
  next c rest hpending =>
    obtain ⟨u, hu, hQu⟩ := hexec _ (hqueue s rest hs) c
    rw [hu] at hstep
    cases hstep
    exact hQu

theorem after_of_steps {P Q : State → Prop} (h : Steps P Q) (hqueue : ∀ s q, P s → P { s with pending := q })
    {s t : State} (hs : P s) (hstep : step s = .next t) : Q t :=
  after_of_exec (fun _ hu c => h.exec hu c) h.weaken hqueue hs hstep

/-! ### The queue of commands -/

@[simp] theorem pending_setStatus (s : State) (c : Nat) (st : FillStatus) (n : Nat) :
    (s.setStatus c st n).pending = s.pending := by
  rw [setStatus_form]; rfl

@[simp] theorem pending_abandonSave (s : State) : s.abandonSave.pending = s.pending := by
  unfold State.abandonSave; split <;> rfl

theorem small_pending (q : List Instr) : Small (fun t => t.pending = q) where
  fillOnly := fun _ _ _ _ _ _ h => h
  setStatus := fun s c st n h => (pending_setStatus s c st n).trans h
  setForced := fun _ _ _ h => h
  setMissed := fun _ _ h => h
  clearMarks := fun _ _ h => h
  station := fun _ _ _ _ h => h
  card := fun _ _ _ _ h => h
  household := fun _ _ _ _ h => h
  round := fun _ _ _ _ h => h
  appendStop := fun _ _ _ _ _ _ h => h
  rounds := fun _ _ _ _ h => h
  planner := fun _ _ _ h => h
  watch := fun _ _ _ h => h
  line := fun s l f _ h => (s.updLine_pending l f).trans h
  journal := fun _ _ h => h
  raise := fun s n a v h => (s.raise_pending n a v).trans h
  toCenter := fun _ _ _ _ h => h
  takeParked := fun _ _ _ _ h => h
  containers := fun _ _ _ _ _ h => h
  container := fun _ _ _ _ _ h => h

theorem writes_pending (q : List Instr) : Writes (fun t => t.pending = q) where
  toSmall := small_pending q
  relay := fun s _ _ _ h => (s.updLine_pending _ _).trans h
  params := fun _ _ _ _ h => h
  stationCfg := fun _ _ _ _ h => h
  cardCfg := fun _ _ _ _ h => h
  householdCfg := fun _ _ _ _ h => h
  writeRound := fun _ _ _ _ _ h => h
  draft := fun _ _ _ _ _ _ _ h => h
  banks := fun _ _ _ _ h => h
  fractions := fun _ _ _ _ h => h
  shapes := fun _ _ _ _ h => h
  priority := fun _ _ _ _ h => h
  clearFlags := fun _ _ h => h
  clock := fun _ _ h => h
  part := fun _ _ h => h
  abandonSave := fun s h => (pending_abandonSave s).trans h
  writeContainer := fun _ c p _ h => (small_pending q).writeContainer h (fun _ _ _ h => h) (fun _ _ h => h) c p

@[simp] theorem pending_enterLoading (s : State) (kind : StartKind) (cause : StartCause) (levels : StartLevels) :
    (s.enterLoading kind cause levels).pending = s.pending := by
  unfold State.enterLoading
  dsimp only
  rw [← pending_abandonSave s]
  split_ifs <;> rfl

theorem steps_pending (q : List Instr) : Steps (fun t => t.pending = q) (fun t => t.pending = q) where
  toWrites := writes_pending q
  weaken := fun _ h => h
  receive := fun s f h => by unfold State.bufferFrame; split <;> exact h
  transmit := fun _ h => h
  transmitted := fun _ h => h
  handled := fun _ _ _ _ _ _ hbody h => hbody _ (writes_pending q) _ h
  power := fun _ _ h => h
  stop := fun s h => (pending_abandonSave s).trans h
  loading := fun s kind cause levels h => (pending_enterLoading s kind cause levels).trans h
  startValues := fun _ h => h
  saved := fun _ h => h
  failed := fun _ h => h

/-! ### The queues -/

/-- The queues within their bounds, the replies within a bound of their own. -/
def State.queuesWithin (s : State) (replies : Nat) : Prop :=
  s.link.rx.length ≤ 4 ∧ s.link.replies.length ≤ replies ∧ s.link.notices.length ≤ 16 ∧ (∀ l, (s.line l).relay.length ≤ 8) ∧
    s.centerPlaces ≤ 8

theorem State.queuesBounded_iff (s : State) : s.queuesBounded = true ↔ s.queuesWithin 4 := by
  have hlines : (∀ l, (s.line l).relay.length ≤ 8) ↔ s.lineA.relay.length ≤ 8 ∧ s.lineB.relay.length ≤ 8 :=
    ⟨fun h => ⟨h .a, h .b⟩, fun h l => by cases l; exacts [h.1, h.2]⟩
  simp only [State.queuesBounded, State.queuesWithin, hlines, Bool.and_eq_true, decide_eq_true_eq]
  tauto

section
variable {s : State} {n : Nat}

theorem State.queuesWithin_updLine (h : s.queuesWithin n) (l : Line) (f : LineState → LineState)
    (hf : (f (s.line l)).relay.length ≤ 8) : (s.updLine l f).queuesWithin n := by
  obtain ⟨hrx, hreplies, hnotices, hlines, hcenter⟩ := h
  refine ⟨by simpa using hrx, by simpa using hreplies, by simpa using hnotices, fun m => ?_, ?_⟩
  · rw [State.line_updLine]
    split
    next hm => subst hm; exact hf
    · exact hlines m
  · simpa [State.centerPlaces] using hcenter

theorem State.queuesWithin_raise (h : s.queuesWithin n) (k : Notice) (a : Option Nat) (v : Nat) :
    (s.raise k a v).queuesWithin n := by
  obtain ⟨hrx, hreplies, hnotices, hlines, hcenter⟩ := h
  rw [State.raise_form]
  refine ⟨hrx, hreplies, ?_, hlines, hcenter⟩
  show (s.link.notices ++ s.framesOfRaise k _).length ≤ 16
  by_cases hroom : 1 ≤ (s.noticeClass k.number).priority ∧ s.link.notices.length < 16
  · rw [State.framesOfRaise_single hroom.1 hroom.2, List.length_append, List.length_singleton]
    omega
  · rw [State.framesOfRaise_nil (by omega), List.append_nil]
    exact hnotices

theorem State.queuesWithin_updWatch (h : s.queuesWithin n) (f : Watch → Watch)
    (hf : (f s.watch).keptPlaces ≤ s.watch.keptPlaces ∨ s.centerPlaces < 8) : (s.updWatch f).queuesWithin n := by
  obtain ⟨hrx, hreplies, hnotices, hlines, hcenter⟩ := h
  refine ⟨hrx, hreplies, hnotices, hlines, ?_⟩
  show s.link.toCenter.length + (f s.watch).keptPlaces ≤ 8
  have hone : (f s.watch).keptPlaces ≤ 1 := by unfold Watch.keptPlaces; split <;> omega
  unfold State.centerPlaces at *
  omega

/-- A frame to the center takes one place (R11). -/
theorem State.queuesWithin_relayMaint (h : s.queuesWithin n) (hroom : s.centerPlaces < 8) (i : Nat) (f : Frame) :
    (s.relayMaint i f).queuesWithin n := by
  obtain ⟨hrx, hreplies, hnotices, hlines, -⟩ := h
  refine ⟨hrx, hreplies, hnotices, hlines, ?_⟩
  show (s.link.toCenter ++ _).length + s.watch.keptPlaces ≤ 8
  unfold State.centerPlaces at hroom
  rw [List.length_append, List.length_singleton]
  omega

/-- A parked STATION_MAINT gives its kept place up for the one it takes (R11). -/
theorem State.queuesWithin_takeParked (h : s.queuesWithin n) {p : Parked} (hp : s.watch.parked = some p)
    (hkeeps : p.keepsPlace = true) :
    ((s.updWatch (fun w => { w with parked := none })).relayMaint p.station p.frame).queuesWithin n := by
  have hkept : s.watch.keptPlaces = 1 := by simp [Watch.keptPlaces, hp, hkeeps]
  have hnone : (s.updWatch (fun w => { w with parked := none })).centerPlaces = s.link.toCenter.length := rfl
  have hcenter : s.centerPlaces ≤ 8 := h.2.2.2.2
  unfold State.centerPlaces at hcenter
  exact State.queuesWithin_relayMaint (State.queuesWithin_updWatch h _ (Or.inl (Nat.zero_le _)))
    (by rw [hnone]; omega) p.station p.frame

end

theorem State.queuesWithin_setStatus {s : State} {n : Nat} (h : s.queuesWithin n) (c : Nat) (st : FillStatus) (k : Nat) :
    (s.setStatus c st k).queuesWithin n := by
  rw [setStatus_form]; exact h

@[simp] theorem queues_abandonSave {s : State} {n : Nat} (h : s.queuesWithin n) : s.abandonSave.queuesWithin n := by
  unfold State.abandonSave; split <;> exact h

theorem small_queuesWithin (n : Nat) : Small (fun t => t.queuesWithin n) where
  fillOnly := fun _ _ _ _ _ _ h => h
  setStatus := fun _ c st k h => State.queuesWithin_setStatus h c st k
  setForced := fun _ _ _ h => h
  setMissed := fun _ _ h => h
  clearMarks := fun _ _ h => h
  station := fun _ _ _ _ h => h
  card := fun _ _ _ _ h => h
  household := fun _ _ _ _ h => h
  round := fun _ _ _ _ h => h
  appendStop := fun _ _ _ _ _ _ h => h
  rounds := fun _ _ _ _ h => h
  planner := fun _ _ _ h => h
  watch := fun _ f hf h => State.queuesWithin_updWatch h f hf
  line := fun _ l f hf h => State.queuesWithin_updLine h l f ((hf _).trans (h.2.2.2.1 l))
  journal := fun _ _ h => h
  raise := fun _ k a v h => State.queuesWithin_raise h k a v
  toCenter := fun _ i f hroom h => State.queuesWithin_relayMaint h hroom i f
  takeParked := fun _ _ hp hkeeps h => State.queuesWithin_takeParked h hp hkeeps
  containers := fun _ _ _ _ _ h => h
  container := fun _ _ _ _ _ h => h

theorem writes_queuesWithin (n : Nat) : Writes (fun t => t.queuesWithin n) where
  toSmall := small_queuesWithin n
  relay := fun _ _ _ hroom h => State.queuesWithin_updLine h _ _ (by
    rw [List.length_append, List.length_singleton]; exact hroom)
  params := fun _ _ _ _ h => h
  stationCfg := fun _ _ _ _ h => h
  cardCfg := fun _ _ _ _ h => h
  householdCfg := fun _ _ _ _ h => h
  writeRound := fun _ _ _ _ _ h => h
  draft := fun _ _ _ _ _ _ _ h => h
  banks := fun _ _ _ _ h => h
  fractions := fun _ _ _ _ h => h
  shapes := fun _ _ _ _ h => h
  priority := fun _ _ _ _ h => h
  clearFlags := fun _ _ h => h
  clock := fun _ _ h => h
  part := fun _ _ h => h
  abandonSave := fun _ h => queues_abandonSave h
  writeContainer := fun _ c p _ h => (small_queuesWithin n).writeContainer h (fun _ _ _ h => h) (fun _ _ h => h) c p

theorem State.queuesWithin_bufferFrame {s : State} {n : Nat} (h : s.queuesWithin n) (f : Frame) :
    (s.bufferFrame f).queuesWithin n := by
  unfold State.bufferFrame
  split
  next hroom =>
    obtain ⟨hrx, hreplies, hnotices, hlines, hcenter⟩ := h
    refine ⟨?_, hreplies, hnotices, hlines, hcenter⟩
    show (s.link.rx ++ [f]).length ≤ 4
    rw [List.length_append, List.length_singleton]
    exact hroom.2
  · exact h

/-- Offering a notice takes it out of the notice queue (R31). -/
theorem length_of_offerNotice {l : List NoticeFrame} {n : NoticeFrame} {rest : List NoticeFrame}
    (h : offerNotice l = some (n, rest)) : l.length = rest.length + 1 := by
  induction l generalizing n rest with
  | nil => simp [offerNotice] at h
  | cons a l ih =>
    simp only [offerNotice] at h
    split at h
    · obtain ⟨-, rfl⟩ := Prod.mk.inj (Option.some.inj h); rfl
    next m others hm =>
      split at h
      · obtain ⟨-, rfl⟩ := Prod.mk.inj (Option.some.inj h)
        simp [ih hm]
      · obtain ⟨-, rfl⟩ := Prod.mk.inj (Option.some.inj h); rfl

/-- A transmission takes at most one frame from one queue (R181). -/
theorem State.queuesWithin_begin {s : State} {n : Nat} (h : s.queuesWithin n) : (s.updLink Endpoint.begin).queuesWithin n := by
  obtain ⟨hrx, hreplies, hnotices, hlines, hcenter⟩ := h
  unfold State.centerPlaces at hcenter
  have hbegin : s.link.begin.rx.length ≤ 4 ∧ s.link.begin.replies.length ≤ n ∧ s.link.begin.notices.length ≤ 16 ∧
      s.link.begin.toCenter.length ≤ s.link.toCenter.length := by
    unfold Endpoint.begin
    split
    next f rest hq => rw [hq, List.length_cons] at hreplies; exact ⟨hrx, by dsimp only; omega, hnotices, le_refl _⟩
    next hq =>
      have hnil : ([] : List Frame).length ≤ n := Nat.zero_le n
      split
      next m rest hm =>
        have hlength := length_of_offerNotice hm
        exact ⟨hrx, by dsimp only; omega, by dsimp only; omega, le_refl _⟩
      next =>
        split
        next f rest hc => exact ⟨hrx, by dsimp only; omega, hnotices, by rw [hc]; simp⟩
        next => exact ⟨hrx, hreplies, hnotices, le_refl _⟩
  obtain ⟨hrx', hreplies', hnotices', hcenter'⟩ := hbegin
  exact ⟨hrx', hreplies', hnotices', hlines, by show s.link.begin.toCenter.length + s.watch.keptPlaces ≤ 8; omega⟩

theorem State.queuesWithin_enterLoading (s : State) (n : Nat) (kind : StartKind) (cause : StartCause)
    (levels : StartLevels) : (s.enterLoading kind cause levels).queuesWithin n :=
  ⟨Nat.zero_le _, Nat.zero_le _, Nat.zero_le _, fun l => by cases l <;> exact Nat.zero_le _, Nat.zero_le _⟩

theorem steps_queuesWithin : Steps (fun t => t.queuesWithin 4) (fun t => t.queuesWithin 4) where
  toWrites := writes_queuesWithin 4
  weaken := fun _ h => h
  receive := fun _ f h => State.queuesWithin_bufferFrame h f
  transmit := fun _ h => State.queuesWithin_begin h
  transmitted := fun _ h => h
  handled := fun s f rest body hrx hroom hbody h => by
    obtain ⟨hrx4, hreplies, hnotices, hlines, hcenter⟩ := h
    rw [hrx, List.length_cons] at hrx4
    obtain ⟨h1, h2, h3, h4, h5⟩ := hbody _ (writes_queuesWithin 3) (s.updLink (fun e => { e with rx := rest }))
      ⟨by show rest.length ≤ 4; omega, by show s.link.replies.length ≤ 3; omega, hnotices, hlines, hcenter⟩
    refine ⟨h1, ?_, h3, h4, h5⟩
    show (List.append _ [_]).length ≤ 4
    rw [List.append_eq, List.length_append, List.length_singleton]
    omega
  power := fun _ _ h => h
  stop := fun s h => by
    obtain ⟨hrx, hreplies, hnotices, hlines, hcenter⟩ := queues_abandonSave h
    exact ⟨hrx, hreplies, hnotices, fun l => by cases l; exacts [hlines .a, hlines .b], hcenter⟩
  loading := fun s kind cause levels _ => s.queuesWithin_enterLoading 4 kind cause levels
  startValues := fun s h => by
    obtain ⟨hrx, hreplies, hnotices, -, hcenter⟩ := h
    refine ⟨hrx, hreplies, hnotices, fun l => by cases l <;> exact Nat.zero_le _, ?_⟩
    unfold State.centerPlaces at hcenter
    exact Nat.le_trans (Nat.le_add_right _ _) hcenter
  saved := fun _ h => h
  failed := fun _ h => h

/-! ### The statements -/

/-- Settles O1: `step` reads the queue's front. -/
theorem stepRunsTheFrontCommand : Obligations.StepRunsTheFrontCommand := by
  intro s c rest hpending
  unfold step
  rw [hpending]

/-- Settles O2: no command touches the queue of commands (`steps_pending`). -/
theorem everyCommandCompletes : Obligations.EveryCommandCompletes :=
  fun c s => (steps_pending s.pending).exec rfl c

/-- Settles O5: every command keeps the bounds (`steps_queuesWithin`). -/
theorem queuesStayBounded : Obligations.QueuesStayBounded := by
  intro s t hs hstep
  rw [State.queuesBounded_iff] at hs ⊢
  exact after_of_steps steps_queuesWithin (fun _ _ h => h) hs hstep

end Sys2Proof.Machine
end

section
/-! PROOFS. The tables and the image area keep their canonical form at every step, and the statement on it (11.3, 11.4). -/

namespace Sys2Proof.Machine

/-- Every table and the image area are in their canonical form, table by table. -/
structure State.Canonical (s : State) : Prop where
  classes : s.classes.wf NoticeClass.blank = true
  stations : s.stations.wf Station.blank = true
  banks : s.banks.wf Bank.blank = true
  fractions : s.fractions.wf FractionRec.blank = true
  shapes : s.shapes.wf Shape.blank = true
  containers : s.containers.wf Container.blank = true
  cards : s.cards.wf Card.blank = true
  households : s.households.wf Household.blank = true
  rounds : s.rounds.wf Round.blank = true
  flash : Memory.wf s.flash = true

theorem State.canonical_iff (s : State) : s.canonical = true ↔ s.Canonical := by
  simp only [State.canonical, Bool.and_eq_true]
  constructor
  · rintro ⟨⟨⟨⟨⟨⟨⟨⟨⟨h1, h2⟩, h3⟩, h4⟩, h5⟩, h6⟩, h7⟩, h8⟩, h9⟩, h10⟩
    exact ⟨h1, h2, h3, h4, h5, h6, h7, h8, h9, h10⟩
  · rintro ⟨h1, h2, h3, h4, h5, h6, h7, h8, h9, h10⟩
    exact ⟨⟨⟨⟨⟨⟨⟨⟨⟨h1, h2⟩, h3⟩, h4⟩, h5⟩, h6⟩, h7⟩, h8⟩, h9⟩, h10⟩

section
variable {s : State} (h : s.Canonical)
include h

theorem State.Canonical.updContainer (c : Nat) (f : Container → Container) : (s.updContainer c f).Canonical :=
  { h with containers := Tab.wf_set h.containers }

theorem State.Canonical.updRound (r : Nat) (f : Round → Round) : (s.updRound r f).Canonical :=
  { h with rounds := Tab.wf_set h.rounds }

theorem State.Canonical.updLine (l : Line) (f : LineState → LineState) : (s.updLine l f).Canonical := by
  cases l <;> exact { h with }

theorem State.Canonical.updLink (f : Endpoint → Endpoint) : (s.updLink f).Canonical := { h with }

theorem State.Canonical.rederive (c : Nat) : (s.rederive c).Canonical := { h with }

theorem State.Canonical.raise (n : Notice) (a : Option Nat) (v : Nat) : (s.raise n a v).Canonical := by
  rw [raise_form]
  exact { h with classes := Tab.wf_set h.classes }

theorem State.Canonical.setStatus (c : Nat) (st : FillStatus) (n : Nat) : (s.setStatus c st n).Canonical := by
  rw [setStatus_form]
  exact { h with containers := Tab.wf_set h.containers }

theorem State.Canonical.loadDefaults : s.loadDefaults.Canonical :=
  { h with
    classes := rfl, stations := rfl, banks := rfl, fractions := rfl, shapes := rfl, containers := rfl, cards := rfl
    rounds := rfl, households := Tab.wf_map h.households }

theorem State.Canonical.loadImage : s.loadImage.Canonical :=
  { h with
    classes := Tab.wf_ofFn, stations := Tab.wf_ofFn, banks := Tab.wf_ofFn, fractions := Tab.wf_ofFn
    shapes := Tab.wf_ofFn, containers := Tab.wf_ofFn, cards := Tab.wf_ofFn, households := Tab.wf_ofFn
    rounds := Tab.wf_ofFn }

theorem State.Canonical.initRetained : s.initRetained.Canonical := { h with households := rfl }

theorem State.Canonical.startValues : s.startValues.Canonical :=
  { h with
    classes := Tab.wf_map h.classes, stations := Tab.wf_ofFn, containers := Tab.wf_ofFn, cards := Tab.wf_map h.cards
    households := Tab.wf_map h.households, rounds := Tab.wf_ofFn }

theorem State.Canonical.abandonSave : s.abandonSave.Canonical := by
  by_cases hsaving : s.part.saving = true
  · rw [State.abandonSave, if_pos hsaving]
    exact { h with flash := Memory.wf_ofBytes _ }
  · rw [State.abandonSave, if_neg hsaving]
    exact h

end

/-- The configuration that a start loads: a VALID image's, or the defaults (R188). -/
def State.loadedFor (s : State) (kind : StartKind) (found : ImageState) : State :=
  let s2 := if kind = .cold then s.abandonSave.initRetained else s.abandonSave
  if found = .valid then s2.loadImage else s2.loadDefaults

/-- What a start judges the image area to hold (R188, R191). -/
def State.foundAt (s : State) (cause : StartCause) (levels : StartLevels) : ImageState :=
  if cause = .tablesClear then .blank else judge levels.flashResponds s.abandonSave.flash

/-- Entering LOADING: the loaded configuration with its start values, the stations UNKNOWN, an idle endpoint, and the
part's own fields (R187 to R189). -/
theorem enterLoading_eq (s : State) (kind : StartKind) (cause : StartCause) (levels : StartLevels) :
    s.enterLoading kind cause levels =
      { (s.loadedFor kind (s.foundAt cause levels)).startValues.stationsUnknown with
        power := { (s.loadedFor kind (s.foundAt cause levels)).power with backup := levels.backupPresent }
        part := { phase := .loading, kind := kind, cause := cause, image := s.foundAt cause levels
                  strap := levels.strapInForce, openMode := false, requested := none, saving := false }
        clock := { (s.loadedFor kind (s.foundAt cause levels)).clock with pending := none }
        link := Endpoint.empty } := rfl

theorem State.Canonical.loadedFor {s : State} (h : s.Canonical) (kind : StartKind) (found : ImageState) :
    (s.loadedFor kind found).Canonical := by
  have hretained : (if kind = .cold then s.abandonSave.initRetained else s.abandonSave).Canonical := by
    split
    · exact h.abandonSave.initRetained
    · exact h.abandonSave
  unfold State.loadedFor
  dsimp only
  split
  · exact hretained.loadImage
  · exact hretained.loadDefaults

theorem State.Canonical.enterLoading {s : State} (h : s.Canonical) (kind : StartKind) (cause : StartCause)
    (levels : StartLevels) : (s.enterLoading kind cause levels).Canonical := by
  rw [enterLoading_eq]
  exact { (h.loadedFor kind _).startValues with stations := Tab.wf_ofFn }

theorem small_canonical : Small State.Canonical where
  fillOnly := fun _ c f _ _ _ h => h.updContainer c f
  setStatus := fun _ c st n h => h.setStatus c st n
  setForced := fun _ _ _ h => { h with containers := Tab.wf_set h.containers }
  setMissed := fun _ _ h => { h with containers := Tab.wf_set h.containers }
  clearMarks := fun _ _ h => { h with containers := Tab.wf_set h.containers }
  station := fun _ _ _ _ h => { h with stations := Tab.wf_set h.stations }
  card := fun _ _ _ _ h => { h with cards := Tab.wf_set h.cards }
  household := fun _ _ _ _ h => { h with households := Tab.wf_set h.households }
  round := fun _ r f _ h => h.updRound r f
  appendStop := fun _ _ _ r _ _ h => h.updRound r _
  rounds := fun _ _ _ _ h => { h with rounds := Tab.wf_map h.rounds }
  planner := fun _ _ _ h => { h with }
  watch := fun _ _ _ h => { h with }
  line := fun _ l f _ h => h.updLine l f
  journal := fun _ _ h => { h with }
  raise := fun _ n a v h => h.raise n a v
  toCenter := fun _ _ _ _ h => { h with }
  takeParked := fun _ _ _ _ h => { h with }
  containers := fun _ _ _ _ _ h => { h with containers := Tab.wf_map h.containers }
  container := fun _ c f _ _ h => h.updContainer c f

theorem writes_canonical : Writes State.Canonical where
  toSmall := small_canonical
  relay := fun _ _ _ _ h => h.updLine _ _
  params := fun _ _ _ _ h => { h with }
  stationCfg := fun _ _ _ _ h => { h with stations := Tab.wf_set h.stations }
  cardCfg := fun _ _ _ _ h => { h with cards := Tab.wf_set h.cards }
  householdCfg := fun _ _ _ _ h => { h with households := Tab.wf_set h.households }
  writeRound := fun _ r _ _ _ h => h.updRound r _
  draft := fun _ r _ _ _ _ _ h => h.updRound r _
  banks := fun _ _ _ _ h => { h with banks := Tab.wf_set h.banks }
  fractions := fun _ _ _ _ h => { h with fractions := Tab.wf_set h.fractions }
  shapes := fun _ _ _ _ h => { h with shapes := Tab.wf_set h.shapes }
  priority := fun _ _ _ _ h => { h with classes := Tab.wf_set h.classes }
  clearFlags := fun _ _ h => { h with classes := Tab.wf_map h.classes }
  clock := fun _ _ h => { h with }
  part := fun _ _ h => { h with }
  abandonSave := fun _ h => h.abandonSave
  writeContainer := fun _ c p _ h =>
    small_canonical.writeContainer h (fun _ d f h => h.updContainer d f) (fun _ _ h => { h with }) c p

theorem steps_canonical : Steps State.Canonical State.Canonical where
  toWrites := writes_canonical
  weaken := fun _ h => h
  receive := fun s f h => by unfold State.bufferFrame; split; exacts [{ h with }, h]
  transmit := fun _ h => { h with }
  transmitted := fun _ h => { h with }
  handled := fun _ _ rest _ _ _ hbody h =>
    { hbody _ writes_canonical _ (h.updLink (fun e => { e with rx := rest })) with }
  power := fun _ _ h => { h with }
  stop := fun _ h => { h.abandonSave with }
  loading := fun _ kind cause levels h => h.enterLoading kind cause levels
  startValues := fun _ h => h.startValues
  saved := fun s h => { h with flash := wf_flash_finishSave s }
  failed := fun s h => { h with flash := wf_flash_failSave s }

/-- Settles O6: every command keeps the canonical form (`steps_canonical`). -/
theorem canonicalFormsKept : Obligations.CanonicalFormsKept := by
  intro s t hs hstep
  rw [State.canonical_iff] at hs ⊢
  exact after_of_steps steps_canonical (fun _ _ h => { h with }) hs hstep

end Sys2Proof.Machine
end

section
/-! PROOFS. The due list keeps its law at every step, and the statement on it (R129 to R131). -/

namespace Sys2Proof.Machine

/-- The law of the due list, but for the entries of some containers that an operation has yet to re-derive (R129). -/
def State.dueLawfulBut (s : State) (exempt : Nat → Prop) : Prop :=
  (∀ c cls, ¬exempt c → ((∃ e ∈ s.planner.due, e.container = c ∧ e.cls = cls) ↔ (s.container c).dueClass = some cls)) ∧
    (s.planner.due.map DueEntry.container).Nodup ∧ s.planner.due.Pairwise (fun a b => a.ahead b = true)

theorem State.dueLawful_iff (s : State) : s.dueLawful ↔ s.dueLawfulBut (fun _ => False) := by
  simp [State.dueLawful, State.dueLawfulBut]

section
variable {s t : State} {exempt : Nat → Prop}

/-- The law looks at the due list and at the due classes of the containers that are not exempt. -/
theorem State.dueLawfulBut_congr (h : s.dueLawfulBut exempt) (hdue : t.planner.due = s.planner.due)
    (hclass : ∀ d, ¬exempt d → (t.container d).dueClass = (s.container d).dueClass) : t.dueLawfulBut exempt := by
  obtain ⟨hmem, hnodup, hordered⟩ := h
  refine ⟨fun d cls hd => ?_, by rwa [hdue], by rwa [hdue]⟩
  rw [hdue, hclass d hd]
  exact hmem d cls hd

theorem State.dueLawfulBut_updContainer (h : s.dueLawfulBut exempt) (c : Nat) (f : Container → Container)
    (hf : ∀ k, (f k).dueClass = k.dueClass) : (s.updContainer c f).dueLawfulBut exempt :=
  State.dueLawfulBut_congr h rfl (fun d _ => by
    rw [State.container_updContainer]
    split
    next hd => rw [hd, hf]
    · rfl)

/-- A change of one container's record leaves it exempt until its entry is re-derived. -/
theorem State.dueLawfulBut_changed (h : s.dueLawfulBut exempt) (c : Nat) (f : Container → Container) :
    (s.updContainer c f).dueLawfulBut (fun d => exempt d ∨ d = c) := by
  obtain ⟨hmem, hnodup, hordered⟩ := h
  refine ⟨fun d cls hd => ?_, hnodup, hordered⟩
  rw [State.container_updContainer_other s f (fun hc => hd (Or.inr hc))]
  exact hmem d cls (fun hx => hd (Or.inl hx))

theorem State.dueLawfulBut_updContainer_exempt (h : s.dueLawfulBut exempt) {c : Nat} (hc : exempt c)
    (f : Container → Container) : (s.updContainer c f).dueLawfulBut exempt :=
  State.dueLawfulBut_congr h rfl (fun d hd => by
    rw [State.container_updContainer_other s f (by rintro rfl; exact hd hc)])

/-- Re-deriving a container's entry ends its exemption (R130). -/
theorem State.dueLawfulBut_rederive {c : Nat} (h : s.dueLawfulBut (fun d => exempt d ∨ d = c)) :
    (s.rederive c).dueLawfulBut exempt := by
  obtain ⟨hmem, hnodup, hordered⟩ := h
  refine ⟨fun d cls hd => ?_, rederiveDue_nodup hnodup, rederiveDue_ordered hordered⟩
  show (∃ e ∈ rederiveDue s.planner.due c (s.container c).dueClass s.now, e.container = d ∧ e.cls = cls) ↔ _
  rw [mem_rederiveDue]
  split
  next hdc => subst hdc; exact Iff.rfl
  next hdc => exact hmem d cls (by rintro (hx | hx); exacts [hd hx, hdc hx])

/-- A change of one container's record with its entry re-derived. -/
theorem State.dueLawfulBut_changed_rederive (h : s.dueLawfulBut exempt) (c : Nat) (f : Container → Container) :
    ((s.updContainer c f).rederive c).dueLawfulBut exempt :=
  State.dueLawfulBut_rederive (State.dueLawfulBut_changed h c f)

theorem State.dueLawfulBut_setStatus (h : s.dueLawfulBut exempt) (c : Nat) (st : FillStatus) (n : Nat) :
    (s.setStatus c st n).dueLawfulBut exempt := by
  unfold State.setStatus
  dsimp only
  split
  next hsame =>
    refine State.dueLawfulBut_congr h rfl (fun d _ => ?_)
    rw [State.container_updFill]
    split
    next hd => subst hd; exact Container.dueClass_congr rfl hsame.symm rfl rfl
    · rfl
  · exact State.dueLawfulBut_changed_rederive h c _

theorem State.dueLawfulBut_updLine (h : s.dueLawfulBut exempt) (l : Line) (f : LineState → LineState) :
    (s.updLine l f).dueLawfulBut exempt :=
  State.dueLawfulBut_congr h (by rw [State.updLine_planner]) (fun d _ => by rw [State.container_updLine])

theorem State.dueLawfulBut_raise (h : s.dueLawfulBut exempt) (n : Notice) (a : Option Nat) (v : Nat) :
    (s.raise n a v).dueLawfulBut exempt :=
  State.dueLawfulBut_congr h (by rw [State.raise_planner]) (fun d _ => by rw [State.container_raise])

theorem State.dueLawfulBut_abandonSave (h : s.dueLawfulBut exempt) : s.abandonSave.dueLawfulBut exempt := by
  unfold State.abandonSave; split <;> exact h

/-- A mapping of the records that keeps their due classes. -/
theorem State.dueLawfulBut_map (h : s.dueLawfulBut exempt) (hwf : s.containers.wf Container.blank = true)
    (f : Nat → Container → Container) (hblank : ∀ c, f c Container.blank = Container.blank)
    (hf : ∀ c k, (f c k).dueClass = k.dueClass) :
    State.dueLawfulBut { s with containers := Tab.map Container.blank f s.containers } exempt :=
  State.dueLawfulBut_congr h rfl (fun d _ => by
    show (Tab.get Container.blank (Tab.map Container.blank f s.containers) d).dueClass = _
    rw [Tab.get_map (hblank d) hwf, hf]
    rfl)

/-- An empty list is lawful where no container is a member. -/
theorem State.dueLawfulBut_nil (hdue : t.planner.due = []) (hclass : ∀ d, (t.container d).dueClass = none) :
    t.dueLawfulBut exempt := by
  refine ⟨fun d cls _ => ?_, by simp [hdue], by simp [hdue]⟩
  simp [hdue, hclass]

end

theorem small_dueLawful (exempt : Nat → Prop) : Small (fun t => t.Canonical ∧ t.dueLawfulBut exempt) where
  fillOnly := fun _ c f hf _ _ h => ⟨h.1.updContainer c f, State.dueLawfulBut_updContainer h.2 c f hf⟩
  setStatus := fun _ c st n h => ⟨h.1.setStatus c st n, State.dueLawfulBut_setStatus h.2 c st n⟩
  setForced := fun s c b h => ⟨small_canonical.setForced s c b h.1, State.dueLawfulBut_changed_rederive h.2 c _⟩
  setMissed := fun s c h => ⟨small_canonical.setMissed s c h.1, State.dueLawfulBut_changed_rederive h.2 c _⟩
  clearMarks := fun s c h => ⟨small_canonical.clearMarks s c h.1, State.dueLawfulBut_changed_rederive h.2 c _⟩
  station := fun s i f hf h => ⟨small_canonical.station s i f hf h.1, h.2⟩
  card := fun s i f hf h => ⟨small_canonical.card s i f hf h.1, h.2⟩
  household := fun s i f hf h => ⟨small_canonical.household s i f hf h.1, h.2⟩
  round := fun _ r f _ h => ⟨h.1.updRound r f, h.2⟩
  appendStop := fun _ _ _ r _ _ h => ⟨h.1.updRound r _, h.2⟩
  rounds := fun s f hblank hf h => ⟨small_canonical.rounds s f hblank hf h.1, h.2⟩
  planner := fun s f hf h =>
    ⟨small_canonical.planner s f hf h.1, State.dueLawfulBut_congr h.2 (hf _) (fun _ _ => rfl)⟩
  watch := fun s f hf h => ⟨small_canonical.watch s f hf h.1, h.2⟩
  line := fun _ l f _ h => ⟨h.1.updLine l f, State.dueLawfulBut_updLine h.2 l f⟩
  journal := fun s f h => ⟨small_canonical.journal s f h.1, h.2⟩
  raise := fun _ n a v h => ⟨h.1.raise n a v, State.dueLawfulBut_raise h.2 n a v⟩
  toCenter := fun s i f hroom h => ⟨small_canonical.toCenter s i f hroom h.1, h.2⟩
  takeParked := fun s p hp hkeeps h => ⟨small_canonical.takeParked s p hp hkeeps h.1, h.2⟩
  containers := fun s f hblank hf hcfg h =>
    ⟨small_canonical.containers s f hblank hf hcfg h.1, State.dueLawfulBut_map h.2 h.1.containers f hblank hf⟩
  container := fun _ c f hf _ h => ⟨h.1.updContainer c f, State.dueLawfulBut_updContainer h.2 c f hf⟩

/-- A container that is not present is not due (R130). -/
theorem Container.dueClass_of_absent {k : Container} (h : k.cfg.present = false) : k.dueClass = none := by
  simp [Container.dueClass, h]

/-- A new configuration at a container keeps the due law, but for its own class where present changes (R69, R129). -/
theorem State.dueLawful_newCfg {s : State} (h : s.dueLawfulBut (fun _ => False)) (c : Nat) (p : ContainerCfg)
    (hpresent : p.present = (s.container c).cfg.present) :
    (s.updContainer c (fun k => { k with cfg := p })).dueLawfulBut (fun _ => False) :=
  State.dueLawfulBut_congr h rfl (fun d _ => by
    rw [State.container_updContainer]
    split
    next hd => subst hd; exact Container.dueClass_congr hpresent rfl rfl rfl
    · rfl)

/-- The part of a write of a container record before the effects of its present field: the configuration, and at a changed
fraction the PENDING stops (R134, R137). -/
def State.recordWritten (s : State) (c : Nat) (p : ContainerCfg) : State :=
  let s1 := s.updContainer c (fun k => { k with cfg := p })
  if (s.container c).cfg.fraction = p.fraction then s1 else s1.skipPendingOf c

theorem writeContainer_eq (s : State) (c : Nat) (p : ContainerCfg) : s.writeContainer c p =
    if (s.container c).cfg.present && !p.present then (s.recordWritten c p).clearPresent c
    else if !(s.container c).cfg.present && p.present then (s.recordWritten c p).setPresent c
    else if p.present then (s.recordWritten c p).keepPresent c (s.container c).cfg p
    else s.recordWritten c p := rfl

theorem recordWritten_dueLawful {s : State} (h : s.Canonical ∧ s.dueLawfulBut (fun _ => False)) (c : Nat)
    (p : ContainerCfg) :
    ((s.recordWritten c p).Canonical ∧ (s.recordWritten c p).dueLawfulBut (fun d => False ∨ d = c)) ∧
      (p.present = (s.container c).cfg.present →
        (s.recordWritten c p).Canonical ∧ (s.recordWritten c p).dueLawfulBut (fun _ => False)) := by
  have hexempt := And.intro (h.1.updContainer c (fun k => { k with cfg := p }))
    (State.dueLawfulBut_changed h.2 c (fun k => { k with cfg := p }))
  have hsame := fun hp : p.present = (s.container c).cfg.present =>
    And.intro (h.1.updContainer c (fun k => { k with cfg := p })) (State.dueLawful_newCfg h.2 c p hp)
  unfold State.recordWritten
  dsimp only
  split
  · exact ⟨hexempt, hsame⟩
  · exact ⟨(small_dueLawful _).skipPendingOf hexempt c, fun hp => (small_dueLawful _).skipPendingOf (hsame hp) c⟩

theorem writeContainer_dueLawful {s : State} (h : s.Canonical ∧ s.dueLawfulBut (fun _ => False)) (c : Nat)
    (p : ContainerCfg) : (s.writeContainer c p).Canonical ∧ (s.writeContainer c p).dueLawfulBut (fun _ => False) := by
  obtain ⟨hexempt, hsame⟩ := recordWritten_dueLawful h c p
  rw [writeContainer_eq]
  split
  case isTrue =>
    have habsent := (small_dueLawful _).fillAbsent ((small_dueLawful _).addBar hexempt c .notPresent) c
    exact (small_dueLawful _).skipPendingOf
      ⟨small_canonical.clearMarks _ c habsent.1,
        State.dueLawfulBut_rederive (State.dueLawfulBut_updContainer_exempt habsent.2 (Or.inr rfl) _)⟩ c
  case isFalse hcleared =>
    split
    case isTrue =>
      have hbars := (small_dueLawful _).removeBar
        ((small_dueLawful _).inlet hexempt c (fun n => { n with lastDrum := none, unattributed := 0 })) c .notPresent
      exact ⟨(hbars.1.updContainer c _).rederive c,
        State.dueLawfulBut_rederive (State.dueLawfulBut_updContainer_exempt hbars.2 (Or.inr rfl) _)⟩
    case isFalse hset =>
      have hkept := hsame (by revert hcleared hset; cases p.present <;> cases (s.container c).cfg.present <;> simp)
      split
      · exact (small_dueLawful _).keepPresent hkept c _ p
      · exact hkept

theorem writes_dueLawful : Writes (fun t => t.Canonical ∧ t.dueLawfulBut (fun _ => False)) where
  toSmall := small_dueLawful _
  relay := fun s i f hroom h => ⟨writes_canonical.relay s i f hroom h.1, State.dueLawfulBut_updLine h.2 _ _⟩
  params := fun s i p hp h => ⟨writes_canonical.params s i p hp h.1, h.2⟩
  stationCfg := fun s i p hp h => ⟨writes_canonical.stationCfg s i p hp h.1, h.2⟩
  cardCfg := fun s i p hp h => ⟨writes_canonical.cardCfg s i p hp h.1, h.2⟩
  householdCfg := fun s i p hp h => ⟨writes_canonical.householdCfg s i p hp h.1, h.2⟩
  writeRound := fun _ r _ _ _ h => ⟨h.1.updRound r _, h.2⟩
  draft := fun _ r _ _ _ _ _ h => ⟨h.1.updRound r _, h.2⟩
  banks := fun s i p hp h => ⟨writes_canonical.banks s i p hp h.1, h.2⟩
  fractions := fun s i p hp h => ⟨writes_canonical.fractions s i p hp h.1, h.2⟩
  shapes := fun s i p hp h => ⟨writes_canonical.shapes s i p hp h.1, h.2⟩
  priority := fun s i n hn h => ⟨writes_canonical.priority s i n hn h.1, h.2⟩
  clearFlags := fun s n h => ⟨writes_canonical.clearFlags s n h.1, h.2⟩
  clock := fun s k h => ⟨writes_canonical.clock s k h.1, h.2⟩
  part := fun s f h => ⟨writes_canonical.part s f h.1, h.2⟩
  abandonSave := fun _ h => ⟨h.1.abandonSave, State.dueLawfulBut_abandonSave h.2⟩
  writeContainer := fun _ c p _ h => writeContainer_dueLawful h c p

/-! ### Starts -/

theorem Container.dueClass_atStart (c : Nat) (cfg : ContainerCfg) (enabled : Bool) :
    (Container.atStart c cfg enabled).dueClass = none := by
  simp [Container.dueClass, Container.atStart, Fill.start]

/-- No container is a member once the blocks have taken their start values (R129). -/
theorem dueClass_startValues (s : State) (c : Nat) : (s.startValues.container c).dueClass = none := by
  rw [container_startValues]
  split
  · exact Container.dueClass_atStart _ _ _
  · rfl

theorem startValues_dueLawful (s : State) (exempt : Nat → Prop) : s.startValues.dueLawfulBut exempt :=
  State.dueLawfulBut_nil rfl (dueClass_startValues s)

theorem enterLoading_dueLawful (s : State) (kind : StartKind) (cause : StartCause) (levels : StartLevels)
    (exempt : Nat → Prop) : (s.enterLoading kind cause levels).dueLawfulBut exempt := by
  rw [enterLoading_eq]
  exact startValues_dueLawful (s.loadedFor kind _) exempt

theorem steps_dueLawful : Steps (fun t => t.Canonical ∧ t.dueLawfulBut (fun _ => False))
    (fun t => t.Canonical ∧ t.dueLawfulBut (fun _ => False)) where
  toWrites := writes_dueLawful
  weaken := fun _ h => h
  receive := fun s f h => ⟨steps_canonical.receive s f h.1, by unfold State.bufferFrame; split; exacts [h.2, h.2]⟩
  transmit := fun s h => ⟨steps_canonical.transmit s h.1, h.2⟩
  transmitted := fun s h => ⟨steps_canonical.transmitted s h.1, h.2⟩
  handled := fun s f rest body hrx hroom hbody h =>
    ⟨steps_canonical.handled s f rest body hrx hroom hbody h.1,
      (hbody _ writes_dueLawful _ ⟨h.1.updLink (fun e => { e with rx := rest }), h.2⟩).2⟩
  power := fun s f h => ⟨steps_canonical.power s f h.1, h.2⟩
  stop := fun s h => ⟨steps_canonical.stop s h.1, State.dueLawfulBut_abandonSave h.2⟩
  loading := fun s kind cause levels h =>
    ⟨h.1.enterLoading kind cause levels, enterLoading_dueLawful s kind cause levels _⟩
  startValues := fun s h => ⟨h.1.startValues, startValues_dueLawful s _⟩
  saved := fun s h => ⟨steps_canonical.saved s h.1, h.2⟩
  failed := fun s h => ⟨steps_canonical.failed s h.1, h.2⟩

/-- Settles O8: every command keeps the law, re-deriving an entry with each change of a due class (`steps_dueLawful`). -/
theorem dueListLawKept : Obligations.DueListLawKept := by
  intro s t hcanonical hdue hstep
  rw [State.canonical_iff] at hcanonical
  rw [State.dueLawful_iff] at hdue ⊢
  exact (after_of_steps steps_dueLawful (fun _ _ h => ⟨{ h.1 with }, h.2⟩) ⟨hcanonical, hdue⟩ hstep).2

end Sys2Proof.Machine
end

section
/-! PROOFS. What is quiet without the journal and the households: like `Quiet`, for a property that an arbitrary change of the
journal's reservations or of a household's held counts does not keep (R54, R60). -/

namespace Sys2Proof.Machine

/-- The quiet updates, but for those of the journal and of the households. -/
structure Calm (P : State → Prop) : Prop where
  fillOnly : ∀ s c f, (∀ k, (f k).dueClass = k.dueClass) → (∀ k, (f k).inlet = k.inlet) →
    (∀ k, (f k).cfg = k.cfg) → P s → P (s.updContainer c f)
  setStatus : ∀ s c st n, P s → P (s.setStatus c st n)
  setForced : ∀ s c b, P s → P (s.setForced c b)
  setMissed : ∀ s c, P s → P (s.setMissed c)
  clearMarks : ∀ s c, P s → P (s.clearMarks c)
  station : ∀ s i f, (∀ k, (f k).cfg = k.cfg) → P s → P (s.updStation i f)
  card : ∀ s i f, (∀ k, (f k).cfg = k.cfg) → P s → P (s.updCard i f)
  round : ∀ s r f, (∀ d : Round, d.keepsPlan (f d)) → P s → P (s.updRound r f)
  appendStop : ∀ s c i r, (s.container c).cfg.present = true → s.appendRound c i = some r → P s →
    P (s.updRound r (fun d => { d with stops := d.stops ++
      [{ container := c, state := some .servicing, origin := .unplanned, doneTime := none }] }))
  rounds : ∀ s f, (∀ r, f r Round.blank = Round.blank) → (∀ r (d : Round), d.keepsPlan (f r d)) → P s → P { s with rounds := Tab.map Round.blank f s.rounds }
  planner : ∀ s f, (∀ p, (f p).due = p.due) → P s → P (s.updPlanner f)
  watch : ∀ s f, (f s.watch).keptPlaces ≤ s.watch.keptPlaces ∨ s.centerPlaces < 8 → P s → P (s.updWatch f)
  line : ∀ s l f, (∀ d, (f d).relay.length ≤ d.relay.length) → P s → P (s.updLine l f)
  raise : ∀ s n a v, P s → P (s.raise n a v)
  toCenter : ∀ s i f, s.centerPlaces < 8 → P s → P (s.relayMaint i f)
  /-- A parked STATION_MAINT leaves the watch and takes the place kept for it. -/
  takeParked : ∀ s p, s.watch.parked = some p → p.keepsPlace = true → P s →
    P ((s.updWatch (fun w => { w with parked := none })).relayMaint p.station p.frame)

theorem Calm.of_quiet {P : State → Prop} (h : Quiet P) : Calm P where
  fillOnly := h.fillOnly
  setStatus := h.setStatus
  setForced := h.setForced
  setMissed := h.setMissed
  clearMarks := h.clearMarks
  station := h.station
  card := h.card
  round := h.round
  appendStop := h.appendStop
  rounds := h.rounds
  planner := h.planner
  watch := h.watch
  line := h.line
  raise := h.raise
  toCenter := h.toCenter
  takeParked := h.takeParked

namespace Calm

variable {P : State → Prop} (h : Calm P) {s : State} (hs : P s)
include h hs

theorem fill (c : Nat) (f : Fill → Fill) (hf : ∀ k, (f k).status = k.status := by intro; rfl) : P (s.updFill c f) :=
  h.fillOnly s c _ (fun _ => Container.dueClass_congr rfl (hf _) rfl rfl) (fun _ => rfl) (fun _ => rfl) hs

theorem rollover (old : Nat) : P (s.rollover old) := by
  unfold State.rollover; split
  · exact hs
  · exact h.raise s _ _ _ hs

theorem setStop (r i : Nat) (st : StopState) : P (s.setStop r i st) :=
  h.round s r _ (by intro _; exact Round.keepsPlan_of_map rfl (map_container_modifyStop _ (by intro _; rfl) _ _)) hs

theorem doneStop (r i : Nat) : P (s.doneStop r i) :=
  h.round s r _ (by intro _; exact Round.keepsPlan_of_map rfl (map_container_modifyStop _ (by intro _; rfl) _ _)) hs

theorem reportMissed (r c : Nat) : P (s.reportMissed r c) := h.raise _ _ _ _ (h.setMissed _ _ hs)

theorem returnStop (c : Nat) (place : Option (Nat × Nat)) (why : WorkEnd) : P (s.returnStop c place why) := by
  unfold State.returnStop
  split
  · exact hs
  · split
    · exact h.setStop hs _ _ _
    · split
      · exact h.reportMissed (h.setStop hs _ _ _) _ _
      · exact h.setStop hs _ _ _
    · exact hs

theorem completeStop (c : Nat) (place : Option (Nat × Nat)) : P (s.completeStop c place) := by
  unfold State.completeStop
  split
  · split
    · exact h.doneStop hs _ _
    · exact hs
  · split
    · exact h.doneStop hs _ _
    · exact hs

theorem skipPendingOf (c : Nat) : P (s.skipPendingOf c) := by
  exact h.rounds s _ (fun _ => rfl) (fun _ d => d.keepsPlan_skipPendingOf c) hs

theorem requestDue (c : Nat) : P (s.requestDue c) := by
  unfold State.requestDue; dsimp only; split
  · exact hs
  · exact h.fill hs _ _

theorem endOutstanding (i : Nat) : P (s.endOutstanding i) :=
  Quiet.foldl hs _ (fun _ _ ht => by
    refine h.fillOnly _ _ _ ?_ ?_ ?_ ht
    · exact fun _ => rfl
    · exact fun _ => rfl
    · exact fun _ => rfl) _

theorem acknowledgeSample (c : Nat) : P (s.acknowledgeSample c) := h.fill hs _ _

theorem raiseIf (n : Option Notice) (a : Option Nat) (v : Nat) : P (s.raiseIf n a v) := by
  cases n with
  | none => exact hs
  | some k => exact h.raise s _ _ _ hs

theorem evaluate (c : Nat) : P (s.evaluate c) := by
  unfold State.evaluate; dsimp only; split
  · exact h.setStatus _ _ _ _ hs
  · exact h.raiseIf (h.setStatus _ _ _ _ hs) _ _ _

theorem makeUnknown (c : Nat) : P (s.makeUnknown c) := h.requestDue (h.evaluate (h.fill hs _ _) _) _

theorem tippedFill (c : Nat) : P (s.tippedFill c) := h.requestDue (h.setStatus _ _ _ _ (h.fill hs _ _)) _

theorem reportTurns (c n : Nat) : P (s.reportTurns c n) := by
  unfold State.reportTurns; dsimp only; split
  · exact hs
  · have key : P (match (s.container c).fill.estimate with
        | none => s.updFill c (fun f => { f with deposits := min 65535 ((s.container c).fill.deposits + n) })
        | some e =>
          ((s.updFill c (fun f => { f with deposits := min 65535 ((s.container c).fill.deposits + n) })).updFill c
            (fun f => { f with estimate := (some
              (min (e + n * (s.fraction (s.container c).cfg.fraction).nominal) (s.container c).cfg.cap)) })).evaluate c) := by
      split
      · exact h.fill hs _ _
      · exact h.evaluate (h.fill (h.fill hs _ _) _ _) _
    split
    · exact h.requestDue key _
    · exact key

theorem invalidSample (c : Nat) : P (s.invalidSample c) := by
  unfold State.invalidSample; dsimp only; split
  · exact h.raise _ _ _ _ (h.fill hs _ _)
  · exact h.fill hs _ _

theorem fuseSample (c tof : Nat) (temperature : Int) : P (s.fuseSample c tof temperature) := by
  unfold State.fuseSample; dsimp only
  split
  · exact h.evaluate (h.fill (h.raise _ _ _ _ (h.fill hs _ _)) _ _) _
  · exact h.evaluate (h.fill (h.fill hs _ _) _ _) _

theorem validSample (c tof : Nat) (temperature : Int) : P (s.validSample c tof temperature) := by
  unfold State.validSample; dsimp only
  split
  · split
    · exact h.raise _ _ _ _ (h.fill hs _ _)
    · exact h.fuseSample (h.fill hs _ _) _ _ _
  · split
    · exact h.raise _ _ _ _ (h.fill hs _ _)
    · exact h.fuseSample (h.fill hs _ _) _ _ _

theorem echoSample (c tof quality : Nat) (temperature : Int) : P (s.echoSample c tof quality temperature) := by
  unfold State.echoSample; dsimp only
  have h1 := h.fill hs c (fun f =>
    { f with request := f.request.answered (s.container c).cfg.present (s.container c).fill.sensor
              (s.container c).inlet.state })
  split_ifs
  · exact h1
  · exact h1
  · exact h1
  · exact h.invalidSample h1 _
  · exact h.validSample h1 _ _ _

theorem requestTurn (i : Nat) : P (s.requestTurn i) := by
  unfold State.requestTurn; split
  · exact hs
  · refine h.line s _ _ (fun d => ?_) hs
    split <;> exact le_refl _

theorem see (i c : Nat) (code : DisplayCode) : P (s.see i c code) := by
  unfold State.see; split
  · exact hs
  · exact h.card s _ _ (by intro _; rfl) hs

theorem matchRound (c i : Nat) (hp : (s.container c).cfg.present = true) : P (s.matchRound c i).1 := by
  unfold State.matchRound
  split
  · exact h.setStop hs _ _ _
  · split
    · rename_i r hr
      exact h.appendStop s c i r hp hr hs
    · exact hs

theorem emptied (c : Nat) : P (s.emptied c) := h.clearMarks _ _ (h.tippedFill hs _)

theorem passStatus (i : Nat) (f : Frame) : P (s.passStatus i f) := by
  unfold State.passStatus
  split
  · exact hs
  · exact h.station s _ _ (by intro _; rfl) hs

theorem captureIf (i : Nat) (f : Frame) : P (s.captureIf i f) := by
  unfold State.captureIf; split
  · exact h.watch s _ (Or.inl (le_refl _)) hs
  · exact hs

/-- A hold begins, with a STATION_MAINT parked only while there is room for it. -/
theorem beginHold (i : Nat) (p : Option Parked) (v : Nat)
    (hp : p.any Parked.keepsPlace = true → s.centerPlaces < 8 := by intro h; cases h) : P (s.beginHold i p v) := by
  refine h.raise _ _ _ _ (h.watch s _ ?_ hs)
  by_cases hk : p.any Parked.keepsPlace = true
  · exact Or.inr (hp hk)
  · left; simp [Watch.keptPlaces, hk]

theorem discardParked (p : Parked) : P (s.discardParked p).1 := by
  unfold State.discardParked
  split
  · exact hs
  · exact h.line s _ (fun l => { l with relay := l.relay.filter _ }) (fun _ => List.length_filter_le _ _) hs
  · exact h.watch s (fun w => { w with pass := _ }) (Or.inl (le_refl _)) hs

theorem release (m : Option Nat) : P (s.release m) := h.watch s _ (Or.inl (le_refl _)) hs

theorem dropRelay (i : Nat) : P (s.dropRelay i) := h.line s _ _ (fun _ => List.length_filter_le _ _) hs

theorem oweAccept (i : Nat) (b : Bool) : P (s.oweAccept i b) := h.station s _ _ (by intro _; rfl) hs

theorem clearTurn (l : Line) : P (s.clearTurn l) := h.line s _ _ (fun _ => le_refl _) hs

theorem stepRehold (i : Nat) : P (s.stepRehold i) := by
  unfold State.stepRehold; split
  · exact h.beginHold hs _ _ _
  · exact hs

theorem holdIf (i : Nat) (b : Bool) : P (s.holdIf i b) := by
  unfold State.holdIf; split
  · exact h.beginHold hs _ _ _
  · exact hs

theorem refusedPassesWatch (i : Nat) (f : Frame) : P (s.refusedPassesWatch i f) := by
  unfold State.refusedPassesWatch; dsimp only
  have h1 := h.captureIf hs i f
  split
  · exact h1
  · exact h.beginHold h1 _ _ _
  · exact h.beginHold h1 _ _ _

theorem dropTurn (i : Nat) : P (s.dropTurn i) := by
  refine h.line s _ _ (fun d => ?_) hs
  split
  · split <;> exact le_refl _
  · exact le_refl _

theorem releaseRound (r : Nat) : P (s.releaseRound r) := by
  unfold State.releaseRound; dsimp only
  split
  · refine h.round s _ _ (fun d => ⟨rfl, ?_⟩) hs
    rw [List.map_map]
    exact (List.filter_sublist.map _)
  · exact hs

theorem closeRound (r : Nat) : P (s.closeRound r) :=
  h.raise _ _ _ _ (h.round s _ _ (by intro _; exact Round.keepsPlan_of_stops rfl rfl) hs)

theorem leaveActive (r : Nat) (cause : ClosingCause) : P (s.leaveActive r cause) := by
  unfold State.leaveActive; split
  · exact h.round s _ _ (by intro _; exact Round.keepsPlan_of_stops rfl rfl) hs
  · exact h.closeRound hs _

theorem takeClose (r : Nat) : P (s.takeClose r) := by
  unfold State.takeClose; split
  · exact h.leaveActive (h.round s _ _ (by intro _; exact Round.keepsPlan_of_map rfl (map_container_setStops _ _ _)) hs) _ _
  · exact hs

theorem takeDeadline (r : Nat) : P (s.takeDeadline r) :=
  h.leaveActive (Quiet.foldl (h.round s _ _ (by intro _; exact Round.keepsPlan_of_map rfl (map_container_setStops _ _ _)) hs) _ (fun _ _ ht => h.reportMissed ht _ _) _) _ _

theorem checkRound (r : Nat) : P (s.checkRound r) := by
  unfold State.checkRound; split_ifs
  · exact h.closeRound hs _
  · exact h.takeDeadline hs _
  · exact hs

theorem checkClosing (r : Nat) : P (s.checkClosing r) := by
  unfold State.checkClosing; split
  · exact h.closeRound hs _
  · exact hs

theorem checkStanding (r : Nat) : P (s.checkStanding r) := by
  unfold State.checkStanding; split
  · exact h.releaseRound hs _
  · exact hs

theorem endTick : P s.endTick := h.planner s _ (fun _ => rfl) hs

theorem outstandingExpired (c : Nat) : P (s.outstandingExpired c) := by
  unfold State.outstandingExpired; dsimp only
  split
  · exact h.invalidSample (h.fill hs _ _) _
  · exact h.fill hs _ _

theorem countdownExpired (c : Nat) : P (s.countdownExpired c) := h.fill (h.requestDue hs _) _ _

theorem clearSensor (c : Nat) : P (s.clearSensor c) := by
  unfold State.clearSensor; dsimp only
  split
  · exact h.fill hs _ _
  · exact h.requestDue (h.fill hs _ _) _

theorem setWatch (k : KeyKind) (v : Nat) (filter : BitVec 7) (a : WatchAction) : P (s.setWatch k v filter a) :=
  h.watch s _ (Or.inl (le_refl _)) hs

theorem fillAbsent (c : Nat) : P (s.fillAbsent c) := h.evaluate (h.fill hs _ _) _

theorem keepPresent (c : Nat) (old new : ContainerCfg) : P (s.keepPresent c old new) := by
  have h1 : P (if old.sampleInterval = new.sampleInterval then s
      else s.updFill c (fun f => f.limitCountdown new.sampleInterval)) := by
    split
    · exact hs
    · exact h.fill hs _ _
  unfold State.keepPresent; dsimp only
  split
  · exact h1
  · exact h.makeUnknown h1 _

end Calm

end Sys2Proof.Machine
end

section
/-! PROOFS. What one command can do at all, event by event: like `Small`, `Writes` and `Steps`, for a property that an
arbitrary change of an inlet does not keep, but each event of Inlet Control does. -/

namespace Sys2Proof.Machine

/-- What a running part does, as the quiet updates and the events at an inlet; an expiry comes only while it is due. -/
structure Acts (P : State → Prop) : Prop extends Calm P where
  /-- A pending command is sent, set again or cleared. -/
  command : ∀ {s}, P s → ∀ c f, (∀ n : Inlet, f n = { n with command := (f n).command }) → P (s.updInlet c f)
  /-- A container that becomes present forgets its drum count (R125). -/
  drumForgotten : ∀ {s}, P s → ∀ c, P (s.updInlet c (fun n => { n with lastDrum := none, unattributed := 0 }))
  addBar : ∀ {s}, P s → ∀ c r, P (s.addBar c r)
  removeBar : ∀ {s}, P s → ∀ c r, P (s.removeBar c r)
  cardShown : ∀ {s}, P s → ∀ i c b n age, P (s.cardShown i c b n age)
  depositDone : ∀ {s}, P s → ∀ c count, P (s.depositDone c count)
  liftBegun : ∀ {s}, P s → ∀ i c, P (s.liftBegun i c)
  liftEnded : ∀ {s}, P s → ∀ i c b, P (s.liftEnded i c b)
  grantExpired : ∀ {s}, P s → ∀ c, (s.container c).grantDue = true → P (s.grantExpired c)
  serviceExpired : ∀ {s}, P s → ∀ c, (s.container c).serviceDue = true → P (s.serviceExpired c)
  liftExpired : ∀ {s}, P s → ∀ c, (s.container c).liftDue = true → P (s.liftExpired c)
  settled : ∀ {s}, P s → ∀ c, (s.container c).settleDue = true → P (s.settled c)
  freeServices : ∀ {s}, P s → ∀ r, P (s.freeServices r)
  secondEvent : ∀ {s}, P s → P s.secondEvent
  minutes : ∀ {s}, P s → P { s with containers := Tab.map Container.blank (fun _ k => k.minute) s.containers }

/-- A property that any change of an inlet keeps. -/
theorem Acts.of_small {P : State → Prop} (h : Small P) : Acts P where
  toCalm := Calm.of_quiet h.toQuiet
  command := fun hs c f _ => h.inlet hs c f
  drumForgotten := fun hs c => h.inlet hs c _
  addBar := fun hs => h.addBar hs
  removeBar := fun hs => h.removeBar hs
  cardShown := fun hs => h.cardShown hs
  depositDone := fun hs => h.depositDone hs
  liftBegun := fun hs => h.liftBegun hs
  liftEnded := fun hs => h.liftEnded hs
  grantExpired := fun hs c _ => h.grantExpired hs c
  serviceExpired := fun hs c _ => h.serviceExpired hs c
  liftExpired := fun hs c _ => h.liftExpired hs c
  settled := fun hs c _ => h.settled hs c
  freeServices := fun hs => h.freeServices hs
  secondEvent := fun hs => h.secondEvent hs
  minutes := fun {s} hs => h.containers s _ (fun _ => rfl)
    (fun _ k => by unfold Container.minute; split <;> rfl) (fun _ k => by unfold Container.minute; split <;> rfl) hs

namespace Acts

variable {P : State → Prop} (h : Acts P) {s : State} (hs : P s)
include h hs

theorem addBars (i : Nat) (r : BarReason) : P (s.addBars i r) := Quiet.foldl hs _ (fun _ _ ht => h.addBar ht _ _) _

theorem removeBars (i : Nat) (r : BarReason) : P (s.removeBars i r) :=
  Quiet.foldl hs _ (fun _ _ ht => h.removeBar ht _ _) _

theorem passItem (i : Nat) (f : Frame) (age : Nat) (hm : f.kind = kindStationMaint → s.centerPlaces < 8) :
    P (s.passItem i f age) := by
  unfold State.passItem
  split
  · exact hs
  · exact h.cardShown hs _ _ _ _ _
  · exact h.depositDone hs _ _
  · exact h.toCalm.echoSample hs _ _ _ _
  · exact h.liftBegun hs _ _
  · exact h.liftEnded hs _ _ _
  · rename_i hp; exact h.toCenter s _ _ (hm (kind_of_parseItem_maint hp)) hs

theorem passFrame (i : Nat) (f : Frame) (age : Nat) (hm : f.kind = kindStationMaint → s.centerPlaces < 8) :
    P (s.passFrame i f age) := by
  unfold State.passFrame; split
  · exact h.toCalm.passStatus hs _ _
  · exact h.passItem hs _ _ _ hm

theorem dealParked (m : ResumeMode) : P (s.dealParked m).1 := by
  have h1 := h.watch s (fun w => { w with parked := none }) (Or.inl (Nat.zero_le _)) hs
  unfold State.dealParked; dsimp only
  split
  · exact h1
  · rename_i p hp
    split
    · exact h.toCalm.discardParked h1 _
    · unfold State.resumeParked
      split
      · rename_i hr
        by_cases hk : p.frame.kind = kindStationMaint
        · rw [Small.passFrame_maint _ _ _ hk]
          exact h.takeParked s p hp (by simp [Parked.keepsPlace, hr, hk]) hs
        · exact h.passFrame h1 _ _ _ (fun e => absurd e hk)
      · exact h.watch _ (fun w => { w with pass := _ }) (Or.inl (le_refl _)) h1

theorem becomeLost (i : Nat) : P (s.becomeLost i) :=
  h.raise _ _ _ _ (h.toCalm.endOutstanding (h.toCalm.dropRelay (h.addBars (h.station s _ _ (by intro _; rfl) hs) _ _) _) _)

theorem miss (i : Nat) : P (s.miss i) := by
  unfold State.miss; dsimp only
  split
  · exact h.station s _ _ (by intro _; rfl) hs
  · exact hs
  · exact hs
  · split
    · exact h.becomeLost hs _
    · exact h.station s _ _ (by intro _; rfl) hs

theorem goodFrame (i : Nat) : P (s.goodFrame i) := by
  have h1 := h.station s i (fun t => { t with state := .online, missCount := 0, seen := true }) (by intro _; rfl) hs
  have h2 := h.raise _ .stationBack (some i) 0 (h.removeBars h1 i .stationLost)
  unfold State.goodFrame; dsimp only
  by_cases hl : (s.station i).state = .lost <;> by_cases hn : (s.station i).seen = true <;>
    simp only [hl, hn, if_true, if_false, Bool.false_eq_true]
  · exact h2
  · exact h.removeBars h2 _ _
  · exact h1
  · exact h.removeBars h1 _ _

theorem send (l : Line) (i : Nat) (todo : List Look) (what : Sent) (f : Frame) (b : Bool) :
    P (s.send l i todo what f b) := by
  unfold State.send; dsimp only
  refine h.line _ _ _ (fun _ => le_refl _) ?_
  split
  · exact h.command hs _ _ (fun _ => rfl)
  · exact hs

theorem presentFrame (l : Line) (i : Nat) (todo : List Look) (what : Sent) (f : Frame) :
    P (s.presentFrame l i todo what f).1 := by
  unfold State.presentFrame; dsimp only
  split
  · exact h.send hs _ _ _ _ _ _
  · split
    · exact h.send (h.watch s _ (Or.inl (le_refl _)) hs) _ _ _ _ _ _
    · split
      · exact h.send (h.toCalm.captureIf hs _ _) _ _ _ _ _ _
      · exact h.send (h.toCalm.captureIf hs _ _) _ _ _ _ _ _
      · exact h.toCalm.beginHold (h.toCalm.captureIf hs _ _) _ _ _

theorem sendNext (l : Line) (i : Nat) (todo : List Look) : P (State.sendNext l i todo s).1 := by
  induction todo with
  | nil => exact hs
  | cons k rest ih =>
    unfold State.sendNext
    split
    · exact ih
    · exact h.presentFrame hs _ _ _ _ _

theorem beginTurn (l : Line) (i : Nat) (rot : Option Rotation) : P (s.beginTurn l i rot).1 := by
  unfold State.beginTurn; dsimp only
  refine h.sendNext (h.line _ _ _ (fun d => ?_) hs) _ _ _
  cases rot with
  | none => exact le_refl _
  | some r => cases r <;> exact le_refl _

theorem arbitrate (l : Line) (n : Nat) : P (State.arbitrate l n s) := by
  induction n generalizing s with
  | zero => exact hs
  | succ n ih =>
    unfold State.arbitrate; dsimp only
    split
    · exact hs
    · split
      · exact h.beginTurn hs _ _ _
      · exact ih (h.beginTurn hs _ _ _)

theorem kick (l : Line) : P (s.kick l) := by
  unfold State.kick; split
  · exact h.arbitrate hs _ _
  · exact hs

theorem kickBoth : P s.kickBoth := h.kick (h.kick hs _) _

theorem endTurn (l : Line) (i : Nat) : P (s.endTurn l i) := h.kick (h.toCalm.stepRehold (h.toCalm.clearTurn hs _) _) _

theorem exchangeFailed (l : Line) (t : Turn) : P (s.exchangeFailed l t) := by
  unfold State.exchangeFailed; dsimp only
  split
  · exact h.endTurn (h.toCalm.holdIf (h.miss (h.toCalm.oweAccept hs _ _) _) _ _) _ _
  · exact h.endTurn (h.toCalm.holdIf (h.miss hs _) _ _) _ _

theorem nonAnswer (l : Line) (t : Turn) : P (s.nonAnswer l t) := by
  unfold State.nonAnswer; dsimp only
  split
  · exact h.endTurn (h.toCalm.holdIf (h.toCalm.oweAccept hs _ _) _ _) _ _
  · exact h.endTurn (h.toCalm.holdIf hs _ _) _ _

theorem acked (i : Nat) (what : Sent) : P (s.acked i what) := by
  unfold State.acked
  split
  · refine h.command hs _ _ (fun n => ?_)
    split
    · split <;> rfl
    · rfl
  · exact h.toCalm.acknowledgeSample hs _
  · exact h.line s _ _ (fun _ => List.length_filter_le _ _) hs
  · exact hs

theorem continueTurn (l : Line) (t : Turn) : P (s.continueTurn l t) := by
  unfold State.continueTurn; dsimp only
  split
  · exact h.sendNext (h.toCalm.clearTurn hs _) _ _ _
  · exact h.endTurn (h.sendNext (h.toCalm.clearTurn hs _) _ _ _) _ _

theorem ackReceived (l : Line) (t : Turn) : P (s.ackReceived l t) := by
  unfold State.ackReceived; dsimp only
  split
  · exact h.endTurn (h.toCalm.beginHold (h.acked hs _ _) _ _ _) _ _
  · exact h.continueTurn (h.acked hs _ _) _ _

theorem passWatch (i : Nat) (f : Frame) (hm : f.kind = kindStationMaint → s.centerPlaces < 8) :
    P (s.passWatch i f) := by
  unfold State.passWatch; dsimp only
  have h1 := h.toCalm.captureIf hs i f
  have hm1 : f.kind = kindStationMaint → (s.captureIf i f).centerPlaces < 8 := by simpa using hm
  split
  · exact h.passFrame h1 _ _ _ hm1
  · exact h.toCalm.beginHold (h.passFrame h1 _ _ _ hm1) _ _ _
  · exact h.toCalm.beginHold h1 _ _ _ (by simpa [Parked.keepsPlace, State.parkReceived] using hm)

theorem itemAnswer (i : Nat) (f : Frame) : P (s.itemAnswer i f) := by
  unfold State.itemAnswer
  split_ifs
  · exact h.toCalm.oweAccept hs _ _
  · exact h.toCalm.refusedPassesWatch (h.toCalm.oweAccept hs _ _) _ _
  · rename_i hn
    exact h.passWatch (h.station s _ _ (by intro _; rfl) hs) _ _ (fun hk => Nat.lt_of_not_le (fun h8 => hn ⟨hk, h8⟩))

theorem pollAnswer (l : Line) (t : Turn) (f : Frame) : P (s.pollAnswer l t f) := by
  unfold State.pollAnswer
  split_ifs
  · rename_i hk
    exact h.endTurn (h.passWatch (h.toCalm.oweAccept hs _ _) _ _ (fun e => by rw [hk] at e; simp [kindStationStatus, kindStationMaint] at e)) _ _
  · exact h.endTurn (h.itemAnswer hs _ _) _ _
  · exact h.nonAnswer hs _ _

theorem takeAnswer (l : Line) (t : Turn) (f : Frame) : P (s.takeAnswer l t f) := by
  unfold State.takeAnswer; dsimp only
  have h1 := h.goodFrame hs t.station
  split_ifs
  · exact h.pollAnswer h1 _ _ _
  · exact h.ackReceived h1 _ _
  · exact h.nonAnswer h1 _ _

theorem frameArrives (l : Line) (t : Turn) (bytes : List Byte) : P (s.frameArrives l t bytes) := by
  unfold State.frameArrives
  split
  · exact hs
  · exact h.exchangeFailed hs _ _
  · split
    · exact h.takeAnswer hs _ _ _
    · exact hs

theorem disableStation (i : Nat) : P (s.disableStation i) := by
  have h1 := h.addBars (h.station s i (fun t => { t with state := .disabled }) (by intro _; rfl) hs) i .stationDisabled
  unfold State.disableStation; dsimp only
  apply h.toCalm.endOutstanding
  apply h.toCalm.dropTurn
  apply h.toCalm.dropRelay
  refine h.line _ _ _ ?_ ?_
  · exact fun _ => le_refl _
  split
  · exact h.removeBars h1 _ _
  · exact h1

theorem enableStation (i : Nat) : P (s.enableStation i) :=
  h.removeBars (h.addBars (h.station s _ _ (by intro _; rfl) hs) _ _) _ _

theorem takeAbort (r : Nat) : P (s.takeAbort r) := by
  unfold State.takeAbort; split
  · exact h.toCalm.closeRound (h.freeServices (h.round s _ _ (by intro _; exact Round.keepsPlan_of_map rfl (map_container_setStops _ _ _)) hs) _) _
  · exact hs

theorem takeCommand (r : Nat) : P (s.takeCommand r) := by
  unfold State.takeCommand; dsimp only
  have h1 := h.round s r (fun d => { d with requested := none }) (by intro _; exact Round.keepsPlan_of_stops rfl rfl) hs
  split
  · exact h.toCalm.releaseRound h1 _
  · exact h.toCalm.takeClose h1 _
  · exact h.takeAbort h1 _
  · exact h1

theorem runStage (g : TickStage) : P (s.runStage g) := by
  cases g with
  | command r => exact h.takeCommand hs r
  | check r => exact h.toCalm.checkRound hs r
  | closing r => exact h.toCalm.checkClosing hs r
  | standing r => exact h.toCalm.checkStanding hs r

theorem runTick (auto : Bool) (n : Nat) (todo : List TickStage) : P (State.runTick auto n todo s) := by
  induction n generalizing s todo with
  | zero => exact h.toCalm.endTick hs
  | succ n ih =>
    cases todo with
    | nil => exact h.toCalm.endTick hs
    | cons g rest =>
      unfold State.runTick
      split
      · exact h.planner s _ (fun _ => rfl) hs
      · exact ih (h.runStage hs _) _

theorem beginTick : P s.beginTick := h.runTick hs _ _ _

theorem finishTick : P s.finishTick := by
  unfold State.finishTick
  split
  · exact hs
  · exact h.runTick hs _ _ _

theorem takeStage (g : TickStage) : P (s.takeStage g) := by
  unfold State.takeStage
  split
  · split
    · exact h.runTick (h.runStage (h.planner s (fun p => { p with tickTodo := [] }) (fun _ => rfl) hs) _) _ _ _
    · exact hs
  · exact hs

theorem holdExpired (i : Nat) : P (s.holdExpired i) :=
  h.kickBoth (h.raise _ _ _ _ (h.watch _ _ (Or.inl (le_refl _)) (h.toCalm.release (h.dealParked hs _) _)))

omit h in
theorem takeIf (c : Nat) (due : Container → Bool) (f : State → Nat → State)
    (hf : ∀ t, due (t.container c) = true → P t → P (f t c)) : P (s.takeIf c due f) := by
  unfold State.takeIf; split
  next hdue => exact hf s hdue hs
  · exact hs

theorem takeHold : P s.takeHold := by
  unfold State.takeHold
  split
  · exact h.holdExpired hs _
  · exact hs

theorem flushContainer (c : Nat) : P (s.flushContainer c) := by
  have h1 := Acts.takeIf hs c Container.outstandingDue State.outstandingExpired
    (fun _ _ ht => h.toCalm.outstandingExpired ht c)
  have h2 := Acts.takeIf h1 c Container.countdownDue State.countdownExpired
    (fun _ _ ht => h.toCalm.countdownExpired ht c)
  have h3 := Acts.takeIf h2 c Container.grantDue State.grantExpired (fun _ hdue ht => h.grantExpired ht c hdue)
  have h4 := Acts.takeIf h3 c Container.serviceDue State.serviceExpired (fun _ hdue ht => h.serviceExpired ht c hdue)
  have h5 := Acts.takeIf h4 c Container.liftDue State.liftExpired (fun _ hdue ht => h.liftExpired ht c hdue)
  exact Acts.takeIf h5 c Container.settleDue State.settled (fun _ hdue ht => h.settled ht c hdue)

theorem flush : P s.flush := h.takeHold (Quiet.foldl (h.finishTick hs) _ (fun _ _ ht => h.flushContainer ht _) _)

theorem minuteEvent : P s.minuteEvent := h.beginTick (h.minutes hs)

theorem resume (m : ResumeMode) (i : Nat) : P (s.resume m i).1 := h.kickBoth (h.toCalm.release (h.dealParked hs _) _)

theorem unbarByCenter (c : Nat) : P (s.unbarByCenter c) := h.removeBar (h.removeBar hs _ _) _ _

omit hs in
/-- A write of a container record, for a property that the new configuration and the new fill fields keep. -/
theorem writeContainer (c : Nat) (p : ContainerCfg) (hcfg : P (s.updContainer c (fun k => { k with cfg := p })))
    (hset : ∀ t, P t → P ((t.updFill c (fun _ => Fill.start (some (c % 8 + 1)))).rederive c)) :
    P (s.writeContainer c p) := by
  have hrecord : P (s.recordWritten c p) := by
    unfold State.recordWritten; dsimp only
    split
    · exact hcfg
    · exact h.toCalm.skipPendingOf hcfg _
  rw [writeContainer_eq]
  split
  · exact h.toCalm.skipPendingOf (h.clearMarks _ _ (h.toCalm.fillAbsent (h.addBar hrecord _ _) _)) _
  · split
    · exact hset _ (h.removeBar (h.drumForgotten hrecord c) _ _)
    · split
      · exact h.toCalm.keepPresent hrecord _ _ _
      · exact hrecord

/-- What follows a station's new configuration, whatever it was before. -/
theorem stationEffects (i : Nat) (old new : Bool) :
    P (if old && !new then s.disableStation i else if !old && new then s.enableStation i else s) := by
  split
  · exact h.disableStation hs _
  · split
    · exact h.enableStation hs _
    · exact hs

theorem barByCenter (c : Nat) : P (s.barByCenter c) := h.addBar hs _ _

end Acts

end Sys2Proof.Machine
end

section
/-! PROOFS. The writes of the requests and the starts, over the events of `Acts`; a written record comes from bytes of its
table's length (R182). -/

namespace Sys2Proof.Machine

theorem length_mergeMasked (old new mask : List Byte) : (mergeMasked old new mask).length = old.length := by
  simp [mergeMasked]

/-- A record that a write to an index brings in: bytes of its table's length, clamped, read as it, the index is a write index of
its table, and the rules across records hold (R182). -/
def Record.written (s : State) (i : Nat) (r : Record) : Prop :=
  ∃ (t : Table) (bytes : List Byte), bytes.length = t.configLength ∧ t.parse (t.clampBytes bytes) = some r ∧
    t.writeRange.1 ≤ i ∧ i ≤ t.writeRange.2 ∧ s.crossOk i r = true

/-- What a running part does and the writes a request makes. -/
structure Deeds (P : State → Prop) : Prop extends Acts P where
  /-- The oldest records of the journal are released (R66). -/
  release : ∀ {s}, P s → ∀ n, P (s.updJournal (fun j => j.release n))
  relay : ∀ s i f, (s.line (lineOf i)).relay.length < 8 → P s → P (s.appendRelay i f)
  params : ∀ s i p, Record.written s i (.parameters p) → P s → P { s with params := p }
  stationCfg : ∀ s i p, Record.written s i (.station p) → P s → P (s.updStation i (fun t => { t with cfg := p }))
  cardCfg : ∀ s i p, Record.written s i (.card p) → P s → P (s.updCard i (fun k => { k with cfg := p }))
  householdCfg : ∀ s i p, Record.written s i (.household p) → P s → P (s.updHousehold i (fun k => { k with cfg := p }))
  writeRound : ∀ s i p stops, Record.written s i (.round p stops) → P s → P (s.writeRound i p stops)
  draft : ∀ s r f n, 1 ≤ n → n ≤ 24 → r < 4 → P s → P (s.draft r f (s.draftList f n))
  banks : ∀ s i p, Record.written s i (.bank p) → P s → P { s with banks := Tab.set Bank.blank s.banks i p }
  fractions : ∀ s i p, Record.written s i (.fraction p) → P s →
    P { s with fractions := Tab.set FractionRec.blank s.fractions i p }
  shapes : ∀ s i p, Record.written s i (.shape p) → P s → P { s with shapes := Tab.set Shape.blank s.shapes i p }
  priority : ∀ s i n, Record.written s i (.noticeClass n) → P s → P (s.updClass i (fun c => { c with priority := n }))
  clearFlags : ∀ s n, P s → P (s.clearFlags n)
  clock : ∀ s k, P s → P { s with clock := k }
  part : ∀ s f, P s → P (s.updPart f)
  abandonSave : ∀ s, P s → P s.abandonSave
  writeContainer : ∀ s c p, Record.written s c (.container p) → P s → P (s.writeContainer c p)

namespace Deeds

variable {P : State → Prop} (h : Deeds P) {s : State} (hs : P s)
include h hs

theorem writeParams (i : Nat) (p : Params) (ht : Record.written s i (.parameters p)) : P (s.writeParams p) := by
  unfold State.writeParams; dsimp only
  split
  · exact h.params s i _ ht hs
  · exact h.toCalm.rollover (h.params s i _ ht hs) _

theorem writeShape (i : Nat) (p : Shape) (ht : Record.written s i (.shape p)) : P (s.writeShape i p) := by
  unfold State.writeShape; dsimp only
  split
  · exact h.shapes s _ _ ht hs
  · refine Quiet.foldl (h.shapes s _ _ ht hs) _ (fun t c hu => ?_) _
    split
    · exact h.toCalm.makeUnknown hu _
    · exact hu

theorem writeStation (i : Nat) (p : StationCfg) (ht : Record.written s i (.station p)) : P (s.writeStation i p) := by
  unfold State.writeStation; dsimp only
  exact h.toActs.stationEffects (h.stationCfg s i p ht hs) i _ _

theorem writeRecordOf (i : Nat) (r : Record) (ht : Record.written s i r) : P (s.writeRecordOf i r) := by
  cases r with
  | parameters p => exact h.writeParams hs i p ht
  | station p => exact h.writeStation hs i p ht
  | bank p => exact h.banks s i p ht hs
  | fraction p => exact h.fractions s i p ht hs
  | shape p => exact h.writeShape hs i p ht
  | container p => exact h.writeContainer s i p ht hs
  | card p => exact h.cardCfg s i p ht hs
  | household p => exact h.householdCfg s i p ht hs
  | round p stops => exact h.writeRound s i p stops ht hs
  | noticeClass n => exact h.priority s i n ht hs

theorem writeTable (t : Table) (i : Nat) (mask record : List Byte) (hi : inRange t.writeRange i = true) :
    P (s.writeTable t i mask record).1 := by
  unfold State.writeTable; dsimp only
  split
  · exact hs
  · split
    · exact hs
    · split
      · exact hs
      · rename_i r hr hc
        simp only [inRange, Bool.and_eq_true, decide_eq_true_eq] at hi
        have hlength : (mergeMasked (s.configBytes t i) record mask).length = t.configLength := by
          rw [length_mergeMasked, length_configBytes]
        exact h.toActs.kickBoth (h.writeRecordOf hs _ _ ⟨t, _, hlength, hr, hi.1, hi.2, by simpa using hc⟩)

theorem tableWriteBody (f : Frame) : P (tableWriteBody f s).1 := by
  unfold Machine.tableWriteBody; try dsimp only
  repeat' split
  all_goals first
    | exact hs
    | exact h.writeTable hs _ _ _ _ (by simp_all)

omit h in
theorem tableReadBody (f : Frame) : P (tableReadBody f s).1 := by
  unfold Machine.tableReadBody; try dsimp only
  repeat' split
  all_goals first | exact hs

theorem relayBody (f : Frame) : P (relayBody f s).1 := by
  unfold Machine.relayBody
  split
  · exact hs
  · split_ifs with h1 h2
    · exact hs
    · exact hs
    · exact h.relay s _ _ (by omega) hs

omit h in
theorem unknownBody (f : Frame) : P (unknownBody f s).1 := hs

omit h in
theorem journalReadBody (f : Frame) : P (journalReadBody f s).1 := by
  unfold Machine.journalReadBody; try dsimp only
  repeat' split
  all_goals first | exact hs

theorem journalReleaseBody (f : Frame) : P (journalReleaseBody f s).1 := by
  unfold Machine.journalReleaseBody; try dsimp only
  repeat' split
  all_goals first | exact hs | exact h.release hs _

omit h in
theorem noticeFlagsReadBody (f : Frame) : P (noticeFlagsReadBody f s).1 := by
  unfold Machine.noticeFlagsReadBody; try dsimp only
  repeat' split
  all_goals first | exact hs

theorem noticeFlagsClearBody (f : Frame) : P (noticeFlagsClearBody f s).1 := by
  unfold Machine.noticeFlagsClearBody; try dsimp only
  repeat' split
  all_goals first | exact hs | exact h.clearFlags s _ hs

theorem setTimeBody (f : Frame) : P (setTimeBody f s).1 := by
  unfold Machine.setTimeBody; try dsimp only
  repeat' split
  all_goals first | exact hs | exact h.clock s _ hs

omit h in
theorem statusReadBody (f : Frame) : P (statusReadBody f s).1 := by
  unfold Machine.statusReadBody; try dsimp only
  repeat' split
  all_goals first | exact hs

theorem imageSaveBody (f : Frame) : P (imageSaveBody f s).1 := by
  unfold Machine.imageSaveBody; try dsimp only
  repeat' split
  all_goals first | exact hs | exact h.part s (fun p => { p with saving := true }) hs

theorem tablesClearBody (f : Frame) : P (tablesClearBody f s).1 := by
  unfold Machine.tablesClearBody; try dsimp only
  repeat' split
  all_goals first | exact hs | exact h.part s (fun p => { p with requested := some .tablesClear }) hs

theorem restartBody (f : Frame) : P (restartBody f s).1 := by
  unfold Machine.restartBody; try dsimp only
  repeat' split
  all_goals first | exact hs | exact h.part _ (fun p => { p with requested := some .restart }) (h.abandonSave s hs)

theorem roundDraftBody (f : Frame) : P (roundDraftBody f s).1 := by
  unfold Machine.roundDraftBody; try dsimp only
  repeat' split
  all_goals first
    | exact hs
    | exact h.draft s _ _ _ (by unfold clamp; omega) (by unfold clamp; omega) (by omega) hs

theorem roundCommandBody (cmd : RoundCommand) (f : Frame) : P (roundCommandBody cmd f s).1 := by
  unfold Machine.roundCommandBody; try dsimp only
  repeat' split
  all_goals first
    | exact hs
    | exact h.round s _ (fun d => { d with requested := some cmd }) (fun _ => Round.keepsPlan_of_stops rfl rfl) hs

omit h in
theorem containerBody (effect : State → Nat → State) (he : ∀ t c, P t → P (effect t c)) (data : State → Nat → List Byte)
    (f : Frame) : P (containerBody effect data f s).1 := by
  unfold Machine.containerBody; try dsimp only
  repeat' split
  all_goals first | exact hs | exact he s _ hs

theorem forceDueBody (f : Frame) : P (forceDueBody f s).1 := by
  unfold Machine.forceDueBody; try dsimp only
  repeat' split
  all_goals first | exact hs | exact h.setForced s _ _ hs

theorem watchSetBody (f : Frame) : P (watchSetBody f s).1 := by
  unfold Machine.watchSetBody; try dsimp only
  repeat' split
  all_goals first | exact hs | exact h.toCalm.setWatch hs _ _ _ _

theorem watchResumeBody (f : Frame) : P (watchResumeBody f s).1 := by
  unfold Machine.watchResumeBody; try dsimp only
  repeat' split
  all_goals first | exact hs | exact h.toActs.resume hs _ _

omit h in
theorem busyWhileLoading (body : Frame → State → State × Answer) (hb : ∀ f t, P t → P (body f t).1) (f : Frame) :
    P (busyWhileLoading body f s).1 := by
  unfold Machine.busyWhileLoading; try dsimp only
  repeat' split
  all_goals first | exact hs | exact hb f s hs

end Deeds

/-- A property kept by what one command does, a start included; a start may end it with another that follows from it, as for
`Steps`. -/
structure Course (P Q : State → Prop) : Prop extends Deeds P where
  weaken : ∀ s, P s → Q s
  receive : ∀ s f, P s → P (s.bufferFrame f)
  transmit : ∀ s, P s → P (s.updLink Endpoint.begin)
  transmitted : ∀ s, P s → P (s.updLink (fun e => { e with tx := none }))
  /-- A frame is taken, handled by a body made of writes, and answered. -/
  handled : ∀ s f rest body, s.link.rx = f :: rest → s.link.replies.length < 4 →
    (∀ (R : State → Prop), Deeds R → ∀ t, R t → R (body f t).1) → P s → P (s.handleFrame f rest body)
  power : ∀ s f, P s → P (s.updPower f)
  stop : ∀ s, P s → P s.stopPart
  loading : ∀ s kind cause levels, P s → Q (s.enterLoading kind cause levels)
  startValues : ∀ s, P s → P s.startValues
  saved : ∀ s, P s → P s.finishSave
  failed : ∀ s, P s → P s.failSave

/-- A property that the commands' parts keep is kept by every command, but for what a start that it makes leaves. -/
theorem Course.exec {P Q : State → Prop} (h : Course P Q) {s : State} (hs : P s) (i : Instr) :
    ∃ t, exec i s = .next t ∧ Q t := by
  have hb : ∀ (mine : Frame → Bool) (body : Frame → State → State × Answer),
      (∀ (R : State → Prop), Deeds R → ∀ f t, R t → R (body f t).1) → P (s.handleOldest mine body) := by
    intro mine body hbody
    unfold State.handleOldest
    split
    · exact hs
    · rename_i f rest hrx
      split
      · rename_i hc
        refine h.handled s f rest body hrx ?_ (fun R hR t ht => hbody R hR f t ht) hs
        simp only [State.mayHandle, Bool.and_eq_true, decide_eq_true_eq] at hc
        exact hc.1.1.2
      · exact hs
  have hq : ∀ (q : Request) (body : Frame → State → State × Answer),
      (∀ (R : State → Prop), Deeds R → ∀ f t, R t → R (body f t).1) → P (s.handle q body) := fun q body hbody =>
    hb _ _ (fun R hR f t ht => Deeds.busyWhileLoading ht body (fun g u hu => hbody R hR g u hu) f)
  have hrun : ∀ t : State, P t → P (if s.running then t else s) := by
    intro t ht; split
    · exact ht
    · exact hs
  have hpow : ∀ t cause levels, P t → Q (t.powerStart cause levels) := by
    intro t cause levels ht
    unfold State.powerStart; split
    · exact h.loading _ _ _ _ ht
    · exact h.loading _ _ _ _ ht
  cases i with
  | mainPowerUp levels =>
    refine ⟨_, rfl, ?_⟩; dsimp only; split_ifs
    · exact h.weaken _ hs
    · exact h.weaken _ (h.power s _ hs)
    · exact hpow _ _ _ (h.power s _ hs)
  | mainPowerLost =>
    refine ⟨_, rfl, h.weaken _ ?_⟩; split_ifs
    · exact h.power _ _ (h.stop s hs)
    · exact hs
  | resetPinAsserted => exact ⟨_, rfl, h.weaken _ (h.power _ _ (h.stop s hs))⟩
  | resetPinReleased levels =>
    refine ⟨_, rfl, ?_⟩; dsimp only; split_ifs
    · exact h.weaken _ hs
    · exact hpow _ _ _ (h.power s _ hs)
    · exact h.weaken _ (h.power s _ hs)
  | enterRunning =>
    refine ⟨_, rfl, h.weaken _ ?_⟩; split_ifs
    · refine h.toActs.kickBoth ?_
      unfold State.announceStart; dsimp only
      have h1 := h.part _ (fun p => { p with phase := .running, openMode := p.strap && decide (p.image ≠ .valid) })
        (h.startValues s hs)
      split
      · exact h.raise _ _ _ _ (h.raise _ _ _ _ h1)
      · exact h.raise _ _ _ _ h1
    · exact hs
  | requestedStart levels =>
    refine ⟨_, rfl, ?_⟩; split
    · split_ifs
      · exact h.loading _ _ _ _ hs
      · exact h.weaken _ hs
    · exact h.weaken _ hs
  | clockAdvance =>
    refine ⟨_, rfl, h.weaken _ ?_⟩; split_ifs
    · have h1 := h.toActs.flush hs
      have h2 : P s.flush.advanceTime := by
        unfold State.advanceTime
        split
        · exact h.toCalm.rollover (h.raise _ _ _ _ (h.clock _ _ h1)) _
        · unfold State.addSecond; dsimp only
          split
          · exact h.clock _ _ h1
          · exact h.toCalm.rollover (h.clock _ _ h1) _
      unfold State.advanceRunning; dsimp only
      split
      · exact h.toActs.minuteEvent (h.toActs.secondEvent h2)
      · exact h.toActs.secondEvent h2
    · exact h.clock s _ hs
    · exact hs
  | roundDeadlineReached r => exact ⟨_, rfl, h.weaken _ (hrun _ (h.toActs.takeStage hs _))⟩
  | standingRelease r => exact ⟨_, rfl, h.weaken _ (hrun _ (h.toActs.takeStage hs _))⟩
  | sampleCountdownExpiry c =>
    exact ⟨_, rfl, h.weaken _ (hrun _ (Acts.takeIf hs c _ _ (fun _ _ ht => h.toCalm.countdownExpired ht c)))⟩
  | sampleOutstandingExpiry c =>
    exact ⟨_, rfl, h.weaken _ (hrun _ (Acts.takeIf hs c _ _ (fun _ _ ht => h.toCalm.outstandingExpired ht c)))⟩
  | grantWindowExpiry c =>
    exact ⟨_, rfl, h.weaken _ (hrun _ (Acts.takeIf hs c _ _ (fun _ hdue ht => h.grantExpired ht c hdue)))⟩
  | serviceWindowExpiry c =>
    exact ⟨_, rfl, h.weaken _ (hrun _ (Acts.takeIf hs c _ _ (fun _ hdue ht => h.serviceExpired ht c hdue)))⟩
  | liftLimitExpiry c =>
    exact ⟨_, rfl, h.weaken _ (hrun _ (Acts.takeIf hs c _ _ (fun _ hdue ht => h.liftExpired ht c hdue)))⟩
  | settleTimeExpiry c =>
    exact ⟨_, rfl, h.weaken _ (hrun _ (Acts.takeIf hs c _ _ (fun _ hdue ht => h.settled ht c hdue)))⟩
  | holdTimeout => exact ⟨_, rfl, h.weaken _ (hrun _ (h.toActs.takeHold hs))⟩
  | responseWindowExpired l =>
    refine ⟨_, rfl, h.weaken _ ?_⟩; split
    · exact h.toActs.exchangeFailed hs _ _
    · exact hs
  | lineFrameSent l =>
    refine ⟨_, rfl, h.weaken _ (h.line s _ _ ?_ hs)⟩
    exact fun _ => le_refl _
  | lineFrameReceived l m bytes =>
    refine ⟨_, rfl, h.weaken _ ?_⟩; split
    · split_ifs
      · exact h.toActs.frameArrives hs _ _ _
      · exact hs
    · exact hs
  | backhaulFrameReceived bytes =>
    refine ⟨_, rfl, h.weaken _ ?_⟩; split_ifs
    · split
      · exact h.receive s _ hs
      · exact hs
    · exact hs
  | backhaulTransmitBegin =>
    refine ⟨_, rfl, h.weaken _ ?_⟩; split_ifs
    · exact h.transmit s hs
    · exact hs
  | backhaulTransmitDone =>
    refine ⟨_, rfl, h.weaken _ ?_⟩; split_ifs
    · exact h.transmitted s hs
    · exact hs
  | unknownRequest => exact ⟨_, rfl, h.weaken _ (hq _ _ (fun _ _ f _ ht => Deeds.unknownBody ht f))⟩
  | relayStationCmd => exact ⟨_, rfl, h.weaken _ (hq _ _ (fun _ hQ f _ ht => hQ.relayBody ht f))⟩
  | tableWrite => exact ⟨_, rfl, h.weaken _ (hq _ _ (fun _ hQ f _ ht => hQ.tableWriteBody ht f))⟩
  | tableRead => exact ⟨_, rfl, h.weaken _ (hq _ _ (fun _ _ f _ ht => Deeds.tableReadBody ht f))⟩
  | journalRead => exact ⟨_, rfl, h.weaken _ (hq _ _ (fun _ _ f _ ht => Deeds.journalReadBody ht f))⟩
  | journalRelease => exact ⟨_, rfl, h.weaken _ (hq _ _ (fun _ hQ f _ ht => hQ.journalReleaseBody ht f))⟩
  | noticeFlagsRead => exact ⟨_, rfl, h.weaken _ (hq _ _ (fun _ _ f _ ht => Deeds.noticeFlagsReadBody ht f))⟩
  | noticeFlagsClear => exact ⟨_, rfl, h.weaken _ (hq _ _ (fun _ hQ f _ ht => hQ.noticeFlagsClearBody ht f))⟩
  | setTime => exact ⟨_, rfl, h.weaken _ (hq _ _ (fun _ hQ f _ ht => hQ.setTimeBody ht f))⟩
  | statusRead => exact ⟨_, rfl, h.weaken _ (hb _ _ (fun _ _ f _ ht => Deeds.statusReadBody ht f))⟩
  | imageSave => exact ⟨_, rfl, h.weaken _ (hq _ _ (fun _ hQ f _ ht => hQ.imageSaveBody ht f))⟩
  | imageSaveComplete ok =>
    refine ⟨_, rfl, h.weaken _ ?_⟩; split_ifs
    · exact h.raise _ _ _ _ (h.saved s hs)
    · exact h.raise _ _ _ _ (h.failed s hs)
    · exact hs
  | tablesClear => exact ⟨_, rfl, h.weaken _ (hq _ _ (fun _ hQ f _ ht => hQ.tablesClearBody ht f))⟩
  | restart => exact ⟨_, rfl, h.weaken _ (hq _ _ (fun _ hQ f _ ht => hQ.restartBody ht f))⟩
  | roundDraft => exact ⟨_, rfl, h.weaken _ (hq _ _ (fun _ hQ f _ ht => hQ.roundDraftBody ht f))⟩
  | roundRelease => exact ⟨_, rfl, h.weaken _ (hq _ _ (fun _ hQ f _ ht => hQ.roundCommandBody ht _ f))⟩
  | roundClose => exact ⟨_, rfl, h.weaken _ (hq _ _ (fun _ hQ f _ ht => hQ.roundCommandBody ht _ f))⟩
  | roundAbort => exact ⟨_, rfl, h.weaken _ (hq _ _ (fun _ hQ f _ ht => hQ.roundCommandBody ht _ f))⟩
  | containerBar =>
    exact ⟨_, rfl, h.weaken _ (
      hq _ _ (fun _ hQ f _ ht => Deeds.containerBody ht _ (fun _ c hu => hQ.toActs.barByCenter hu c) _ f))⟩
  | containerUnbar =>
    exact ⟨_, rfl, h.weaken _ (hq _ _ (fun _ hQ f _ ht =>
      Deeds.containerBody ht _ (fun _ c hu => hQ.toActs.unbarByCenter hu c) _ f))⟩
  | sensorClear =>
    exact ⟨_, rfl, h.weaken _ (
      hq _ _ (fun _ hQ f _ ht => Deeds.containerBody ht _ (fun _ c hu => hQ.toCalm.clearSensor hu c) _ f))⟩
  | forceDue => exact ⟨_, rfl, h.weaken _ (hq _ _ (fun _ hQ f _ ht => hQ.forceDueBody ht f))⟩
  | watchSet => exact ⟨_, rfl, h.weaken _ (hq _ _ (fun _ hQ f _ ht => hQ.watchSetBody ht f))⟩
  | watchResumeContinue =>
    exact ⟨_, rfl, h.weaken _ (
      hb _ _ (fun _ hQ f _ ht => Deeds.busyWhileLoading ht _ (fun g _ hu => hQ.watchResumeBody hu g) f))⟩
  | watchResumeStep =>
    exact ⟨_, rfl, h.weaken _ (
      hb _ _ (fun _ hQ f _ ht => Deeds.busyWhileLoading ht _ (fun g _ hu => hQ.watchResumeBody hu g) f))⟩
  | watchResumeDiscard =>
    exact ⟨_, rfl, h.weaken _ (
      hb _ _ (fun _ hQ f _ ht => Deeds.busyWhileLoading ht _ (fun g _ hu => hQ.watchResumeBody hu g) f))⟩
  | backupSupplyLost => exact ⟨_, rfl, h.weaken _ (h.power s _ hs)⟩

theorem after_of_course {P Q : State → Prop} (h : Course P Q) (hqueue : ∀ s q, P s → P { s with pending := q })
    {s t : State} (hs : P s) (hstep : step s = .next t) : Q t :=
  after_of_exec (fun _ hu c => h.exec hu c) h.weaken hqueue hs hstep

end Sys2Proof.Machine
end

section
/-! PROOFS. Clamped bytes of a record's length have every numeric quantity in its range, so the record they are read as is
legal (R182). -/

namespace Sys2Proof.Machine

/-! ### Fields of clamped bytes -/

theorem field_lt (b : List Byte) (o n : Nat) : field b o n < 256 ^ n :=
  (ofBe_lt _).trans_le (Nat.pow_le_pow_right (by omega) (by simp))

theorem field_one_le (b : List Byte) (o : Nat) : field b o 1 ≤ 255 := by
  have := field_lt b o 1; omega

theorem field_two_le (b : List Byte) (o : Nat) : field b o 2 ≤ 65535 := by
  have := field_lt b o 2; omega

/-- A quantity that lies inside bytes of a length, with a range its bytes can spell. -/
def NumField.fits (n : NumField) (length : Nat) : Bool :=
  decide (n.offset + n.len ≤ length) && decide (n.lo ≤ n.hi) && decide (n.hi < 256 ^ n.len)

/-- Two quantities that share no byte. -/
def NumField.apart (m n : NumField) : Bool :=
  decide (m.offset + m.len ≤ n.offset) || decide (n.offset + n.len ≤ m.offset)

section
variable {b : List Byte} {m n : NumField}

theorem length_clampField (h : n.offset + n.len ≤ b.length) : (clampField b n).length = b.length := by
  simp [clampField]; omega

theorem field_clampField_same (h : n.fits b.length = true) :
    field (clampField b n) n.offset n.len = clamp n.lo n.hi (field b n.offset n.len) := by
  simp only [NumField.fits, Bool.and_eq_true, decide_eq_true_eq] at h
  obtain ⟨⟨hinside, hrange⟩, hhi⟩ := h
  have htake : (b.take n.offset).length = n.offset := by simp; omega
  have hdrop : (clampField b n).drop n.offset =
      be n.len (clamp n.lo n.hi (field b n.offset n.len)) ++ b.drop (n.offset + n.len) := by
    unfold clampField
    rw [List.append_assoc, List.drop_left' htake]
  have hclamp : clamp n.lo n.hi (field b n.offset n.len) < 256 ^ n.len := by unfold clamp; omega
  unfold field at *
  rw [hdrop, List.take_left' (length_be _ _), ofBe_be hclamp]

theorem field_clampField_apart (hm : m.fits b.length = true) (happart : m.apart n = true) :
    field (clampField b m) n.offset n.len = field b n.offset n.len := by
  simp only [NumField.fits, NumField.apart, Bool.and_eq_true, Bool.or_eq_true, decide_eq_true_eq] at hm happart
  unfold field
  congr 1
  apply List.ext_getElem?
  intro i
  by_cases hi : i < n.len
  · rw [List.getElem?_take_of_lt hi, List.getElem?_take_of_lt hi, List.getElem?_drop, List.getElem?_drop]
    unfold clampField
    have htake : (b.take m.offset).length = m.offset := by simp; omega
    rcases happart with h | h
    · rw [List.getElem?_append_right (by simp; omega), List.getElem?_drop]
      congr 1
      simp; omega
    · rw [List.append_assoc, List.getElem?_append_left (by simp; omega), List.getElem?_take_of_lt (by omega)]
  · rw [List.getElem?_take_eq_none (by omega), List.getElem?_take_eq_none (by omega)]

end

/-- Clamping quantities that share no byte brings each into its range. -/
theorem field_foldl_clampField {l : List NumField} (hapart : l.Pairwise (fun m n => m.apart n = true ∧ n.apart m = true))
    {b : List Byte} (hfits : ∀ n ∈ l, n.fits b.length = true) :
    ∀ n ∈ l, n.lo ≤ field (l.foldl clampField b) n.offset n.len ∧ field (l.foldl clampField b) n.offset n.len ≤ n.hi := by
  have hkept : ∀ (k : List NumField) (n : NumField) (b : List Byte), (∀ m ∈ k, m.fits b.length = true) →
      (∀ m ∈ k, m.apart n = true) → field (k.foldl clampField b) n.offset n.len = field b n.offset n.len := by
    intro k n
    induction k with
    | nil => exact fun _ _ _ => rfl
    | cons m k ih =>
      intro b hfits hn
      have hm : m.fits b.length = true := hfits m (by simp)
      have hlength : (clampField b m).length = b.length :=
        length_clampField (by simp only [NumField.fits, Bool.and_eq_true, decide_eq_true_eq] at hm; omega)
      rw [List.foldl_cons, ih _ (fun a ha => by rw [hlength]; exact hfits a (by simp [ha])) (fun a ha => hn a (by simp [ha])),
        field_clampField_apart hm (hn m (by simp))]
  induction l generalizing b with
  | nil => simp
  | cons m l ih =>
    rw [List.pairwise_cons] at hapart
    have hm : m.fits b.length = true := hfits m (by simp)
    have hlength : (clampField b m).length = b.length :=
      length_clampField (by simp only [NumField.fits, Bool.and_eq_true, decide_eq_true_eq] at hm; omega)
    have hrest : ∀ n ∈ l, n.fits (clampField b m).length = true := fun n hn => by
      rw [hlength]; exact hfits n (by simp [hn])
    intro n hn
    rcases List.mem_cons.mp hn with rfl | hn
    · rw [List.foldl_cons, hkept l n _ hrest (fun a ha => (hapart.1 a ha).2), field_clampField_same hm]
      simp only [NumField.fits, Bool.and_eq_true, decide_eq_true_eq] at hm
      unfold clamp
      omega
    · exact ih hapart.2 hrest n hn

/-- Every numeric quantity of clamped bytes of a record's length lies in its range (R182 step 7). -/
theorem field_clampBytes {t : Table} {b : List Byte} (hb : b.length = t.configLength) :
    ∀ n ∈ t.numeric, n.lo ≤ field (t.clampBytes b) n.offset n.len ∧ field (t.clampBytes b) n.offset n.len ≤ n.hi := by
  refine field_foldl_clampField ?_ ?_
  · cases t <;> decide
  · rw [hb]; cases t <;> decide

/-! ### A record read is legal -/

theorem indexOrNone_lt {v ofNone bound a : Nat} {r : Option Nat} (h : indexOrNone v ofNone bound = some r)
    (hr : r = some a) : a < bound ∧ a ≠ ofNone := by
  unfold indexOrNone at h
  split at h
  · simp_all
  next hne =>
    split at h
    next hlt =>
      rw [← Option.some.inj h] at hr
      cases hr
      exact ⟨hlt, hne⟩
    · simp at h

theorem nonDecreasing_getElem {l : List Nat} (h : nonDecreasing l = true) {k : Nat} (hk : k + 1 < l.length) :
    l[k] ≤ l[k + 1] := by
  induction l generalizing k with
  | nil => simp at hk
  | cons a l ih =>
    cases l with
    | nil => simp at hk
    | cons b rest =>
      simp only [nonDecreasing, Bool.and_eq_true, decide_eq_true_eq] at h
      cases k with
      | zero => exact h.1
      | succ k => exact ih h.2 (by simpa using hk)

/-- What the ranges of the tables say of one record. -/
def Record.legal : Record → Prop
  | .parameters p => p.legal
  | .station p => p.bank ≤ 15 ∧ 5 ≤ p.grantWindow ∧ p.grantWindow ≤ 60 ∧ 1 ≤ p.slotCount ∧ p.slotCount ≤ 4
  | .bank p => p.displayNumber ≤ 255
  | .fraction p => p.nominal ≤ 255
  | .shape p => p.legal
  | .container p => p.legal
  | .card p => p.generation ≤ 15 ∧ ∀ h, p.household = some h → h ≤ 2047
  | .household p => ∀ f, p.allowance.get f ≤ 255
  | .round p stops => p.releaseTime ≤ 86399 ∧ 10 ≤ p.deadlineLen ∧ p.deadlineLen ≤ 1440 ∧ stops.length ≤ 24 ∧
      ∀ n, p.crew = some n → 1 ≤ n ∧ n ≤ 4095
  | .noticeClass n => n ≤ 3

theorem parseShape_legal {b : List Byte} {p : Shape} (h : parseShape b = some p) : p.legal := by
  unfold parseShape at h
  dsimp only at h
  split at h
  next hc =>
    obtain ⟨hhead, hlast, hmono⟩ := hc
    rw [← Option.some.inj h]
    refine ⟨by simp, ?_, ?_, fun k hk => ?_⟩
    · simpa [Shape.point, List.range_succ] using hhead
    · simpa [Shape.point, List.range_succ] using hlast
    · have := nonDecreasing_getElem hmono (k := k) (by simp; omega)
      simpa [Shape.point, List.getElem?_eq_getElem, show k < 9 by omega, show k + 1 < 9 by omega] using this
  · simp at h

section
variable {b : List Byte}

theorem parseParams_legal (hb : b.length = Table.configLength .parameters) :
    (parseParams (Table.clampBytes .parameters b)).legal := by
  have hfields := field_clampBytes hb
  simp only [Table.numeric, List.forall_mem_cons, List.not_mem_nil, false_implies, implies_true, and_true] at hfields
  obtain ⟨⟨h1, h2⟩, ⟨h3, h4⟩, ⟨h5, h6⟩, ⟨h7, h8⟩, ⟨h9, h10⟩, h11, h12⟩ := hfields
  generalize Table.clampBytes .parameters b = bytes at *
  exact ⟨field_two_le _ _, h1, h2, h3, h4, field_two_le _ _, h5, h6, h7, h8, h9, h10, h11, h12⟩

theorem parseStation_legal {p : StationCfg} (hb : b.length = Table.configLength .station)
    (h : parseStation (Table.clampBytes .station b) = some p) : (Record.station p).legal := by
  have hfields := field_clampBytes hb
  simp only [Table.numeric, List.forall_mem_cons, List.not_mem_nil, false_implies, implies_true, and_true] at hfields
  obtain ⟨⟨h1, h2⟩, h3, h4⟩ := hfields
  generalize Table.clampBytes .station b = bytes at *
  unfold parseStation at h
  split at h
  · split at h
    next hbank =>
      rw [← Option.some.inj h]
      exact ⟨Nat.le_of_lt_succ hbank, h1, h2, h3, h4⟩
    · simp at h
  · simp at h

theorem parseContainer_legal {p : ContainerCfg} (hb : b.length = Table.configLength .container)
    (h : parseContainer (Table.clampBytes .container b) = some p) : p.legal := by
  have hfields := field_clampBytes hb
  simp only [Table.numeric, List.forall_mem_cons, List.not_mem_nil, false_implies, implies_true, and_true] at hfields
  obtain ⟨⟨c1, c2⟩, ⟨h1, h2⟩, ⟨-, d2⟩, ⟨w1, w2⟩, ⟨-, t2⟩, ⟨-, s2⟩, ⟨-, q2⟩, ⟨i1, i2⟩, ⟨-, e2⟩, ⟨a1, -⟩, ⟨-, f2⟩, ⟨k1, k2⟩,
    -, r2⟩ := hfields
  generalize Table.clampBytes .container b = bytes at *
  unfold parseContainer at h
  split at h
  next alt _ _ halt =>
    split at h
    next hc =>
      rw [← Option.some.inj h]
      exact ⟨c1, c2, h1, h2, d2, Nat.le_of_lt_succ hc.1, w1, w2, t2, s2, q2, i1, i2, e2, a1, hc.2, f2, k1, k2, r2,
        fun a ha => by have := indexOrNone_lt halt ha; omega⟩
    · simp at h
  · simp at h

theorem parseCardRecord_legal {p : CardCfg} (hb : b.length = Table.configLength .card)
    (h : parseCardRecord (Table.clampBytes .card b) = some p) : (Record.card p).legal := by
  have hfields := field_clampBytes hb
  simp only [Table.numeric, List.forall_mem_cons, List.not_mem_nil, false_implies, implies_true, and_true] at hfields
  generalize Table.clampBytes .card b = bytes at *
  unfold parseCardRecord at h
  split at h
  next hh _ _ hhouse =>
    split at h
    · rw [← Option.some.inj h]
      exact ⟨hfields.2, fun a ha => by have := indexOrNone_lt hhouse ha; omega⟩
    · simp at h
  · simp at h

theorem parseHousehold_legal {p : HouseholdCfg} (h : parseHousehold b = some p) : (Record.household p).legal := by
  obtain ⟨_, -, rfl⟩ := Option.map_eq_some_iff.mp h
  intro f
  cases f <;> exact field_one_le _ _

theorem parseRound_legal {p : RoundCfg} {stops : List Nat} (hb : b.length = Table.configLength .round)
    (h : parseRound (Table.clampBytes .round b) = some (p, stops)) : (Record.round p stops).legal := by
  have hfields := field_clampBytes hb
  simp only [Table.numeric, List.forall_mem_cons, List.not_mem_nil, false_implies, implies_true, and_true] at hfields
  obtain ⟨⟨-, h1⟩, h2, h3⟩ := hfields
  generalize Table.clampBytes .round b = bytes at *
  unfold parseRound at h
  dsimp only at h
  split at h
  next crew _ _ hcrew _ =>
    split at h
    next hc =>
      obtain ⟨rfl, rfl⟩ := Prod.mk.inj (Option.some.inj h)
      refine ⟨h1, h2, h3, ?_, fun n hn => ?_⟩
      · rw [List.length_map, List.length_take]
        exact (Nat.min_le_left _ _).trans hc.1
      · have := indexOrNone_lt hcrew hn
        omega
    · simp at h
  · simp at h

/-- A record that clamped bytes of its table's length are read as is legal (R182). -/
theorem legal_of_parse {t : Table} {r : Record} (hb : b.length = t.configLength) (h : t.parse (t.clampBytes b) = some r) :
    r.legal := by
  cases t <;> simp only [Table.parse, Option.map_eq_some_iff] at h
  case parameters => cases h; exact parseParams_legal hb
  case station => obtain ⟨p, hp, rfl⟩ := h; exact parseStation_legal hb hp
  case bank =>
    obtain ⟨p, hp, rfl⟩ := h
    obtain ⟨_, -, rfl⟩ := Option.map_eq_some_iff.mp hp
    exact field_one_le _ _
  case fraction =>
    obtain ⟨p, hp, rfl⟩ := h
    obtain ⟨_, -, rfl⟩ := Option.map_eq_some_iff.mp hp
    exact field_one_le _ _
  case shape => obtain ⟨p, hp, rfl⟩ := h; exact parseShape_legal hp
  case container => obtain ⟨p, hp, rfl⟩ := h; exact parseContainer_legal hb hp
  case card => obtain ⟨p, hp, rfl⟩ := h; exact parseCardRecord_legal hb hp
  case household => obtain ⟨p, hp, rfl⟩ := h; exact parseHousehold_legal hp
  case round => obtain ⟨⟨p, stops⟩, hp, rfl⟩ := h; exact parseRound_legal hb hp
  case noticeClass => cases h; exact (field_clampBytes hb ⟨0, 1, 0, 3⟩ (by decide)).2

end

/-- A record that is loaded, whatever the image holds, is legal (R188; log 8). -/
theorem legal_of_load {t : Table} {i : Nat} {stored : List Byte} {r : Record} (hb : stored.length = t.configLength)
    (h : t.load i stored = some r) : r.legal := by
  unfold Table.load at h
  split at h
  next r' hread =>
    cases h
    split at hread
    next hclamped =>
      rw [← hclamped] at hread
      exact legal_of_parse hb hread
    · simp at hread
  · exact legal_of_parse (length_exactly _ _) h

theorem legal_of_loadRecord {cells : List Host.Cell} {t : Table} {i : Nat} {r : Record}
    (h : loadRecord cells t i = some r) : r.legal :=
  legal_of_load (by simp [Memory.bytes]) h

end Sys2Proof.Machine
end

section
/-! PROOFS. Every step keeps the configuration in its ranges and by the cross-field rules, and the statement on both (R136,
R182; log 8). -/

namespace Sys2Proof.Machine

/-! ### The ranges -/

/-- A round's configuration lies in its ranges, and it has at most 24 stops (R136). -/
def Round.inRanges (d : Round) : Prop :=
  d.cfg.releaseTime ≤ 86399 ∧ 10 ≤ d.cfg.deadlineLen ∧ d.cfg.deadlineLen ≤ 1440 ∧ d.stops.length ≤ 24 ∧
    ∀ n, d.cfg.crew = some n → 1 ≤ n ∧ n ≤ 4095

/-- Every configured quantity lies in its range, table by table (R182). -/
structure State.InRanges (s : State) : Prop where
  params : s.params.legal
  stations : ∀ i, (Record.station (s.station i).cfg).legal
  banks : ∀ i, (s.bank i).displayNumber ≤ 255
  fractions : ∀ f, (s.fraction f).nominal ≤ 255
  shapes : ∀ i, (s.shape i).legal
  containers : ∀ c, (s.container c).cfg.legal
  cards : ∀ i, (Record.card (s.card i).cfg).legal
  households : ∀ h, (Record.household (s.household h).cfg).legal
  rounds : ∀ r, (s.round r).inRanges
  priorities : ∀ n, (s.noticeClass n).priority ≤ 3

theorem State.configLegal_iff (s : State) : s.configLegal ↔ s.InRanges := by
  constructor
  · rintro ⟨h1, h2, h3, h4, h5, h6, h7, h8, h9, h10⟩
    exact ⟨h1, h2, h3, h4, h5, h6, h7, h8, h9, h10⟩
  · rintro ⟨h1, h2, h3, h4, h5, h6, h7, h8, h9, h10⟩
    exact ⟨h1, h2, h3, h4, h5, h6, h7, h8, h9, h10⟩

/-- Round matching appends a stop only to a round with room for it (R153). -/
theorem appendRound_room {s : State} {c i r : Nat} (h : s.appendRound c i = some r) : (s.round r).stops.length < 24 := by
  unfold State.appendRound at h
  split at h
  · simp at h
  · have := List.find?_some h
    simp only [Bool.and_eq_true, decide_eq_true_eq] at this
    exact this.1.2

theorem Round.inRanges_of_keepsPlan {d e : Round} (h : d.keepsPlan e) (hd : d.inRanges) : e.inRanges := by
  obtain ⟨hcfg, hstops⟩ := h
  have hlength := hstops.length_le
  simp only [List.length_map] at hlength
  obtain ⟨h1, h2, h3, h4, h5⟩ := hd
  unfold Round.inRanges
  rw [hcfg]
  exact ⟨h1, h2, h3, hlength.trans h4, h5⟩

section
variable {s : State}

/-- The configurations of the containers after a change that keeps that of the one it changes. -/
theorem cfg_updContainer (c : Nat) (f : Container → Container) (hf : ∀ k, (f k).cfg = k.cfg) (d : Nat) :
    ((s.updContainer c f).container d).cfg = (s.container d).cfg := by
  rw [State.container_updContainer]
  split
  next hd => rw [hd, hf]
  · rfl

theorem cfg_setStatus (c : Nat) (st : FillStatus) (n d : Nat) :
    ((s.setStatus c st n).container d).cfg = (s.container d).cfg := by
  rw [container_setStatus]
  split
  next hd => rw [hd]
  · rfl

theorem cfg_mapContainers (h : s.containers.wf Container.blank = true) (f : Nat → Container → Container)
    (hblank : ∀ c, f c Container.blank = Container.blank) (hf : ∀ c k, (f c k).cfg = k.cfg) (d : Nat) :
    (State.container { s with containers := Tab.map Container.blank f s.containers } d).cfg = (s.container d).cfg := by
  show (Tab.get Container.blank (Tab.map Container.blank f s.containers) d).cfg = _
  rw [Tab.get_map (hblank d) h, hf]
  rfl

theorem priority_raise (n : Notice) (a : Option Nat) (v k : Nat) :
    ((s.raise n a v).noticeClass k).priority = (s.noticeClass k).priority := by
  by_cases hk : k = n.number
  · subst hk
    rw [State.noticeClass_raise_same]; rfl
  · rw [noticeClass_raise _ _ _ _ _ hk]

variable (h : s.InRanges)
include h

theorem State.InRanges.updContainer (c : Nat) (f : Container → Container) (hf : (f (s.container c)).cfg.legal) :
    (s.updContainer c f).InRanges :=
  { h with
    containers := fun d => by
      rw [State.container_updContainer]
      split
      · exact hf
      · exact h.containers d }

theorem State.InRanges.keptContainer (c : Nat) (f : Container → Container) (hf : ∀ k, (f k).cfg = k.cfg) :
    (s.updContainer c f).InRanges := h.updContainer c f (by rw [hf]; exact h.containers c)

theorem State.InRanges.rederive (c : Nat) : (s.rederive c).InRanges := { h with }

theorem State.InRanges.updStation (i : Nat) (f : Station → Station)
    (hf : (Record.station (f (s.station i)).cfg).legal) : (s.updStation i f).InRanges :=
  { h with
    stations := fun j => by
      rw [State.station_updStation]
      split
      · exact hf
      · exact h.stations j }

theorem State.InRanges.updCard (i : Nat) (f : Card → Card) (hf : (Record.card (f (s.card i)).cfg).legal) :
    (s.updCard i f).InRanges :=
  { h with
    cards := fun j => by
      rw [State.card_updCard]
      split
      · exact hf
      · exact h.cards j }

theorem State.InRanges.updHousehold (i : Nat) (f : Household → Household)
    (hf : (Record.household (f (s.household i)).cfg).legal) : (s.updHousehold i f).InRanges :=
  { h with
    households := fun j => by
      rw [State.household_updHousehold]
      split
      · exact hf
      · exact h.households j }

theorem State.InRanges.updRound (r : Nat) (f : Round → Round) (hf : (f (s.round r)).inRanges) :
    (s.updRound r f).InRanges :=
  { h with
    rounds := fun q => by
      rw [State.round_updRound]
      split
      · exact hf
      · exact h.rounds q }

theorem State.InRanges.mapContainers (hwf : s.containers.wf Container.blank = true) (f : Nat → Container → Container)
    (hblank : ∀ c, f c Container.blank = Container.blank) (hf : ∀ c k, (f c k).cfg = k.cfg) :
    State.InRanges { s with containers := Tab.map Container.blank f s.containers } :=
  { h with
    containers := fun d => by
      rw [cfg_mapContainers hwf f hblank hf]
      exact h.containers d }

theorem State.InRanges.mapRounds (hwf : s.rounds.wf Round.blank = true) (f : Nat → Round → Round)
    (hblank : ∀ r, f r Round.blank = Round.blank) (hf : ∀ r (d : Round), d.keepsPlan (f r d)) :
    State.InRanges { s with rounds := Tab.map Round.blank f s.rounds } :=
  { h with
    rounds := fun r => by
      show (Tab.get Round.blank (Tab.map Round.blank f s.rounds) r).inRanges
      rw [Tab.get_map (hblank r) hwf]
      exact Round.inRanges_of_keepsPlan (hf r _) (h.rounds r) }

theorem State.InRanges.setBank {p : Bank} (i : Nat) (hp : p.displayNumber ≤ 255) :
    State.InRanges { s with banks := Tab.set Bank.blank s.banks i p } :=
  { h with
    banks := fun j => by
      show (Tab.get Bank.blank (Tab.set Bank.blank s.banks i p) j).displayNumber ≤ 255
      rw [Tab.get_set]
      split
      · exact hp
      · exact h.banks j }

theorem State.InRanges.setFraction {p : FractionRec} (i : Nat) (hp : p.nominal ≤ 255) :
    State.InRanges { s with fractions := Tab.set FractionRec.blank s.fractions i p } :=
  { h with
    fractions := fun f => by
      show (Tab.get FractionRec.blank (Tab.set FractionRec.blank s.fractions i p) f.code).nominal ≤ 255
      rw [Tab.get_set]
      split
      · exact hp
      · exact h.fractions f }

theorem State.InRanges.setShape {p : Shape} (i : Nat) (hp : p.legal) :
    State.InRanges { s with shapes := Tab.set Shape.blank s.shapes i p } :=
  { h with
    shapes := fun j => by
      show (Tab.get Shape.blank (Tab.set Shape.blank s.shapes i p) j).legal
      rw [Tab.get_set]
      split
      · exact hp
      · exact h.shapes j }

theorem State.InRanges.setPriority {n : Nat} (i : Nat) (hn : n ≤ 3) :
    (s.updClass i (fun c => { c with priority := n })).InRanges :=
  { h with
    priorities := fun k => by
      rw [State.noticeClass_updClass]
      split
      · exact hn
      · exact h.priorities k }

theorem State.InRanges.clearFlags (hwf : s.classes.wf NoticeClass.blank = true) (set : Nat) :
    (s.clearFlags set).InRanges :=
  { h with
    priorities := fun n => by
      rw [State.noticeClass_clearFlags hwf]
      split <;> exact h.priorities n }

theorem State.InRanges.updLine (l : Line) (f : LineState → LineState) : (s.updLine l f).InRanges := by
  cases l <;> exact { h with }

theorem State.InRanges.raise (n : Notice) (a : Option Nat) (v : Nat) : (s.raise n a v).InRanges := by
  have hpriorities : ∀ k, ((s.raise n a v).noticeClass k).priority ≤ 3 := fun k => by
    rw [priority_raise]; exact h.priorities k
  rw [raise_form] at hpriorities ⊢
  exact { h with priorities := hpriorities }

theorem State.InRanges.setStatus (c : Nat) (st : FillStatus) (n : Nat) : (s.setStatus c st n).InRanges := by
  have hcontainers : ∀ d, ((s.setStatus c st n).container d).cfg.legal := fun d => by
    rw [cfg_setStatus]; exact h.containers d
  rw [setStatus_form] at hcontainers ⊢
  exact { h with containers := hcontainers }

theorem State.InRanges.abandonSave : s.abandonSave.InRanges := by
  by_cases hsaving : s.part.saving = true
  · rw [State.abandonSave, if_pos hsaving]
    exact { h with }
  · rw [State.abandonSave, if_neg hsaving]
    exact h

end

theorem small_inRanges : Small (fun t => t.Canonical ∧ t.InRanges) where
  fillOnly := fun _ c f _ _ hcfg h => ⟨h.1.updContainer c f, h.2.keptContainer c f hcfg⟩
  setStatus := fun _ c st n h => ⟨h.1.setStatus c st n, h.2.setStatus c st n⟩
  setForced := fun s c b h => ⟨small_canonical.setForced s c b h.1, (h.2.keptContainer c _ (by exact fun _ => rfl)).rederive c⟩
  setMissed := fun s c h => ⟨small_canonical.setMissed s c h.1, (h.2.keptContainer c _ (by exact fun _ => rfl)).rederive c⟩
  clearMarks := fun s c h => ⟨small_canonical.clearMarks s c h.1, (h.2.keptContainer c _ (by exact fun _ => rfl)).rederive c⟩
  station := fun s i f hf h =>
    ⟨small_canonical.station s i f hf h.1, h.2.updStation i f (by rw [hf]; exact h.2.stations i)⟩
  card := fun s i f hf h => ⟨small_canonical.card s i f hf h.1, h.2.updCard i f (by rw [hf]; exact h.2.cards i)⟩
  household := fun s i f hf h =>
    ⟨small_canonical.household s i f hf h.1, h.2.updHousehold i f (by rw [hf]; exact h.2.households i)⟩
  round := fun _ r f hf h => ⟨h.1.updRound r f, h.2.updRound r f (Round.inRanges_of_keepsPlan (hf _) (h.2.rounds r))⟩
  appendStop := fun s c i r _ hr h => ⟨h.1.updRound r _, h.2.updRound r _ (by
    obtain ⟨h1, h2, h3, -, h5⟩ := h.2.rounds r
    refine ⟨h1, h2, h3, ?_, h5⟩
    rw [List.length_append, List.length_singleton]
    exact appendRound_room hr)⟩
  rounds := fun s f hblank hf h => ⟨small_canonical.rounds s f hblank hf h.1, h.2.mapRounds h.1.rounds f hblank hf⟩
  planner := fun s f hf h => ⟨small_canonical.planner s f hf h.1, { h.2 with }⟩
  watch := fun s f hf h => ⟨small_canonical.watch s f hf h.1, { h.2 with }⟩
  line := fun _ l f _ h => ⟨h.1.updLine l f, h.2.updLine l f⟩
  journal := fun s f h => ⟨small_canonical.journal s f h.1, { h.2 with }⟩
  raise := fun _ n a v h => ⟨h.1.raise n a v, h.2.raise n a v⟩
  toCenter := fun s i f hroom h => ⟨small_canonical.toCenter s i f hroom h.1, { h.2 with }⟩
  takeParked := fun s p hp hkeeps h => ⟨small_canonical.takeParked s p hp hkeeps h.1, { h.2 with }⟩
  containers := fun s f hblank hclass hcfg h => ⟨small_canonical.containers s f hblank hclass hcfg h.1,
    h.2.mapContainers h.1.containers f hblank hcfg⟩
  container := fun _ c f _ hcfg h => ⟨h.1.updContainer c f, h.2.keptContainer c f hcfg⟩

/-! ### Writes -/

theorem Record.legal_of_written {s : State} {i : Nat} {r : Record} (h : Record.written s i r) : r.legal := by
  obtain ⟨t, bytes, hlength, hparse, -, -, -⟩ := h
  exact legal_of_parse hlength hparse

theorem Round.inRanges_of_legal {p : RoundCfg} {stops : List Nat} (h : (Record.round p stops).legal) (d : Round)
    (hcfg : d.cfg = p) (hstops : d.stops.length = stops.length) : d.inRanges := by
  unfold Round.inRanges
  rw [hcfg, hstops]
  exact h

theorem deeds_inRanges : Deeds (fun t => t.Canonical ∧ t.InRanges) where
  toActs := Acts.of_small small_inRanges
  release := fun h _ => ⟨{ h.1 with }, { h.2 with }⟩
  relay := fun _ _ _ _ h => ⟨h.1.updLine _ _, h.2.updLine _ _⟩
  params := fun _ _ _ hp h => ⟨{ h.1 with }, { h.2 with params := Record.legal_of_written hp }⟩
  stationCfg := fun _ i _ hp h =>
    ⟨{ h.1 with stations := Tab.wf_set h.1.stations }, h.2.updStation i _ (Record.legal_of_written hp)⟩
  cardCfg := fun _ i _ hp h => ⟨{ h.1 with cards := Tab.wf_set h.1.cards }, h.2.updCard i _ (Record.legal_of_written hp)⟩
  householdCfg := fun _ i _ hp h =>
    ⟨{ h.1 with households := Tab.wf_set h.1.households }, h.2.updHousehold i _ (Record.legal_of_written hp)⟩
  writeRound := fun _ r _ _ hp h => ⟨h.1.updRound r _, h.2.updRound r _
    (Round.inRanges_of_legal (Record.legal_of_written hp) _ rfl (List.length_map _))⟩
  draft := fun s r f n _ hn _ h => ⟨h.1.updRound r _, h.2.updRound r _ (by
    obtain ⟨h1, h2, h3, -, h5⟩ := h.2.rounds r
    refine ⟨h1, h2, h3, ?_, h5⟩
    rw [List.length_map, State.draftList, List.length_take]
    exact (Nat.min_le_left _ _).trans hn)⟩
  banks := fun _ i _ hp h => ⟨{ h.1 with banks := Tab.wf_set h.1.banks }, h.2.setBank i (Record.legal_of_written hp)⟩
  fractions := fun _ i _ hp h =>
    ⟨{ h.1 with fractions := Tab.wf_set h.1.fractions }, h.2.setFraction i (Record.legal_of_written hp)⟩
  shapes := fun _ i _ hp h => ⟨{ h.1 with shapes := Tab.wf_set h.1.shapes }, h.2.setShape i (Record.legal_of_written hp)⟩
  priority := fun _ i _ hn h =>
    ⟨{ h.1 with classes := Tab.wf_set h.1.classes }, h.2.setPriority i (Record.legal_of_written hn)⟩
  clearFlags := fun _ set h => ⟨{ h.1 with classes := Tab.wf_map h.1.classes }, h.2.clearFlags h.1.classes set⟩
  clock := fun _ _ h => ⟨{ h.1 with }, { h.2 with }⟩
  part := fun _ _ h => ⟨{ h.1 with }, { h.2 with }⟩
  abandonSave := fun _ h => ⟨h.1.abandonSave, h.2.abandonSave⟩
  writeContainer := fun _ c p hp h => (Acts.of_small small_inRanges).writeContainer c p
    ⟨h.1.updContainer c _, h.2.updContainer c _ (Record.legal_of_written hp)⟩
    (fun _ ht => ⟨(ht.1.updContainer c _).rederive c, (ht.2.keptContainer c _ (by exact fun _ => rfl)).rederive c⟩)

/-! ### Starts -/

theorem Params.blank_legal : Params.blank.legal := by unfold Params.legal Params.blank; decide

theorem StationCfg.blank_legal : (Record.station StationCfg.blank).legal := by
  unfold Record.legal StationCfg.blank; decide

theorem Shape.blank_legal : Shape.blank.legal := by
  refine ⟨rfl, rfl, rfl, fun k hk => ?_⟩
  interval_cases k <;> decide

theorem ContainerCfg.blank_legal : ContainerCfg.blank.legal := by simp [ContainerCfg.legal, ContainerCfg.blank]

theorem CardCfg.blank_legal : (Record.card CardCfg.blank).legal := by simp [Record.legal, CardCfg.blank]

theorem HouseholdCfg.blank_legal : (Record.household HouseholdCfg.blank).legal := by
  intro f; cases f <;> exact Nat.zero_le _

theorem Round.blank_inRanges : Round.blank.inRanges := by simp [Round.inRanges, Round.blank, RoundCfg.blank]

section
variable (cells : List Host.Cell) (i : Nat)

theorem loadedParams_legal : (loadedParams cells).legal := by
  unfold loadedParams; split
  next hp => exact legal_of_loadRecord hp
  · exact Params.blank_legal

theorem loadedStation_legal : (Record.station (loadedStation cells i)).legal := by
  unfold loadedStation; split
  next hp => exact legal_of_loadRecord hp
  · exact StationCfg.blank_legal

theorem loadedBank_legal : (loadedBank cells i).displayNumber ≤ 255 := by
  unfold loadedBank; split
  next hp => exact legal_of_loadRecord hp
  · exact Nat.zero_le _

theorem loadedFraction_legal : (loadedFraction cells i).nominal ≤ 255 := by
  unfold loadedFraction; split
  next hp => exact legal_of_loadRecord hp
  · exact Nat.zero_le _

theorem loadedShape_legal : (loadedShape cells i).legal := by
  unfold loadedShape; split
  next hp => exact legal_of_loadRecord hp
  · exact Shape.blank_legal

theorem loadedContainer_legal : (loadedContainer cells i).legal := by
  unfold loadedContainer; split
  next hp => exact legal_of_loadRecord hp
  · exact ContainerCfg.blank_legal

theorem loadedCard_legal : (Record.card (loadedCard cells i)).legal := by
  unfold loadedCard; split
  · exact CardCfg.blank_legal
  · split
    next hp => exact legal_of_loadRecord hp
    · exact CardCfg.blank_legal

theorem loadedHousehold_legal : (Record.household (loadedHousehold cells i)).legal := by
  unfold loadedHousehold; split
  next hp => exact legal_of_loadRecord hp
  · exact HouseholdCfg.blank_legal

theorem loadedRound_legal : (Record.round (loadedRound cells i).1 (loadedRound cells i).2).legal := by
  unfold loadedRound; split
  next hp => exact legal_of_loadRecord hp
  · simp [Record.legal, RoundCfg.blank]

theorem loadedPriority_legal : loadedPriority cells i ≤ 3 := by
  unfold loadedPriority; split
  next hp => exact legal_of_loadRecord hp
  · omega

end

theorem bank_loadImage (s : State) (i : Nat) :
    s.loadImage.bank i = if i < 16 then loadedBank s.flash i else Bank.blank := Tab.get_ofFn

theorem fraction_loadImage (s : State) (f : Fraction) :
    s.loadImage.fraction f = if f.code < 6 then loadedFraction s.flash f.code else FractionRec.blank := Tab.get_ofFn

theorem shape_loadImage (s : State) (i : Nat) :
    s.loadImage.shape i = if i < 8 then loadedShape s.flash i else Shape.blank := Tab.get_ofFn

theorem State.InRanges.loadImage (s : State) : s.loadImage.InRanges where
  params := loadedParams_legal s.flash
  stations := fun i => by rw [station_loadImage]; split; exacts [loadedStation_legal _ _, StationCfg.blank_legal]
  banks := fun i => by rw [bank_loadImage]; split; exacts [loadedBank_legal _ _, Nat.zero_le _]
  fractions := fun f => by rw [fraction_loadImage]; split; exacts [loadedFraction_legal _ _, Nat.zero_le _]
  shapes := fun i => by rw [shape_loadImage]; split; exacts [loadedShape_legal _ _, Shape.blank_legal]
  containers := fun c => by
    rw [container_loadImage]
    split
    · dsimp only
      exact loadedContainer_legal s.flash c
    · exact ContainerCfg.blank_legal
  cards := fun i => by rw [card_loadImage]; split; exacts [loadedCard_legal _ _, CardCfg.blank_legal]
  households := fun i => by rw [household_loadImage]; split; exacts [loadedHousehold_legal _ _, HouseholdCfg.blank_legal]
  rounds := fun r => by
    rw [round_loadImage]
    split
    · exact Round.inRanges_of_legal (loadedRound_legal s.flash r) _ rfl (List.length_map _)
    · exact Round.blank_inRanges
  priorities := fun n => by
    rw [noticeClass_loadImage]
    split
    · split
      · decide
      · exact loadedPriority_legal _ _
    · decide

theorem State.InRanges.loadDefaults {s : State} (hwf : s.households.wf Household.blank = true) :
    s.loadDefaults.InRanges where
  params := Params.blank_legal
  stations := fun _ => StationCfg.blank_legal
  banks := fun _ => Nat.zero_le _
  fractions := fun _ => Nat.zero_le _
  shapes := fun _ => Shape.blank_legal
  containers := fun _ => ContainerCfg.blank_legal
  cards := fun _ => CardCfg.blank_legal
  households := fun h => by rw [household_loadDefaults hwf]; exact HouseholdCfg.blank_legal
  rounds := fun _ => Round.blank_inRanges
  priorities := fun _ => show NoticeClass.blank.priority ≤ 3 by decide

/-- A round at its start keeps its configuration and none but its configured stops (R135). -/
theorem Round.atStart_keepsPlan (d : Round) : d.keepsPlan d.atStart := by
  refine ⟨rfl, ?_⟩
  have : (d.cfgStops.map plannedStop).map Stop.container = d.cfgStops := by
    rw [List.map_map]; exact List.map_id'' (fun _ => rfl) _
  show ((d.cfgStops.map plannedStop).map Stop.container).Sublist _
  rw [this]
  exact List.filter_sublist.map _

theorem State.InRanges.startValues {s : State} (h : s.InRanges) (hwf : s.Canonical) : s.startValues.InRanges :=
  { h with
    stations := fun i => by rw [station_startValues]; split; exacts [h.stations i, StationCfg.blank_legal]
    containers := fun c => by rw [container_startValues]; split; exacts [h.containers c, ContainerCfg.blank_legal]
    cards := fun i => by rw [card_startValues hwf.cards]; exact h.cards i
    households := fun i => by rw [household_startValues hwf.households]; exact h.households i
    rounds := fun r => by
      rw [round_startValues]
      split
      · exact Round.inRanges_of_keepsPlan (Round.atStart_keepsPlan _) (h.rounds r)
      · exact Round.blank_inRanges
    priorities := fun n => by rw [noticeClass_startValues hwf.classes]; exact h.priorities n }

theorem State.InRanges.stationsUnknown {s : State} (h : s.InRanges) : s.stationsUnknown.InRanges :=
  { h with
    stations := fun i => by rw [station_stationsUnknown]; split; exacts [h.stations i, StationCfg.blank_legal] }

/-- What a start loads lies in the ranges, whatever the image holds (R188; log 8). -/
theorem State.InRanges.loadedFor {s : State} (h : s.Canonical) (kind : StartKind) (found : ImageState) :
    (s.loadedFor kind found).InRanges := by
  unfold State.loadedFor
  dsimp only
  split
  · exact State.InRanges.loadImage _
  · refine State.InRanges.loadDefaults ?_
    split
    · rfl
    · exact h.abandonSave.households

theorem State.InRanges.enterLoading {s : State} (h : s.Canonical) (kind : StartKind) (cause : StartCause)
    (levels : StartLevels) : (s.enterLoading kind cause levels).InRanges := by
  rw [enterLoading_eq]
  exact { ((State.InRanges.loadedFor h kind _).startValues (h.loadedFor kind _)).stationsUnknown with }

theorem course_inRanges : Course (fun t => t.Canonical ∧ t.InRanges) (fun t => t.Canonical ∧ t.InRanges) where
  toDeeds := deeds_inRanges
  weaken := fun _ h => h
  receive := fun s f h => by unfold State.bufferFrame; split; exacts [⟨{ h.1 with }, { h.2 with }⟩, h]
  transmit := fun _ h => ⟨{ h.1 with }, { h.2 with }⟩
  transmitted := fun _ h => ⟨{ h.1 with }, { h.2 with }⟩
  handled := fun _ _ rest _ _ _ hbody h => by
    obtain ⟨hwf, hranges⟩ := hbody _ deeds_inRanges _ ⟨h.1.updLink (fun e => { e with rx := rest }), { h.2 with }⟩
    exact ⟨{ hwf with }, { hranges with }⟩
  power := fun _ _ h => ⟨{ h.1 with }, { h.2 with }⟩
  stop := fun _ h => ⟨{ h.1.abandonSave with }, { h.2.abandonSave with }⟩
  loading := fun _ kind cause levels h =>
    ⟨h.1.enterLoading kind cause levels, State.InRanges.enterLoading h.1 kind cause levels⟩
  startValues := fun _ h => ⟨h.1.startValues, h.2.startValues h.1⟩
  saved := fun s h => ⟨steps_canonical.saved s h.1, { h.2 with }⟩
  failed := fun s h => ⟨steps_canonical.failed s h.1, { h.2 with }⟩

end Sys2Proof.Machine
end

section
/-! PROOFS. Every step keeps the cross-field rules, and the statement on the configuration (R136, R182; log 8). -/

namespace Sys2Proof.Machine

/-! ### Rounds -/

/-- A round with a stop appended for a container that it does not hold (R153). -/
theorem appendRound_stopsLegal {s : State} {c i r : Nat} (h : s.appendRound c i = some r) (hc : c ≤ 127)
    (hd : (s.round r).stopsLegal) :
    Round.stopsLegal { s.round r with stops := (s.round r).stops ++
      [{ container := c, state := some .servicing, origin := .unplanned, doneTime := none }] } := by
  unfold State.appendRound at h
  split at h
  · simp at h
  · have hfound := List.find?_some h
    simp only [Bool.and_eq_true, Bool.not_eq_true', Round.holds, List.any_eq_false, Bool.and_true, beq_iff_eq] at hfound
    have hnew : ∀ p ∈ (s.round r).stops, p.container ≠ c := hfound.2
    obtain ⟨hrange, hnodup⟩ := hd
    refine ⟨fun p hp => ?_, ?_⟩
    · rcases List.mem_append.mp hp with hp | hp
      · exact hrange p hp
      · rw [List.mem_singleton.mp hp]; exact hc
    · rw [List.map_append, List.nodup_append]
      refine ⟨hnodup, by simp, fun a ha b hb => ?_⟩
      obtain ⟨p, hp, rfl⟩ := List.mem_map.mp ha
      rw [List.mem_singleton.mp hb]
      exact hnew p hp

/-- Stops that name given containers. -/
theorem stopsLegal_of_containers {d : Round} {cs : List Nat} (h : d.stops.map Stop.container = cs) (hnodup : cs.Nodup)
    (hrange : ∀ c ∈ cs, c ≤ 127) : d.stopsLegal :=
  ⟨fun p hp => hrange _ (h ▸ List.mem_map_of_mem hp), by rwa [h]⟩

/-- A draft takes its stops from the due list, each container once (R138). -/
theorem draftList_legal {s : State} (hdue : s.dueLawful) (hcross : s.crossLegal) (f : Fraction) (n : Nat) :
    (s.draftList f n).Nodup ∧ ∀ c ∈ s.draftList f n, c ≤ 127 := by
  have hsub : (s.draftList f n).Sublist (s.planner.due.map DueEntry.container) :=
    (List.take_sublist _ _).trans List.filter_sublist
  refine ⟨hsub.nodup hdue.2.1, fun c hc => ?_⟩
  obtain ⟨e, he, rfl⟩ := List.mem_map.mp (hsub.subset hc)
  exact State.le_of_due hdue hcross e he

theorem Round.blank_stopsLegal : Round.blank.stopsLegal := by simp [Round.stopsLegal, Round.blank]

section
variable {s : State} (h : s.crossLegal)
include h

theorem State.crossLegal_updRound (r : Nat) (f : Round → Round)
    (hf : (s.round r).stopsLegal → (f (s.round r)).stopsLegal) : (s.updRound r f).crossLegal :=
  State.crossLegal_of h (fun q hq => by
    rw [State.round_updRound]
    split
    next hqr => subst hqr; exact hf hq
    · exact hq) (fun _ => rfl) (fun _ => rfl)

theorem State.crossLegal_updContainer (c : Nat) (f : Container → Container) (hf : ∀ k, (f k).cfg = k.cfg) :
    (s.updContainer c f).crossLegal :=
  State.crossLegal_of h (fun _ => id) (cfg_updContainer c f hf) (fun _ => rfl)

theorem State.crossLegal_updLine (l : Line) (f : LineState → LineState) : (s.updLine l f).crossLegal :=
  State.crossLegal_same h (s.updLine_rounds l f) (s.updLine_containers l f) (s.updLine_stations l f)

theorem State.crossLegal_setStatus (c : Nat) (st : FillStatus) (n : Nat) : (s.setStatus c st n).crossLegal := by
  have hcfg := fun d => cfg_setStatus (s := s) c st n d
  rw [setStatus_form] at hcfg ⊢
  exact State.crossLegal_of h (fun _ => id) hcfg (fun _ => rfl)

theorem State.crossLegal_abandonSave : s.abandonSave.crossLegal := by
  unfold State.abandonSave; split <;> exact h

end

theorem small_crossLegal : Small (fun t => t.Canonical ∧ t.crossLegal) where
  fillOnly := fun s c f hclass hinlet hcfg h =>
    ⟨small_canonical.fillOnly s c f hclass hinlet hcfg h.1, State.crossLegal_updContainer h.2 c f hcfg⟩
  setStatus := fun s c st n h => ⟨small_canonical.setStatus s c st n h.1,
    State.crossLegal_setStatus h.2 c st n⟩
  setForced := fun s c b h => ⟨small_canonical.setForced s c b h.1,
    State.crossLegal_updContainer h.2 c (fun k => { k with forced := b }) (fun _ => rfl)⟩
  setMissed := fun s c h => ⟨small_canonical.setMissed s c h.1,
    State.crossLegal_updContainer h.2 c (fun k => { k with missed := true }) (fun _ => rfl)⟩
  clearMarks := fun s c h => ⟨small_canonical.clearMarks s c h.1,
    State.crossLegal_updContainer h.2 c (fun k => { k with forced := false, missed := false }) (fun _ => rfl)⟩
  station := fun s i f hf h => ⟨small_canonical.station s i f hf h.1,
    State.crossLegal_of h.2 (fun _ => id) (fun _ => rfl) (fun j => by
      rw [State.station_updStation]
      split
      next hj => rw [hj, hf]
      · rfl)⟩
  card := fun s i f hf h => ⟨small_canonical.card s i f hf h.1, h.2⟩
  household := fun s i f hf h => ⟨small_canonical.household s i f hf h.1, h.2⟩
  round := fun s r f hf h => ⟨small_canonical.round s r f hf h.1,
    State.crossLegal_updRound h.2 r f (Round.stopsLegal_of_keepsPlan (hf _))⟩
  appendStop := fun s c i r hp hr h => ⟨small_canonical.appendStop s c i r hp hr h.1,
    State.crossLegal_updRound h.2 r _ (appendRound_stopsLegal hr (State.le_of_present h.2 hp))⟩
  rounds := fun s f hblank hf h => ⟨small_canonical.rounds s f hblank hf h.1,
    State.crossLegal_of h.2 (fun r hr => by
      show (Tab.get Round.blank (Tab.map Round.blank f s.rounds) r).stopsLegal
      rw [Tab.get_map (hblank r) h.1.rounds]
      exact Round.stopsLegal_of_keepsPlan (hf r _) hr) (fun _ => rfl) (fun _ => rfl)⟩
  planner := fun s f hf h => ⟨small_canonical.planner s f hf h.1, h.2⟩
  watch := fun s f hf h => ⟨small_canonical.watch s f hf h.1, h.2⟩
  line := fun s l f hf h => ⟨small_canonical.line s l f hf h.1, State.crossLegal_updLine h.2 l f⟩
  journal := fun s f h => ⟨small_canonical.journal s f h.1, h.2⟩
  raise := fun s n a v h => ⟨small_canonical.raise s n a v h.1,
    State.crossLegal_same h.2 (s.raise_rounds n a v) (s.raise_containers n a v) (s.raise_stations n a v)⟩
  toCenter := fun s i f hroom h => ⟨small_canonical.toCenter s i f hroom h.1, h.2⟩
  takeParked := fun s p hp hkeeps h => ⟨small_canonical.takeParked s p hp hkeeps h.1, h.2⟩
  containers := fun s f hblank hclass hcfg h => ⟨small_canonical.containers s f hblank hclass hcfg h.1,
    State.crossLegal_of h.2 (fun _ => id) (cfg_mapContainers h.1.containers f hblank hcfg) (fun _ => rfl)⟩
  container := fun s c f hclass hcfg h =>
    ⟨small_canonical.container s c f hclass hcfg h.1, State.crossLegal_updContainer h.2 c f hcfg⟩

/-- Two properties that the small updates keep are kept together. -/
theorem Small.and {P Q : State → Prop} (hP : Small P) (hQ : Small Q) : Small (fun t => P t ∧ Q t) where
  fillOnly := fun s c f h1 h2 h3 h => ⟨hP.fillOnly s c f h1 h2 h3 h.1, hQ.fillOnly s c f h1 h2 h3 h.2⟩
  setStatus := fun s c st n h => ⟨hP.setStatus s c st n h.1, hQ.setStatus s c st n h.2⟩
  setForced := fun s c b h => ⟨hP.setForced s c b h.1, hQ.setForced s c b h.2⟩
  setMissed := fun s c h => ⟨hP.setMissed s c h.1, hQ.setMissed s c h.2⟩
  clearMarks := fun s c h => ⟨hP.clearMarks s c h.1, hQ.clearMarks s c h.2⟩
  station := fun s i f hf h => ⟨hP.station s i f hf h.1, hQ.station s i f hf h.2⟩
  card := fun s i f hf h => ⟨hP.card s i f hf h.1, hQ.card s i f hf h.2⟩
  household := fun s i f hf h => ⟨hP.household s i f hf h.1, hQ.household s i f hf h.2⟩
  round := fun s r f hf h => ⟨hP.round s r f hf h.1, hQ.round s r f hf h.2⟩
  appendStop := fun s c i r hp hr h => ⟨hP.appendStop s c i r hp hr h.1, hQ.appendStop s c i r hp hr h.2⟩
  rounds := fun s f h1 h2 h => ⟨hP.rounds s f h1 h2 h.1, hQ.rounds s f h1 h2 h.2⟩
  planner := fun s f hf h => ⟨hP.planner s f hf h.1, hQ.planner s f hf h.2⟩
  watch := fun s f hf h => ⟨hP.watch s f hf h.1, hQ.watch s f hf h.2⟩
  line := fun s l f hf h => ⟨hP.line s l f hf h.1, hQ.line s l f hf h.2⟩
  journal := fun s f h => ⟨hP.journal s f h.1, hQ.journal s f h.2⟩
  raise := fun s n a v h => ⟨hP.raise s n a v h.1, hQ.raise s n a v h.2⟩
  toCenter := fun s i f hroom h => ⟨hP.toCenter s i f hroom h.1, hQ.toCenter s i f hroom h.2⟩
  takeParked := fun s p h1 h2 h => ⟨hP.takeParked s p h1 h2 h.1, hQ.takeParked s p h1 h2 h.2⟩
  containers := fun s f h1 h2 h3 h => ⟨hP.containers s f h1 h2 h3 h.1, hQ.containers s f h1 h2 h3 h.2⟩
  container := fun s c f h1 h2 h => ⟨hP.container s c f h1 h2 h.1, hQ.container s c f h1 h2 h.2⟩

/-! ### Writes -/

/-- The table of a record that bytes are read as. -/
def Record.table : Record → Table
  | .parameters _ => .parameters
  | .station _ => .station
  | .bank _ => .bank
  | .fraction _ => .fraction
  | .shape _ => .shape
  | .container _ => .container
  | .card _ => .card
  | .household _ => .household
  | .round _ _ => .round
  | .noticeClass _ => .noticeClass

theorem table_of_parse {t : Table} {b : List Byte} {r : Record} (h : t.parse b = some r) : r.table = t := by
  cases t <;> simp only [Table.parse, Option.map_eq_some_iff] at h
  case parameters => cases h; rfl
  case noticeClass => cases h; rfl
  all_goals obtain ⟨_, _, rfl⟩ := h; rfl

/-- A written container record lies at 0-127 and keeps the rule of its slot (R182). -/
theorem crossLegal_writtenContainer {s : State} (h : s.crossLegal) {c : Nat} {p : ContainerCfg}
    (hp : Record.taken s c (.container p)) : (s.updContainer c (fun k => { k with cfg := p })).crossLegal := by
  obtain ⟨t, bytes, hparse, -, hle, hcross⟩ := hp
  rw [← table_of_parse hparse] at hle
  refine ⟨h.1, fun d hd => ?_⟩
  simp only [State.station_updContainer, State.container_updContainer] at hd ⊢
  split at hd
  next hdc =>
    subst hdc
    have hpresent : p.present = true := hd
    simp only [State.crossOk, hpresent, Bool.not_true, Bool.false_or, decide_eq_true_eq] at hcross
    exact ⟨hle, hcross⟩
  · exact h.2 d hd

/-- A written station record has slots enough for its present containers (R182). -/
theorem crossLegal_writtenStation {s : State} (h : s.crossLegal) {i : Nat} {p : StationCfg}
    (hp : Record.taken s i (.station p)) : (s.updStation i (fun t => { t with cfg := p })).crossLegal := by
  obtain ⟨t, bytes, -, -, -, hcross⟩ := hp
  refine ⟨h.1, fun d hd => ?_⟩
  simp only [State.container_updStation] at hd
  refine ⟨(h.2 d hd).1, ?_⟩
  simp only [State.station_updStation]
  split
  next hdi =>
    have hmem : d ∈ containersOf i := by
      simp only [containersOf, List.mem_cons, List.not_mem_nil, or_false]
      omega
    have hslot := List.all_eq_true.mp hcross d hmem
    simp only [State.present, hd, Bool.not_true, Bool.false_or, decide_eq_true_eq] at hslot
    exact hslot
  · exact (h.2 d hd).2

/-- What the cross-field rules need to be kept: the tables' form, the law of the due list (a draft takes its stops from
there), and the rules. -/
def State.crossKept (s : State) : Prop :=
  (s.Canonical ∧ s.dueLawfulBut (fun _ => False)) ∧ s.Canonical ∧ s.crossLegal

theorem writes_crossKept : Writes State.crossKept where
  toSmall := (small_dueLawful _).and small_crossLegal
  relay := fun s i f hroom h => ⟨writes_dueLawful.relay s i f hroom h.1, writes_canonical.relay s i f hroom h.2.1,
    State.crossLegal_updLine h.2.2 _ _⟩
  params := fun s i p hp h => ⟨writes_dueLawful.params s i p hp h.1, writes_canonical.params s i p hp h.2.1, h.2.2⟩
  stationCfg := fun s i p hp h => ⟨writes_dueLawful.stationCfg s i p hp h.1,
    writes_canonical.stationCfg s i p hp h.2.1, crossLegal_writtenStation h.2.2 hp⟩
  cardCfg := fun s i p hp h => ⟨writes_dueLawful.cardCfg s i p hp h.1, writes_canonical.cardCfg s i p hp h.2.1, h.2.2⟩
  householdCfg := fun s i p hp h =>
    ⟨writes_dueLawful.householdCfg s i p hp h.1, writes_canonical.householdCfg s i p hp h.2.1, h.2.2⟩
  writeRound := fun s r p stops hp h => ⟨writes_dueLawful.writeRound s r p stops hp h.1,
    writes_canonical.writeRound s r p stops hp h.2.1, State.crossLegal_updRound h.2.2 r _ (fun _ => by
      obtain ⟨t, bytes, hparse, -⟩ := hp
      obtain ⟨hnodup, hrange⟩ := parse_round hparse
      exact stopsLegal_of_containers (by rw [List.map_map]; exact List.map_id'' (fun _ => rfl) _) hnodup hrange)⟩
  draft := fun s r f n h1 hn hr h => ⟨writes_dueLawful.draft s r f n h1 hn hr h.1,
    writes_canonical.draft s r f n h1 hn hr h.2.1, State.crossLegal_updRound h.2.2 r _ (fun _ => by
      obtain ⟨hnodup, hrange⟩ := draftList_legal (s.dueLawful_iff.mpr h.1.2) h.2.2 f n
      exact stopsLegal_of_containers (by rw [List.map_map]; exact List.map_id'' (fun _ => rfl) _) hnodup hrange)⟩
  banks := fun s i p hp h => ⟨writes_dueLawful.banks s i p hp h.1, writes_canonical.banks s i p hp h.2.1, h.2.2⟩
  fractions := fun s i p hp h =>
    ⟨writes_dueLawful.fractions s i p hp h.1, writes_canonical.fractions s i p hp h.2.1, h.2.2⟩
  shapes := fun s i p hp h => ⟨writes_dueLawful.shapes s i p hp h.1, writes_canonical.shapes s i p hp h.2.1, h.2.2⟩
  priority := fun s i n hn h => ⟨writes_dueLawful.priority s i n hn h.1, writes_canonical.priority s i n hn h.2.1, h.2.2⟩
  clearFlags := fun s n h => ⟨writes_dueLawful.clearFlags s n h.1, writes_canonical.clearFlags s n h.2.1, h.2.2⟩
  clock := fun s k h => ⟨writes_dueLawful.clock s k h.1, writes_canonical.clock s k h.2.1, h.2.2⟩
  part := fun s f h => ⟨writes_dueLawful.part s f h.1, writes_canonical.part s f h.2.1, h.2.2⟩
  abandonSave := fun s h => ⟨writes_dueLawful.abandonSave s h.1, h.2.1.abandonSave, State.crossLegal_abandonSave h.2.2⟩
  writeContainer := fun s c p hp h => ⟨writeContainer_dueLawful h.1 c p,
    (Acts.of_small small_crossLegal).writeContainer c p
      ⟨h.2.1.updContainer c _, crossLegal_writtenContainer h.2.2 hp⟩
      (fun _ ht => ⟨(ht.1.updContainer c _).rederive c,
        State.crossLegal_updContainer ht.2 c (fun k => { k with fill := Fill.start (some (c % 8 + 1)) }) (fun _ => rfl)⟩)⟩

/-! ### Starts -/

theorem loadedRound_legalStops (cells : List Host.Cell) (r : Nat) :
    (loadedRound cells r).2.Nodup ∧ ∀ c ∈ (loadedRound cells r).2, c ≤ 127 := by
  unfold loadedRound
  split
  next hload =>
    unfold loadRecord Table.load at hload
    split at hload
    next hread =>
      cases hload
      split at hread
      · exact parse_round hread
      · simp at hread
    · exact parse_round hload
  · simp

theorem stopsLegal_loadImage (s : State) (r : Nat) : (s.loadImage.round r).stopsLegal := by
  rw [round_loadImage]
  split
  · obtain ⟨hnodup, hrange⟩ := loadedRound_legalStops s.flash r
    exact stopsLegal_of_containers (by rw [List.map_map]; exact List.map_id'' (fun _ => rfl) _) hnodup hrange
  · exact Round.blank_stopsLegal

/-- An image area whose slots keep their rule is loaded so (log 8). -/
theorem crossLegal_loadImage {s : State} (hvalid : judge true s.flash = .valid) (h : imageSlotsLegal s.flash) :
    s.loadImage.crossLegal := by
  refine ⟨stopsLegal_loadImage s, fun c hc => ?_⟩
  simp only [container_loadImage, station_loadImage] at hc ⊢
  split at hc
  next hlt =>
    obtain ⟨hle, hslot⟩ := h hvalid c (by
      dsimp only at hc
      simp [hc]; omega)
    refine ⟨hle, ?_⟩
    rw [if_pos (by omega)]
    exact hslot
  · cases hc

theorem crossLegal_loadDefaults (s : State) : s.loadDefaults.crossLegal :=
  ⟨fun _ => Round.blank_stopsLegal, fun _ hc => by cases hc⟩

theorem crossLegal_startValues {s : State} (h : s.crossLegal) : s.startValues.crossLegal := by
  refine ⟨fun r => ?_, fun c hc => ?_⟩
  · rw [round_startValues]
    split
    · exact Round.stopsLegal_of_keepsPlan (Round.atStart_keepsPlan _) (h.1 r)
    · exact Round.blank_stopsLegal
  · simp only [container_startValues, station_startValues] at hc ⊢
    split at hc
    next hlt =>
      obtain ⟨hle, hslot⟩ := h.2 c hc
      refine ⟨hle, ?_⟩
      rw [if_pos (by omega)]
      exact hslot
    · cases hc

theorem crossLegal_stationsUnknown {s : State} (h : s.crossLegal) : s.stationsUnknown.crossLegal := by
  refine ⟨h.1, fun c hc => ?_⟩
  obtain ⟨hle, hslot⟩ := h.2 c hc
  refine ⟨hle, ?_⟩
  simp only [station_stationsUnknown]
  rw [if_pos (by omega)]
  exact hslot

theorem flash_loadedFor (s : State) (kind : StartKind) (found : ImageState) :
    (s.loadedFor kind found).flash = s.abandonSave.flash := by
  unfold State.loadedFor
  dsimp only
  split_ifs <;> rfl

theorem judge_of_found {s : State} {cause : StartCause} {levels : StartLevels} (h : s.foundAt cause levels = .valid) :
    judge true s.abandonSave.flash = .valid := by
  unfold State.foundAt at h
  split at h
  · cases h
  · cases hresponds : levels.flashResponds <;> rw [hresponds] at h
    · cases h
    · exact h

theorem flash_enterLoading (s : State) (kind : StartKind) (cause : StartCause) (levels : StartLevels) :
    (s.enterLoading kind cause levels).flash = s.abandonSave.flash := by
  rw [enterLoading_eq]
  exact flash_loadedFor s kind _

theorem crossLegal_loadedFor {s : State} (kind : StartKind) (cause : StartCause) (levels : StartLevels)
    (h : imageSlotsLegal s.abandonSave.flash) : (s.loadedFor kind (s.foundAt cause levels)).crossLegal := by
  have hflash : (if kind = .cold then s.abandonSave.initRetained else s.abandonSave).flash = s.abandonSave.flash := by
    split <;> rfl
  unfold State.loadedFor
  dsimp only
  split
  next hvalid => exact crossLegal_loadImage (by rw [hflash]; exact judge_of_found hvalid) (by rw [hflash]; exact h)
  · exact crossLegal_loadDefaults _

theorem crossLegal_enterLoading {s : State} {kind : StartKind} {cause : StartCause} {levels : StartLevels}
    (h : imageSlotsLegal (s.enterLoading kind cause levels).flash) : (s.enterLoading kind cause levels).crossLegal := by
  rw [flash_enterLoading] at h
  rw [enterLoading_eq]
  exact State.crossLegal_same (crossLegal_stationsUnknown (crossLegal_startValues (crossLegal_loadedFor kind cause levels h)))
    rfl rfl rfl

/-- The rules as a step leaves them: one that ends in LOADING has them where the image area has its slots' rule (log 8). -/
def State.crossAfter (t : State) : Prop := (t.part.phase = .loading → imageSlotsLegal t.flash) → t.crossLegal

theorem steps_crossKept : Steps State.crossKept State.crossAfter where
  toWrites := writes_crossKept
  weaken := fun _ h _ => h.2.2
  receive := fun s f h => ⟨steps_dueLawful.receive s f h.1, steps_canonical.receive s f h.2.1, by
    unfold State.bufferFrame; split <;> exact h.2.2⟩
  transmit := fun s h => ⟨steps_dueLawful.transmit s h.1, steps_canonical.transmit s h.2.1, h.2.2⟩
  transmitted := fun s h => ⟨steps_dueLawful.transmitted s h.1, steps_canonical.transmitted s h.2.1, h.2.2⟩
  handled := fun s f rest body hrx hroom hbody h =>
    ⟨steps_dueLawful.handled s f rest body hrx hroom hbody h.1,
      steps_canonical.handled s f rest body hrx hroom hbody h.2.1,
      (hbody _ writes_crossKept _ ⟨⟨h.1.1.updLink (fun e => { e with rx := rest }), h.1.2⟩, h.2.1.updLink _, h.2.2⟩).2.2⟩
  power := fun s f h => ⟨steps_dueLawful.power s f h.1, steps_canonical.power s f h.2.1, h.2.2⟩
  stop := fun s h =>
    ⟨steps_dueLawful.stop s h.1, steps_canonical.stop s h.2.1, State.crossLegal_abandonSave h.2.2⟩
  loading := fun _ _ _ _ _ himage => crossLegal_enterLoading (himage rfl)
  startValues := fun s h =>
    ⟨steps_dueLawful.startValues s h.1, steps_canonical.startValues s h.2.1, crossLegal_startValues h.2.2⟩
  saved := fun s h => ⟨steps_dueLawful.saved s h.1, steps_canonical.saved s h.2.1, h.2.2⟩
  failed := fun s h => ⟨steps_dueLawful.failed s h.1, steps_canonical.failed s h.2.1, h.2.2⟩

/-! ### The statement -/

/-- Settles O11: a written or loaded record is legal (`course_inRanges`), and every command keeps the cross-field rules
(`steps_crossKept`). -/
theorem configurationStaysInRange : Obligations.ConfigurationStaysInRange := by
  refine ⟨fun s t hwf hlegal hstep => ?_, fun s t hwf hdue hcross hstep himage => ?_⟩
  · rw [State.canonical_iff] at hwf
    rw [State.configLegal_iff] at hlegal ⊢
    exact (after_of_course course_inRanges (fun _ _ h => ⟨{ h.1 with }, { h.2 with }⟩) ⟨hwf, hlegal⟩ hstep).2
  · rw [State.canonical_iff] at hwf
    rw [State.dueLawful_iff] at hdue
    exact after_of_steps steps_crossKept (fun _ _ h => ⟨⟨{ h.1.1 with }, h.1.2⟩, { h.2.1 with }, h.2.2⟩)
      ⟨⟨hwf, hdue⟩, hwf, hcross⟩ hstep himage

end Sys2Proof.Machine
end

section
/-! PROOFS. The books of the part: the journal's reservations and the households' held counts, as sums over the inlets, and
what keeps them (R54, R60). -/

namespace Sys2Proof.Machine

/-! ### Sums over a table -/

theorem hasFiniteSupport_ite (j v : Nat) : (Function.support (fun k => if k = j then v else 0)).Finite :=
  (Set.finite_singleton j).subset (fun k hk => by simpa using (ite_ne_right_iff.mp hk).1)

theorem finsum_ite_point (j v : Nat) : ∑ᶠ k : Nat, (if k = j then v else 0) = v := by
  rw [finsum_eq_single _ j (fun k hk => if_neg hk), if_pos rfl]

section
variable {α : Type} [DecidableEq α] {d : α} {g : α → Nat}

/-- A weight summed over the entries of a table in canonical form is its sum over the records (11.3). -/
theorem Tab.sum_entries (hd : g d = 0) {lo : Nat} {l : List (Nat × α)} (h : Tab.wfFrom d lo l = true) :
    (Function.support (fun k => g ((Tab.find l k).getD d))).Finite ∧
      (l.map (fun e => g e.2)).sum = ∑ᶠ k, g ((Tab.find l k).getD d) := by
  induction l generalizing lo with
  | nil => simp [Tab.find, hd]
  | cons e rest ih =>
    obtain ⟨j, w⟩ := e
    simp only [Tab.wfFrom, Bool.and_eq_true, decide_eq_true_eq] at h
    obtain ⟨hfinite, hsum⟩ := ih h.2
    have hsplit : (fun k => g ((Tab.find ((j, w) :: rest) k).getD d)) =
        fun k => (if k = j then g w else 0) + g ((Tab.find rest k).getD d) := by
      funext k
      by_cases hk : k = j
      · subst hk
        simp [Tab.find, Tab.find_eq_none_of_wfFrom h.2 (Nat.lt_succ_self k), hd]
      · simp [Tab.find, hk, Ne.symm hk]
    rw [hsplit]
    refine ⟨((hasFiniteSupport_ite j (g w)).union hfinite).subset (Function.support_add _ _), ?_⟩
    rw [finsum_add_distrib (hasFiniteSupport_ite j (g w)) hfinite, finsum_ite_point, ← hsum]
    simp

end

/-- Two sums over the indices, of functions that differ at one index alone. -/
theorem finsum_differ_at {F G : Nat → Nat} (hF : (Function.support F).Finite) (c : Nat) (h : ∀ d, d ≠ c → G d = F d) :
    ∑ᶠ d, G d + F c = ∑ᶠ d, F d + G c := by
  have hrest : (Function.support (fun d => if d = c then 0 else F d)).Finite :=
    hF.subset (fun d hd => by simp only [Function.mem_support, ne_eq, ite_eq_left_iff, not_forall] at hd ⊢; tauto)
  have hsplitF : F = fun d => (if d = c then F c else 0) + (if d = c then 0 else F d) := by
    funext d; by_cases hd : d = c <;> simp [hd]
  have hsplitG : G = fun d => (if d = c then G c else 0) + (if d = c then 0 else F d) := by
    funext d
    by_cases hd : d = c
    · simp [hd]
    · simp [hd, h d hd]
  have hsumF : ∑ᶠ d, F d = F c + ∑ᶠ d, (if d = c then 0 else F d) := by
    conv_lhs => rw [hsplitF]
    rw [finsum_add_distrib (hasFiniteSupport_ite c (F c)) hrest, finsum_ite_point]
  have hsumG : ∑ᶠ d, G d = G c + ∑ᶠ d, (if d = c then 0 else F d) := by
    conv_lhs => rw [hsplitG]
    rw [finsum_add_distrib (hasFiniteSupport_ite c (G c)) hrest, finsum_ite_point]
  omega

/-! ### The weights of an inlet -/

/-- A reservation of the open grant (R60). -/
def Inlet.grantReserved (n : Inlet) : Nat := if (n.grant.map Grant.reserved).getD false then 1 else 0

/-- A reservation of the service record (R60). -/
def Inlet.serviceReserved (n : Inlet) : Nat := if (n.service.map Service.reserved).getD false then 1 else 0

/-- An open grant bound to a household and fraction (R54). -/
def Inlet.binds (n : Inlet) (h : Nat) (f : Fraction) : Nat :=
  match n.grant with
  | some g => if g.household = some h ∧ g.fraction = f then 1 else 0
  | none => 0

section
variable {n : Inlet}

theorem Inlet.grantReserved_some {g : Grant} (h : n.grant = some g) : n.grantReserved = if g.reserved then 1 else 0 := by
  simp [Inlet.grantReserved, h]

theorem Inlet.grantReserved_none (h : n.grant = none) : n.grantReserved = 0 := by simp [Inlet.grantReserved, h]

theorem Inlet.serviceReserved_some {v : Service} (h : n.service = some v) :
    n.serviceReserved = if v.reserved then 1 else 0 := by
  simp [Inlet.serviceReserved, h]

theorem Inlet.serviceReserved_none (h : n.service = none) : n.serviceReserved = 0 := by simp [Inlet.serviceReserved, h]

theorem Inlet.binds_some {g : Grant} (h : n.grant = some g) (i : Nat) (f : Fraction) :
    n.binds i f = if g.household = some i ∧ g.fraction = f then 1 else 0 := by
  simp [Inlet.binds, h]

theorem Inlet.binds_none (h : n.grant = none) (i : Nat) (f : Fraction) : n.binds i f = 0 := by simp [Inlet.binds, h]

end

theorem State.reservations_eq {s : State} (h : s.Canonical) :
    (Function.support (fun c => (s.inlets c).grantReserved + (s.inlets c).serviceReserved)).Finite ∧
      s.reservations = ∑ᶠ c, ((s.inlets c).grantReserved + (s.inlets c).serviceReserved) :=
  Tab.sum_entries (d := Container.blank) (g := Container.reservations) rfl h.containers

theorem State.openGrants_eq {s : State} (h : s.Canonical) (i : Nat) (f : Fraction) :
    (Function.support (fun c => (s.inlets c).binds i f)).Finite ∧ s.openGrants i f = ∑ᶠ c, (s.inlets c).binds i f :=
  Tab.sum_entries (d := Container.blank) (g := fun k => k.binds i f) rfl h.containers

/-! ### The books -/

/-- The tables' form with the laws of the journal and of the household counts, each where it is asked for. -/
structure State.Books (s : State) (journal households : Prop) : Prop where
  wf : s.Canonical
  journal : journal → s.journalLawful
  households : households → s.householdsLawful

/-- The counts of a household held for a fraction. -/
def State.held (s : State) (i : Nat) (f : Fraction) : Nat := (s.household i).held.get f

section
variable {s t : State} {J H : Prop}

/-- A reservation of an inlet is in the journal's count (R60). -/
theorem reserved_le_of_journalLawful (hwf : s.Canonical) (h : s.journalLawful) (c : Nat) :
    (s.inlets c).grantReserved + (s.inlets c).serviceReserved ≤ s.journal.reserved := by
  obtain ⟨hfinite, hsum⟩ := s.reservations_eq hwf
  rw [h.2, hsum]
  exact single_le_finsum c hfinite (fun _ => Nat.zero_le _)

/-- An open grant is in its household's held count (R54). -/
theorem binds_le_of_householdsLawful (hwf : s.Canonical) (h : s.householdsLawful) (c i : Nat) (f : Fraction) :
    (s.inlets c).binds i f ≤ s.held i f := by
  obtain ⟨hfinite, hsum⟩ := s.openGrants_eq hwf i f
  rw [State.held, h i f, hsum]
  exact single_le_finsum c hfinite (fun _ => Nat.zero_le _)

/-- The books after a change of one inlet's records, where journal and held counts follow it. -/
theorem State.Books.changed (h : s.Books J H) (hwf : t.Canonical) (c : Nat) (n : Inlet)
    (hinlets : t.inlets = fun d => if d = c then n else s.inlets d)
    (hjournal : (s.inlets c).grantReserved + (s.inlets c).serviceReserved ≤ s.journal.reserved → s.journal.places ≤ 1024 →
      t.journal.places ≤ 1024 ∧ t.journal.reserved + ((s.inlets c).grantReserved + (s.inlets c).serviceReserved) =
        s.journal.reserved + (n.grantReserved + n.serviceReserved))
    (hheld : ∀ i f, (s.inlets c).binds i f ≤ s.held i f →
      t.held i f + (s.inlets c).binds i f = s.held i f + n.binds i f) : t.Books J H := by
  have hsame : t.inlets c = n := by rw [hinlets]; exact if_pos rfl
  have hother : ∀ d, d ≠ c → t.inlets d = s.inlets d := fun d hd => by rw [hinlets]; exact if_neg hd
  subst hsame
  refine ⟨hwf, fun hJ => ?_, fun hH i f => ?_⟩
  · have hlaw := h.journal hJ
    obtain ⟨hplaces, hreserved⟩ := hjournal (reserved_le_of_journalLawful h.wf hlaw c) hlaw.1
    refine ⟨hplaces, ?_⟩
    obtain ⟨hfinite, hsum⟩ := s.reservations_eq h.wf
    have hdiffer := finsum_differ_at
      (G := fun d => (t.inlets d).grantReserved + (t.inlets d).serviceReserved) hfinite c
      (fun d hd => by rw [hother d hd])
    rw [← hsum, ← (t.reservations_eq hwf).2, ← hlaw.2] at hdiffer
    omega
  · have hlaw := h.households hH
    have hcount := hheld i f (binds_le_of_householdsLawful h.wf hlaw c i f)
    obtain ⟨hfinite, hsum⟩ := s.openGrants_eq h.wf i f
    have hdiffer := finsum_differ_at (G := fun d => (t.inlets d).binds i f) hfinite c
      (fun d hd => by rw [hother d hd])
    rw [← hsum, ← (t.openGrants_eq hwf i f).2, ← hlaw i f] at hdiffer
    unfold State.held at hcount
    omega

/-- The books look at the inlets' records, the journal's counts and the held counts alone. -/
theorem State.Books.congr (h : s.Books J H) (hwf : t.Canonical)
    (hgrant : ∀ c, (t.inlets c).grantReserved = (s.inlets c).grantReserved)
    (hservice : ∀ c, (t.inlets c).serviceReserved = (s.inlets c).serviceReserved)
    (hbinds : ∀ c i f, (t.inlets c).binds i f = (s.inlets c).binds i f)
    (hplaces : t.journal.places ≤ s.journal.places) (hreserved : t.journal.reserved = s.journal.reserved)
    (hheld : ∀ i f, t.held i f = s.held i f) : t.Books J H := by
  refine ⟨hwf, fun hJ => ⟨hplaces.trans (h.journal hJ).1, ?_⟩, fun hH i f => ?_⟩
  · rw [hreserved, (h.journal hJ).2, (t.reservations_eq hwf).2, (s.reservations_eq h.wf).2]
    simp only [hgrant, hservice]
  · have hlaw := h.households hH i f
    rw [(s.openGrants_eq h.wf i f).2] at hlaw
    rw [(t.openGrants_eq hwf i f).2]
    simp only [hbinds]
    rw [← hlaw]
    exact hheld i f

/-- The books where inlets, journal and held counts are as before. -/
theorem State.Books.same (h : s.Books J H) (hwf : t.Canonical) (hinlets : t.inlets = s.inlets)
    (hjournal : t.journal = s.journal) (hhouseholds : t.households = s.households) : t.Books J H :=
  h.congr hwf (fun c => by rw [hinlets]) (fun c => by rw [hinlets]) (fun c i f => by rw [hinlets])
    (by rw [hjournal]) (by rw [hjournal]) (fun i f => by unfold State.held; rw [State.household_congr hhouseholds])

end

theorem calm_books (J H : Prop) : Calm (fun t => t.Books J H) where
  fillOnly := fun s c f h1 h2 h3 h =>
    h.same (small_canonical.fillOnly s c f h1 h2 h3 h.wf) ((quiet_inlets s).fillOnly s c f h1 h2 h3 rfl) rfl rfl
  setStatus := fun s c st n h => h.same (h.wf.setStatus c st n) ((quiet_inlets s).setStatus s c st n rfl)
    (by rw [setStatus_form]; rfl) (by rw [setStatus_form]; rfl)
  setForced := fun s c b h => h.same (small_canonical.setForced s c b h.wf) ((quiet_inlets s).setForced s c b rfl) rfl rfl
  setMissed := fun s c h => h.same (small_canonical.setMissed s c h.wf) ((quiet_inlets s).setMissed s c rfl) rfl rfl
  clearMarks := fun s c h => h.same (small_canonical.clearMarks s c h.wf) ((quiet_inlets s).clearMarks s c rfl) rfl rfl
  station := fun s i f hf h => h.same (small_canonical.station s i f hf h.wf) rfl rfl rfl
  card := fun s i f hf h => h.same (small_canonical.card s i f hf h.wf) rfl rfl rfl
  round := fun _ r f _ h => h.same (h.wf.updRound r f) rfl rfl rfl
  appendStop := fun _ _ _ r _ _ h => h.same (h.wf.updRound r _) rfl rfl rfl
  rounds := fun s f h1 h2 h => h.same (small_canonical.rounds s f h1 h2 h.wf) rfl rfl rfl
  planner := fun s f hf h => h.same (small_canonical.planner s f hf h.wf) rfl rfl rfl
  watch := fun s f hf h => h.same (small_canonical.watch s f hf h.wf) rfl rfl rfl
  line := fun s l f hf h => h.same (h.wf.updLine l f) ((quiet_inlets s).line s l f hf rfl) (s.updLine_journal l f)
    (s.updLine_households l f)
  raise := fun s n a v h => h.same (h.wf.raise n a v) (s.inlets_raise n a v) (s.raise_journal n a v)
    (s.raise_households n a v)
  toCenter := fun s i f hroom h => h.same (small_canonical.toCenter s i f hroom h.wf) rfl rfl rfl
  takeParked := fun s p h1 h2 h => h.same (small_canonical.takeParked s p h1 h2 h.wf) rfl rfl rfl

end Sys2Proof.Machine
end

section
/-! PROOFS. The operations of grant, service and lift keep the books: a record and its reservation or hold come and go
together (R54, R60, R64). -/

namespace Sys2Proof.Machine

theorem PerFraction.get_set (p : PerFraction) (f g : Fraction) (n : Nat) :
    (p.set f n).get g = if g = f then n else p.get g := by
  cases f <;> cases g <;> rfl

/-! ### The held counts after an operation -/

section
variable (s : State) (i : Nat) (f : Fraction)

theorem held_hold (j : Nat) (g : Fraction) : (s.updHousehold j (fun r => r.hold g)).held i f =
    s.held i f + (if i = j ∧ f = g then 1 else 0) := by
  unfold State.held
  rw [State.household_updHousehold]
  by_cases hi : i = j
  · subst hi
    rw [if_pos rfl, Household.hold, PerFraction.get_set]
    by_cases hf : f = g <;> simp [hf]
  · simp [hi]

theorem held_unhold (j : Option Nat) (g : Fraction) : (s.unhold j g).held i f =
    s.held i f - (if j = some i ∧ g = f then 1 else 0) := by
  cases j with
  | none => simp [State.unhold]
  | some j =>
    unfold State.held State.unhold
    dsimp only
    rw [State.household_updHousehold]
    by_cases hi : i = j
    · subst hi
      rw [if_pos rfl, Household.unhold, PerFraction.get_set]
      by_cases hf : f = g
      · simp [hf]
      · simp [hf, Ne.symm hf]
    · simp [hi, Ne.symm hi]

theorem held_lazyReset (r : Household) (p : Nat) : (r.lazyReset p).held = r.held := by
  unfold Household.lazyReset
  split <;> rfl

theorem held_countDeposit (j : Nat) (g : Fraction) (now p : Nat) :
    (s.updHousehold j (fun r => r.countDeposit g now p)).held i f =
      s.held i f - (if j = i ∧ g = f then 1 else 0) := by
  have hcounted : ∀ r : Household, (r.countDeposit g now p).held = r.held.set g (r.held.get g - 1) := by
    intro r
    unfold Household.countDeposit Household.unhold
    dsimp only
    split <;> simp [held_lazyReset]
  unfold State.held
  rw [State.household_updHousehold]
  by_cases hi : i = j
  · subst hi
    rw [if_pos rfl, hcounted, PerFraction.get_set]
    by_cases hf : f = g
    · simp [hf]
    · simp [hf, Ne.symm hf]
  · simp [hi, Ne.symm hi]

end

theorem held_congr {s t : State} (h : t.households = s.households) (i : Nat) (f : Fraction) : t.held i f = s.held i f := by
  unfold State.held
  rw [State.household_congr h]

/-! ### A record written where there is a reservation, and a deposit counted for a household -/

section
variable (s : State) (b : Bool) (r : JournalRecord)

theorem households_writeRecord : (s.writeRecord r).households = s.households := by
  obtain ⟨_, _, hform⟩ := writeRecord_touches s r
  rw [hform]

theorem households_recordIf : (if b then s.writeReserved r else s).households = s.households := by
  cases b
  · rfl
  · exact households_writeRecord _ _

theorem inlets_recordIf : (if b then s.writeReserved r else s).inlets = s.inlets := by
  cases b
  · rfl
  · exact s.inlets_writeReserved r

theorem journal_recordIf :
    (if b then s.writeReserved r else s).journal.records.length = s.journal.records.length + (if b then 1 else 0) ∧
      (if b then s.writeReserved r else s).journal.reserved = s.journal.reserved - (if b then 1 else 0) := by
  cases b
  · exact ⟨rfl, rfl⟩
  · simp [State.writeReserved, Journal.append, Journal.unreserve, State.updJournal]

theorem wf_recordIf {s : State} (h : s.Canonical) (b : Bool) (r : JournalRecord) : (if b then s.writeReserved r else s).Canonical := by
  cases b
  · exact h
  · exact small_canonical.toQuiet.writeReserved h r

/-- The household of a closing grant, if it has one, counts the deposit (R55). -/
def State.countedFor (s : State) (g : Grant) (now : Nat) : State :=
  match g.household with
  | some j => s.updHousehold j (fun q => q.countDeposit g.fraction now g.period)
  | none => s

variable (g : Grant) (now : Nat)

theorem inlets_countedFor : (s.countedFor g now).inlets = s.inlets := by
  unfold State.countedFor
  split <;> rfl

theorem journal_countedFor : (s.countedFor g now).journal = s.journal := by
  unfold State.countedFor
  split <;> rfl

theorem held_countedFor (i : Nat) (f : Fraction) : (s.countedFor g now).held i f =
    s.held i f - (if g.household = some i ∧ g.fraction = f then 1 else 0) := by
  unfold State.countedFor
  split
  · rename_i j hj
    rw [held_countDeposit, hj]
    simp only [Option.some.injEq]
  · rename_i hj
    simp [hj]

theorem wf_countedFor {s : State} (h : s.Canonical) (g : Grant) (now : Nat) : (s.countedFor g now).Canonical := by
  unfold State.countedFor
  split
  · exact { h with households := Tab.wf_set h.households }
  · exact h

end

/-! ### Updates of one inlet that keep its weights -/

namespace State.Books

variable {s : State} {J H : Prop} (h : s.Books J H) (c : Nat)
include h

theorem updContainer (f : Container → Container)
    (hgrant : (f (s.container c)).inlet.grant = (s.inlets c).grant)
    (hservice : (f (s.container c)).inlet.serviceReserved = (s.inlets c).serviceReserved) :
    (s.updContainer c f).Books J H := by
  refine h.congr (h.wf.updContainer c f) (fun d => ?_) (fun d => ?_) (fun d i g => ?_) (le_refl _) rfl (fun _ _ => rfl)
  all_goals
    rw [inlets_updContainer]
    dsimp only
    split
    · rename_i hd
      subst hd
      simp [Inlet.grantReserved, Inlet.binds, hgrant, hservice]
    · rfl

theorem updInlet (f : Inlet → Inlet) (hgrant : (f (s.inlets c)).grant = (s.inlets c).grant)
    (hservice : (f (s.inlets c)).serviceReserved = (s.inlets c).serviceReserved) : (s.updInlet c f).Books J H :=
  h.updContainer c _ hgrant hservice

theorem setInlet (st : InletState) : (s.setInlet c st).Books J H := h.updContainer c _ rfl rfl

theorem setCommand (a : InletAction) (w : Nat) (code : DisplayCode) (v : Nat) : (s.setCommand c a w code v).Books J H :=
  (calm_books J H).requestTurn (h.updInlet c _ rfl rfl) _

theorem lockClosed : (s.lockClosed c).Books J H := h.setCommand c _ _ _ _

theorem putBar (r : BarReason) (v : Bool) : (s.putBar c r v).Books J H := h.updInlet c _ rfl rfl

theorem startSettling : (s.startSettling c).Books J H := (h.updInlet c _ rfl rfl).setInlet c _

theorem showCode (code : DisplayCode) (v : Nat) : (s.show c code v).Books J H := by
  unfold State.show
  split
  · split
    · exact h.setCommand c _ _ _ _
    · exact h
  · exact h.setCommand c _ _ _ _

/-! ### Grants -/

theorem dropGrant : (s.dropGrant c).Books J H := by
  cases hg : (s.container c).inlet.grant with
  | none =>
    have hkept : s.dropGrant c = s := by rw [State.dropGrant, hg]
    rw [hkept]; exact h
  | some g =>
    have hsome : (s.inlets c).grant = some g := hg
    have hjournal : (s.dropGrant c).journal =
        { s.journal with reserved := s.journal.reserved - (if g.reserved then 1 else 0) } := by
      rw [dropGrant_form s c g hg]
      cases g.household <;> rfl
    have hheld : ∀ i f, (s.dropGrant c).held i f =
        s.held i f - (if g.household = some i ∧ g.fraction = f then 1 else 0) := fun i f => by
      rw [dropGrant_form s c g hg]
      exact held_unhold (s.updInlet c (fun n => { n with grant := none })) i f g.household g.fraction
    refine h.changed (small_canonical.dropGrant h.wf c) c { s.inlets c with grant := none } (inlets_dropGrant s c) (fun hle hplaces => ?_)
      (fun i f hle => ?_)
    · rw [Inlet.grantReserved_some hsome] at *
      rw [Inlet.grantReserved_none (n := { s.inlets c with grant := none }) rfl, hjournal]
      simp only [Journal.places, Inlet.serviceReserved] at *
      omega
    · rw [hheld, Inlet.binds_none (n := { s.inlets c with grant := none }) rfl]
      rw [Inlet.binds_some hsome] at *
      omega

/-- A grant and its hold, with its reservation if it has one (R60, R117). -/
theorem holdGrant (g : Grant) (j : Nat) (hhousehold : g.household = some j) (hnone : (s.inlets c).grant = none)
    (hroom : g.reserved = true → s.journal.places < 1024) :
    (((if g.reserved then s.updJournal Journal.reserve else s).updHousehold j (fun r => r.hold g.fraction)).updInlet c
      (fun n => { n with grant := some g })).Books J H := by
  have hform : (if g.reserved then s.updJournal Journal.reserve else s) =
      s.updJournal (fun q => { q with reserved := q.reserved + (if g.reserved then 1 else 0) }) := by
    cases g.reserved <;> rfl
  rw [hform]
  refine h.changed { h.wf with households := Tab.wf_set h.wf.households, containers := Tab.wf_set h.wf.containers } c
    { s.inlets c with grant := some g } (inlets_updInlet _ c _) (fun _ hplaces => ?_) (fun i f _ => ?_)
  · rw [Inlet.grantReserved_some (n := { s.inlets c with grant := some g }) rfl, Inlet.grantReserved_none hnone]
    simp only [Journal.places, State.updInlet, State.updContainer, State.updHousehold, State.updJournal,
      Inlet.serviceReserved] at *
    constructor
    · split
      next hr => have := hroom hr; omega
      · omega
    · omega
  · rw [held_congr (State.updInlet_households _ _ _), held_hold, Inlet.binds_none hnone,
      Inlet.binds_some (n := { s.inlets c with grant := some g }) rfl, hhousehold,
      held_congr (State.updJournal_households _ _)]
    simp only [Option.some.injEq, eq_comm, Nat.add_zero]

/-- A grant without household and reservation (R127). -/
theorem freeGrant (g : Grant) (hhousehold : g.household = none) (hreserved : g.reserved = false)
    (hnone : (s.inlets c).grant = none) : (s.updInlet c (fun n => { n with grant := some g })).Books J H := by
  refine h.changed (h.wf.updContainer c _) c { s.inlets c with grant := some g } (inlets_updInlet _ c _)
    (fun _ hplaces => ⟨hplaces, ?_⟩) (fun i f _ => ?_)
  · rw [Inlet.grantReserved_some (n := { s.inlets c with grant := some g }) rfl, Inlet.grantReserved_none hnone, hreserved]
    rfl
  · rw [held_congr (State.updInlet_households _ _ _), Inlet.binds_none hnone,
      Inlet.binds_some (n := { s.inlets c with grant := some g }) rfl, hhousehold]
    simp

/-! ### Services -/

/-- A service record goes, and its reservation with it (R64). -/
theorem releaseService (v : Service) (hsome : (s.inlets c).service = some v) :
    ((s.unreserveIf v.reserved).updInlet c (fun n => { n with service := none })).Books J H := by
  rw [unreserveIf_form]
  refine h.changed ((small_canonical.journal _ _ h.wf).updContainer c _) c { s.inlets c with service := none }
    (inlets_updInlet _ c _) (fun hle hplaces => ?_) (fun i f _ => ?_)
  · rw [Inlet.serviceReserved_some hsome] at *
    rw [Inlet.serviceReserved_none (n := { s.inlets c with service := none }) rfl]
    simp only [Journal.places, State.updInlet, State.updContainer, State.updJournal, Inlet.grantReserved] at *
    omega
  · exact congrArg₂ _ rfl rfl

theorem endWork (why : WorkEnd) : (s.endWork c why).Books J H := by
  unfold State.endWork
  split
  · exact h
  · rename_i v hv
    refine ((calm_books J H).returnStop h c v.place why).releaseService c v ?_
    rw [inlets_returnStop]
    exact hv

/-- A service record and its reservation (R60). -/
theorem reserveService (v : Service) (f : Inlet → Inlet) (hgrant : ∀ n, (f n).grant = n.grant)
    (hservice : ∀ n, (f n).service = some v) (hreserved : v.reserved = true) (hnone : (s.inlets c).service = none)
    (hroom : s.journal.places < 1024) : ((s.updJournal Journal.reserve).updInlet c f).Books J H := by
  refine h.changed ((small_canonical.journal _ _ h.wf).updContainer c _) c (f (s.inlets c)) (inlets_updInlet _ c _)
    (fun hle hplaces => ?_) (fun i g _ => ?_)
  · rw [Inlet.serviceReserved_none hnone] at *
    rw [Inlet.serviceReserved_some (hservice _), hreserved]
    simp only [Journal.places, Journal.reserve, State.updInlet, State.updContainer, State.updJournal,
      Inlet.grantReserved, hgrant, if_true] at *
    omega
  · exact congrArg₂ _ rfl (by simp only [Inlet.binds, hgrant])

/-- A service record without reservation. -/
theorem freeService (v : Service) (f : Inlet → Inlet) (hgrant : ∀ n, (f n).grant = n.grant)
    (hservice : ∀ n, (f n).service = some v) (hreserved : v.reserved = false) (hnone : (s.inlets c).service = none) :
    (s.updInlet c f).Books J H :=
  h.updInlet c f (hgrant _) (by simp [Inlet.serviceReserved, hservice, hnone, hreserved])

/-! ### Records of the journal -/

theorem writeRecord (r : JournalRecord) (hroom : s.journal.places < 1024) : (s.writeRecord r).Books J H := by
  have hwf := small_canonical.toQuiet.writeRecord h.wf r
  obtain ⟨_, _, hform⟩ := writeRecord_touches s r
  rw [hform] at hwf ⊢
  refine ⟨hwf, fun hJ => ⟨?_, (h.journal hJ).2⟩, fun hH => h.households hH⟩
  simp only [Journal.places, Journal.append, List.length_append, List.length_cons, List.length_nil] at *
  omega

/-- A record written for a service with its reservation, as the service ends (R64, R157). -/
theorem recordService (v : Service) (r : JournalRecord) (hsome : (s.inlets c).service = some v) :
    ((if v.reserved then s.writeReserved r else s).updInlet c (fun n => { n with service := none })).Books J H := by
  refine h.changed ((wf_recordIf h.wf v.reserved r).updContainer c _) c { s.inlets c with service := none }
    (by rw [inlets_updInlet, inlets_recordIf]) (fun hle hplaces => ?_) (fun i f _ => ?_)
  · rw [Inlet.serviceReserved_some hsome] at *
    rw [Inlet.serviceReserved_none (n := { s.inlets c with service := none }) rfl, State.updInlet_journal]
    obtain ⟨hlength, hreserved⟩ := journal_recordIf s v.reserved r
    simp only [Journal.places, hlength, hreserved, Inlet.grantReserved] at *
    omega
  · rw [held_congr (State.updInlet_households _ _ _), held_congr (households_recordIf s v.reserved r)]
    rfl

/-- A grant's closing count and record, as the grant closes (R55, R64, R120). -/
theorem countGrant (g : Grant) (now : Nat) (r : JournalRecord) (hsome : (s.inlets c).grant = some g) :
    ((if g.reserved then (s.countedFor g now).writeReserved r else s.countedFor g now).updInlet c
      (fun n => { n with grant := none })).Books J H := by
  refine h.changed ((wf_recordIf (wf_countedFor h.wf g now) g.reserved r).updContainer c _) c
    { s.inlets c with grant := none } (by rw [inlets_updInlet, inlets_recordIf, inlets_countedFor]) (fun hle hplaces => ?_) (fun i f hle => ?_)
  · rw [Inlet.grantReserved_some hsome] at *
    rw [Inlet.grantReserved_none (n := { s.inlets c with grant := none }) rfl, State.updInlet_journal]
    obtain ⟨hlength, hreserved⟩ := journal_recordIf (s.countedFor g now) g.reserved r
    simp only [Journal.places, hlength, hreserved, journal_countedFor, Inlet.serviceReserved] at *
    omega
  · rw [held_congr (State.updInlet_households _ _ _), held_congr (households_recordIf _ g.reserved r), held_countedFor,
      Inlet.binds_none (n := { s.inlets c with grant := none }) rfl]
    rw [Inlet.binds_some hsome] at *
    omega

end State.Books

end Sys2Proof.Machine
end

section
/-! PROOFS. Every event at an inlet keeps the law of the grant and of the crew states, and with it the books (R54, R60, R109,
R117, R148). -/

namespace Sys2Proof.Machine

/-! ### The law of an inlet, state by state -/

namespace Inlet

variable {n : Inlet}

theorem lawful_locked (hstate : n.state = .locked) :
    n.lawful = true ↔ n.grant = none ∧ n.service = none ∧ n.settleLeft = none ∧ n.bars = BarSet.empty := by
  simp [Inlet.lawful, hstate, and_assoc]

theorem lawful_opened (hstate : n.state = .opened) :
    n.lawful = true ↔ n.grant.isSome = true ∧ n.service = none ∧ n.settleLeft = none ∧ n.bars = BarSet.empty := by
  simp [Inlet.lawful, hstate, and_assoc]

theorem lawful_service (hstate : n.state = .service) :
    n.lawful = true ↔ n.grant = none ∧ n.settleLeft = none ∧
      ∃ v, n.service = some v ∧ v.windowLeft.isSome = true ∧ v.limitLeft = none := by
  cases hv : n.service <;> simp [Inlet.lawful, hstate, hv, and_assoc]
  tauto

theorem lawful_lifting (hstate : n.state = .lifting) :
    n.lawful = true ↔ n.grant = none ∧ n.settleLeft = none ∧
      ∃ v, n.service = some v ∧ v.windowLeft = none ∧ v.limitLeft.isSome = true := by
  cases hv : n.service <;> simp [Inlet.lawful, hstate, hv, and_assoc]
  tauto

theorem lawful_settling (hstate : n.state = .settling) :
    n.lawful = true ↔ n.grant = none ∧ n.service = none ∧ n.settleLeft.isSome = true := by
  simp [Inlet.lawful, hstate, and_assoc]

theorem lawful_barred (hstate : n.state = .barred) :
    n.lawful = true ↔ n.grant = none ∧ n.service = none ∧ n.settleLeft = none ∧ n.bars ≠ BarSet.empty := by
  simp [Inlet.lawful, hstate, and_assoc]

/-- A grant is open in OPEN alone. -/
theorem grant_of_not_opened (h : n.lawful = true) (hstate : n.state ≠ .opened) : n.grant = none := by
  cases hs : n.state with
  | locked => exact ((lawful_locked hs).mp h).1
  | opened => exact absurd hs hstate
  | service => exact ((lawful_service hs).mp h).1
  | lifting => exact ((lawful_lifting hs).mp h).1
  | settling => exact ((lawful_settling hs).mp h).1
  | barred => exact ((lawful_barred hs).mp h).1

/-- A service record stands in SERVICE and LIFTING alone. -/
theorem service_of_not_crew (h : n.lawful = true) (hservice : n.state ≠ .service) (hlifting : n.state ≠ .lifting) :
    n.service = none := by
  cases hs : n.state with
  | locked => exact ((lawful_locked hs).mp h).2.1
  | opened => exact ((lawful_opened hs).mp h).2.1
  | service => exact absurd hs hservice
  | lifting => exact absurd hs hlifting
  | settling => exact ((lawful_settling hs).mp h).2.1
  | barred => exact ((lawful_barred hs).mp h).2.1

/-- The settle time runs in SETTLING alone. -/
theorem settleLeft_of_not_settling (h : n.lawful = true) (hstate : n.state ≠ .settling) : n.settleLeft = none := by
  cases hs : n.state with
  | locked => exact ((lawful_locked hs).mp h).2.2.1
  | opened => exact ((lawful_opened hs).mp h).2.2.1
  | service => exact ((lawful_service hs).mp h).2.1
  | lifting => exact ((lawful_lifting hs).mp h).2.1
  | settling => exact absurd hs hstate
  | barred => exact ((lawful_barred hs).mp h).2.2.1

end Inlet

theorem BarSet.put_ne_empty (b : BarSet) (r : BarReason) : b.put r true ≠ BarSet.empty := by
  cases r <;> simp [BarSet.put, BarSet.empty]

theorem BarSet.ne_empty_of_has {b : BarSet} {r : BarReason} (h : b.has r = true) : b ≠ BarSet.empty := by
  rintro rfl
  cases r <;> simp [BarSet.has, BarSet.empty] at h

/-! ### The law and the books together -/

/-- The books, and the law of the grant and of the crew states at every inlet. -/
structure State.Sound (s : State) (journal households : Prop) : Prop extends s.Books journal households where
  inlets : ∀ c, (s.inlets c).lawful = true

section
variable {s t : State} {J H : Prop}

/-- A change of one inlet. -/
theorem State.Sound.at (h : s.Sound J H) (c : Nat) (hbooks : t.Books J H)
    (hother : ∀ d, d ≠ c → t.inlets d = s.inlets d) (hlawful : (t.inlets c).lawful = true) : t.Sound J H :=
  { hbooks with
    inlets := fun d => by
      by_cases hd : d = c
      · rw [hd]; exact hlawful
      · rw [hother d hd]; exact h.inlets d }

theorem State.Sound.same (h : s.Sound J H) (hbooks : t.Books J H) (hinlets : t.inlets = s.inlets) : t.Sound J H :=
  { hbooks with inlets := fun d => by rw [hinlets]; exact h.inlets d }

end

theorem calm_sound (J H : Prop) : Calm (fun t => t.Sound J H) where
  fillOnly := fun s c f h1 h2 h3 h => h.same ((calm_books J H).fillOnly s c f h1 h2 h3 h.toBooks) ((quiet_inlets s).fillOnly s c f h1 h2 h3 rfl)
  setStatus := fun s c st n h => h.same ((calm_books J H).setStatus s c st n h.toBooks) ((quiet_inlets s).setStatus s c st n rfl)
  setForced := fun s c b h => h.same ((calm_books J H).setForced s c b h.toBooks) ((quiet_inlets s).setForced s c b rfl)
  setMissed := fun s c h => h.same ((calm_books J H).setMissed s c h.toBooks) ((quiet_inlets s).setMissed s c rfl)
  clearMarks := fun s c h => h.same ((calm_books J H).clearMarks s c h.toBooks) ((quiet_inlets s).clearMarks s c rfl)
  station := fun s i f hf h => h.same ((calm_books J H).station s i f hf h.toBooks) rfl
  card := fun s i f hf h => h.same ((calm_books J H).card s i f hf h.toBooks) rfl
  round := fun s r f hf h => h.same ((calm_books J H).round s r f hf h.toBooks) rfl
  appendStop := fun s c i r h1 h2 h => h.same ((calm_books J H).appendStop s c i r h1 h2 h.toBooks) rfl
  rounds := fun s f h1 h2 h => h.same ((calm_books J H).rounds s f h1 h2 h.toBooks) rfl
  planner := fun s f hf h => h.same ((calm_books J H).planner s f hf h.toBooks) rfl
  watch := fun s f hf h => h.same ((calm_books J H).watch s f hf h.toBooks) rfl
  line := fun s l f hf h => h.same ((calm_books J H).line s l f hf h.toBooks) ((quiet_inlets s).line s l f hf rfl)
  raise := fun s n a v h => h.same ((calm_books J H).raise s n a v h.toBooks) (s.inlets_raise n a v)
  toCenter := fun s i f hroom h => h.same ((calm_books J H).toCenter s i f hroom h.toBooks) rfl
  takeParked := fun s p h1 h2 h => h.same ((calm_books J H).takeParked s p h1 h2 h.toBooks) rfl

/-! ### The events -/

namespace State.Sound

variable {s : State} {J H : Prop} (h : s.Sound J H) (c : Nat)
include h

/-- An update of an inlet's fields that the law does not look at. -/
theorem updInlet (f : Inlet → Inlet) (hstate : (f (s.inlets c)).state = (s.inlets c).state)
    (hbars : (f (s.inlets c)).bars = (s.inlets c).bars) (hgrant : (f (s.inlets c)).grant = (s.inlets c).grant)
    (hservice : (f (s.inlets c)).service = (s.inlets c).service)
    (hsettle : (f (s.inlets c)).settleLeft = (s.inlets c).settleLeft) : (s.updInlet c f).Sound J H := by
  refine h.at c (h.toBooks.updInlet c f hgrant (by unfold Inlet.serviceReserved; rw [hservice]))
    (fun d hd => by simp [hd]) ?_
  have hlaw := h.inlets c
  rw [inlets_updInlet]
  simp only [if_true]
  unfold Inlet.lawful at *
  rw [hstate, hbars, hgrant, hservice, hsettle]
  exact hlaw

theorem setCommand (a : InletAction) (w : Nat) (code : DisplayCode) (v : Nat) : (s.setCommand c a w code v).Sound J H :=
  (calm_sound J H).requestTurn (h.updInlet c _ rfl rfl rfl rfl rfl) _

theorem showCode (code : DisplayCode) (v : Nat) : (s.show c code v).Sound J H := by
  unfold State.show
  split
  · split
    · exact h.setCommand c _ _ _ _
    · exact h
  · exact h.setCommand c _ _ _ _

theorem refuseSeen (i : Nat) (code : DisplayCode) (v : Nat) : (s.refuseSeen i c code v).Sound J H :=
  ((calm_sound J H).see h i c code).showCode c _ _

/-! #### Bar reasons -/

theorem addBar (r : BarReason) : (s.addBar c r).Sound J H := by
  have hlaw := h.inlets c
  have hbar := h.toBooks.putBar c r true
  have hne := (s.inlets c).bars.put_ne_empty r
  unfold State.addBar
  dsimp only
  split
  · exact h
  have hstate : (s.inlets c).state = (s.container c).inlet.state := rfl
  split
  case h_1 hs =>
    rw [hs] at hstate
    obtain ⟨hgrant, hservice, hsettle, -⟩ := (Inlet.lawful_locked hstate).mp hlaw
    refine h.at c (hbar.setInlet c _) (fun d hd => by simp [hd]) ?_
    simp [Inlet.lawful, *]
  case h_2 hs =>
    rw [hs] at hstate
    obtain ⟨-, hservice, hsettle, -⟩ := (Inlet.lawful_opened hstate).mp hlaw
    refine h.at c (((hbar.dropGrant c).setInlet c _).lockClosed c) (fun d hd => by simp [State.grantLost, hd]) ?_
    simp [State.grantLost, Inlet.lawful, *]
  case h_3 hs =>
    rw [hs] at hstate
    obtain ⟨hgrant, hservice, hsettle, -⟩ := (Inlet.lawful_barred hstate).mp hlaw
    refine h.at c hbar (fun d hd => by simp [hd]) ?_
    simp [Inlet.lawful, *]
  case h_4 hs =>
    rw [hs] at hstate
    obtain ⟨hgrant, hsettle, v, hservice, hwindow, hlimit⟩ := (Inlet.lawful_service hstate).mp hlaw
    split
    · refine h.at c ((calm_books J H).makeUnknown (((hbar.endWork c _).setInlet c _).lockClosed c) c)
        (fun d hd => by simp [State.crewLost, hd]) ?_
      simp [State.crewLost, Inlet.lawful, *]
    · refine h.at c hbar (fun d hd => by simp [hd]) ?_
      simp [Inlet.lawful, *]
  case h_5 hs =>
    rw [hs] at hstate
    obtain ⟨hgrant, hsettle, v, hservice, hwindow, hlimit⟩ := (Inlet.lawful_lifting hstate).mp hlaw
    split
    · refine h.at c ((calm_books J H).makeUnknown (((hbar.endWork c _).setInlet c _).lockClosed c) c)
        (fun d hd => by simp [State.crewLost, hd]) ?_
      simp [State.crewLost, Inlet.lawful, *]
    · refine h.at c hbar (fun d hd => by simp [hd]) ?_
      simp [Inlet.lawful, *]
  case h_6 hs =>
    rw [hs] at hstate
    obtain ⟨hgrant, hservice, hsettle⟩ := (Inlet.lawful_settling hstate).mp hlaw
    split
    · refine h.at c ((hbar.updInlet c _ rfl rfl).setInlet c _) (fun d hd => by simp [hd]) ?_
      simp [Inlet.lawful, *]
    · refine h.at c hbar (fun d hd => by simp [hd]) ?_
      simp [Inlet.lawful, *]

theorem removeBar (r : BarReason) : (s.removeBar c r).Sound J H := by
  have hlaw := h.inlets c
  have hbar := h.toBooks.putBar c r false
  unfold State.removeBar
  dsimp only
  split
  · exact h
  rename_i hhas
  have hne := BarSet.ne_empty_of_has (by simpa [State.inlets] using hhas : (s.inlets c).bars.has r = true)
  split
  · rename_i hrest
    obtain ⟨hempty, hs⟩ := hrest
    have hbars : (s.inlets c).bars.put r false = BarSet.empty := hempty
    obtain ⟨hgrant, hservice, hsettle, -⟩ := (Inlet.lawful_barred (n := s.inlets c) hs).mp hlaw
    refine h.at c (hbar.setInlet c _) (fun d hd => by simp [hd]) ?_
    simp [Inlet.lawful, *]
  · rename_i hrest
    refine h.at c hbar (fun d hd => by simp [hd]) ?_
    rw [inlets_putBar]
    simp only [if_true]
    cases hs : (s.inlets c).state with
    | locked => exact absurd ((Inlet.lawful_locked hs).mp hlaw).2.2.2 hne
    | opened => exact absurd ((Inlet.lawful_opened hs).mp hlaw).2.2.2 hne
    | service => exact (Inlet.lawful_service rfl).mpr ((Inlet.lawful_service hs).mp hlaw)
    | lifting => exact (Inlet.lawful_lifting rfl).mpr ((Inlet.lawful_lifting hs).mp hlaw)
    | settling => exact (Inlet.lawful_settling rfl).mpr ((Inlet.lawful_settling hs).mp hlaw)
    | barred =>
      obtain ⟨hgrant, hservice, hsettle, -⟩ := (Inlet.lawful_barred hs).mp hlaw
      exact (Inlet.lawful_barred rfl).mpr ⟨hgrant, hservice, hsettle, fun hempty => hrest ⟨hempty, hs⟩⟩

/-! #### Cards -/

theorem openFreeGrant (i : Nat) (hlocked : (s.inlets c).state = .locked) (v : Nat) :
    (s.openGrant c i none false v).Sound J H := by
  obtain ⟨hgrant, hservice, hsettle, hbars⟩ := (Inlet.lawful_locked hlocked).mp (h.inlets c)
  unfold State.openGrant
  dsimp only
  refine h.at c (((h.toBooks.freeGrant c _ rfl rfl hgrant).setInlet c _).setCommand c _ _ _ _)
    (fun d hd => by simp [hd]) ?_
  simp [Inlet.lawful, *]

theorem grant (i j : Nat) (hlocked : (s.inlets c).state = .locked)
    (hroom : s.grantReserves c j = true → s.journal.places < 1024) : (s.grant c i j).Sound J H := by
  obtain ⟨hgrant, hservice, hsettle, hbars⟩ := (Inlet.lawful_locked hlocked).mp (h.inlets c)
  have hinlets : ∀ (b : Bool), (if b then s.updJournal Journal.reserve else s).inlets = s.inlets := by
    intro b; cases b <;> rfl
  have hfraction : ∀ (b : Bool), (((if b then s.updJournal Journal.reserve else s).updHousehold j
      (fun r => r.hold (s.container c).cfg.fraction)).container c).cfg.fraction = (s.container c).cfg.fraction := by
    intro b; cases b <;> rfl
  unfold State.grant State.openGrant
  dsimp only
  refine (calm_sound J H).see (h.at c ?_ (fun d hd => by simp [hd, hinlets]) ?_) _ _ _
  · refine (Books.setInlet ?_ c _).setCommand c _ _ _ _
    rw [hfraction]
    exact h.toBooks.holdGrant c
      { card := i, household := some j, fraction := (s.container c).cfg.fraction, period := _
        reserved := s.grantReserves c j, windowLeft := _ } j rfl hgrant hroom
  · simp [Inlet.lawful, *]

theorem lazyReset (j : Nat) : (s.lazyReset j).Sound J H := by
  refine h.same (h.toBooks.congr { h.wf with households := Tab.wf_set h.wf.households } (fun _ => rfl) (fun _ => rfl)
    (fun _ _ _ => rfl) (le_refl _) rfl (fun i f => ?_)) rfl
  unfold State.held State.lazyReset
  rw [State.household_updHousehold]
  split
  · rename_i hi
    rw [hi, held_lazyReset]
  · rfl

theorem quotaAndRoom (i j : Nat) (hlocked : (s.inlets c).state = .locked) : (s.quotaAndRoom c i j).Sound J H := by
  have hreset := h.lazyReset j
  have hlocked' : ((s.lazyReset j).inlets c).state = .locked := hlocked
  unfold State.quotaAndRoom
  dsimp only
  generalize s.lazyReset j = t at *
  split
  · exact hreset.refuseSeen c _ _ _
  · split
    · exact (calm_sound J H).raise _ _ _ _ (hreset.refuseSeen c _ _ _)
    · rename_i hroom
      exact hreset.grant c _ _ hlocked' (fun hreserves => by
        by_contra hfull
        exact hroom ⟨hreserves, by omega⟩)

omit h in
theorem locked_of_inletCheck (hcheck : s.inletCheck c = none) : (s.inlets c).state = .locked := by
  unfold State.inletCheck at hcheck
  dsimp only at hcheck
  have hstate : (s.inlets c).state = (s.container c).inlet.state := rfl
  rw [hstate]
  cases hs : (s.container c).inlet.state <;> simp [hs, InletState.inletRefusal] at hcheck ⊢

theorem residentDecision (i : Nat) : (s.residentDecision c i).Sound J H := by
  unfold State.residentDecision
  dsimp only
  split
  · exact h.refuseSeen c _ _ _
  · split
    · exact h.refuseSeen c _ _ _
    · rename_i hcheck
      split
      · exact h.refuseSeen c _ _ _
      · exact h.quotaAndRoom c _ _ (locked_of_inletCheck c hcheck)

theorem openDecision (i : Nat) : (s.openDecision c i).Sound J H := by
  unfold State.openDecision
  split
  · exact h.refuseSeen c _ _ _
  · rename_i hcheck
    exact h.openFreeGrant c _ (locked_of_inletCheck c hcheck) _

theorem restartService (i : Nat) (v : Service) (hservice : (s.inlets c).state = .service)
    (hsome : (s.inlets c).service = some v) : (s.restartService c i v).Sound J H := by
  obtain ⟨hgrant, hsettle, w, hw, hwindow, hlimit⟩ := (Inlet.lawful_service hservice).mp (h.inlets c)
  obtain rfl : v = w := by rw [hsome] at hw; exact Option.some.inj hw
  unfold State.restartService
  dsimp only
  refine (calm_sound J H).see (h.at c (Books.setCommand (h.toBooks.updInlet c _ rfl ?_) c _ _ _ _)
    (fun d hd => by simp [hd]) ?_) _ _ _
  · simp [Inlet.serviceReserved, hsome]
  · simp [Inlet.lawful, *]

end State.Sound

end Sys2Proof.Machine
end

section
/-! PROOFS. Crew cards, deposits, lifts and expiries keep the law of an inlet and the books (R54, R60, R117, R148). -/

namespace Sys2Proof.Machine

/-- An inlet without records of grant and crew: one at rest, or one whose grant was cut just now (R151, R156). -/
structure Inlet.Free (n : Inlet) : Prop where
  grant : n.grant = none
  service : n.service = none

section
variable {s t : State} {J H : Prop}

/-- A change of one inlet, whatever its law was before. -/
theorem sound_of_others {c : Nat} (hlawful : ∀ d, d ≠ c → (s.inlets d).lawful = true) (hbooks : t.Books J H)
    (hother : ∀ d, d ≠ c → t.inlets d = s.inlets d) (hc : (t.inlets c).lawful = true) : t.Sound J H :=
  { hbooks with
    inlets := fun d => by
      by_cases hd : d = c
      · rw [hd]; exact hc
      · rw [hother d hd]; exact hlawful d hd }

theorem matchRound_updJournal (s : State) (f : Journal → Journal) (c i : Nat) :
    (s.updJournal f).matchRound c i = ((s.matchRound c i).1.updJournal f, (s.matchRound c i).2) := by
  have hpending : (s.updJournal f).pendingStop c (fun d => d.openTo i) = s.pendingStop c (fun d => d.openTo i) := rfl
  have happend : (s.updJournal f).appendRound c i = s.appendRound c i := rfl
  unfold State.matchRound
  rw [hpending, happend]
  split
  · rfl
  · split <;> rfl

variable (hbooks : s.Books J H) {c : Nat} (hlawful : ∀ d, d ≠ c → (s.inlets d).lawful = true)
  (hfree : (s.inlets c).Free)
include hbooks hlawful hfree

/-- A new service, as the record comes with its reservation or without (R152). -/
theorem sound_openService (hsettle : (s.inlets c).settleLeft = none) (i : Nat) (place : Option (Nat × Nat))
    (b : Bool) (hroom : b = true → s.journal.places < 1024) :
    ((if b then s.updJournal Journal.reserve else s).openService c i place b).Sound J H := by
  have hinlets : (if b then s.updJournal Journal.reserve else s).inlets = s.inlets := by cases b <;> rfl
  obtain ⟨hgrant, hservice⟩ := hfree
  unfold State.openService
  dsimp only
  refine sound_of_others hlawful (State.Books.setCommand (State.Books.setInlet ?_ c _) c _ _ _ _)
    (fun d hd => by simp [hd, hinlets]) ?_
  · cases b with
    | false => exact hbooks.freeService c _ _ (fun _ => rfl) (fun _ => rfl) rfl hservice
    | true => exact hbooks.reserveService c _ _ (fun _ => rfl) (fun _ => rfl) rfl hservice (hroom rfl)
  · simp [Inlet.lawful, *]

theorem sound_serviceRoom (hsettle : (s.inlets c).settleLeft = none) (hbars : (s.inlets c).bars = BarSet.empty)
    (cut : Bool) (hstate : cut = false → (s.inlets c).state = .locked) (hpresent : (s.container c).cfg.present = true)
    (i : Nat) : (s.serviceRoom c i cut).Sound J H := by
  have hsettle' := hsettle
  obtain ⟨hgrant, hservice⟩ := id hfree
  unfold State.serviceRoom
  split
  · exact sound_openService hbooks hlawful hfree hsettle i none false (by simp)
  split
  · dsimp only
    have hraised := (calm_books J H).raise _ .journalFull (some 1024) c ((calm_books J H).see hbooks i c .journalFull)
    split
    · refine sound_of_others hlawful ((hraised.setInlet c _).lockClosed c) (fun d hd => by simp [hd]) ?_
      simp [Inlet.lawful, *]
    · rename_i hcut
      refine State.Sound.showCode (sound_of_others hlawful hraised (fun d hd => by simp) ?_) c _ _
      have hlocked := hstate (by simpa using hcut)
      simp [Inlet.lawful, *]
  · rename_i hroom
    dsimp only
    rw [matchRound_updJournal]
    have hmatched := (calm_books J H).matchRound hbooks c i hpresent
    have hplaces : (s.matchRound c i).1.journal = s.journal := by
      unfold State.matchRound
      split
      · rfl
      · split <;> rfl
    have hinlets := s.inlets_matchRound c i
    refine (calm_sound J H).see (sound_openService hmatched (c := c) ?_ ?_ ?_ i _ true ?_) _ _ _
    · rw [hinlets]; exact hlawful
    · rw [hinlets]; exact hfree
    · rw [hinlets]; exact hsettle
    · rw [hplaces]; omega

/-- An unplanned lift begins (R156). -/
theorem sound_unplannedLift : (s.unplannedLift c).Sound J H := by
  obtain ⟨hgrant, hservice⟩ := hfree
  unfold State.unplannedLift
  dsimp only
  refine (calm_sound J H).raise _ _ _ _ ?_
  by_cases hroom : s.journal.places < 1024
  · simp only [hroom, decide_true, if_true]
    refine sound_of_others hlawful (State.Books.setInlet ?_ c _) (fun d hd => by simp [hd]) ?_
    · exact hbooks.reserveService c _ _ (fun _ => rfl) (fun _ => rfl) rfl hservice hroom
    · simp [Inlet.lawful, *]
  · simp only [hroom, decide_false, Bool.false_eq_true, if_false]
    have hraised := (calm_books J H).raise s .journalFull (some 1024) c hbooks
    refine sound_of_others hlawful (State.Books.setInlet ?_ c _) (fun d hd => by simp [hd]) ?_
    · exact hraised.freeService c _ _ (fun _ => rfl) (fun _ => rfl) rfl (by rw [State.inlets_raise]; exact hservice)
    · simp [Inlet.lawful, *]

end

namespace State.Sound

variable {s : State} {J H : Prop} (h : s.Sound J H) (c : Nat)
include h

/-- After a cut the inlet has no record, and the other inlets keep their law. -/
theorem dropGrant_free (hstate : (s.inlets c).state = .opened) :
    (s.dropGrant c).Books J H ∧ (∀ d, d ≠ c → ((s.dropGrant c).inlets d).lawful = true) ∧
      ((s.dropGrant c).inlets c).Free ∧ ((s.dropGrant c).inlets c).settleLeft = none ∧
      ((s.dropGrant c).inlets c).bars = BarSet.empty := by
  obtain ⟨-, hservice, hsettle, hbars⟩ := (Inlet.lawful_opened hstate).mp (h.inlets c)
  refine ⟨h.toBooks.dropGrant c, fun d hd => ?_, ⟨?_, ?_⟩, ?_, ?_⟩
  · rw [inlets_dropGrant]
    simp [hd, h.inlets d]
  all_goals
    rw [inlets_dropGrant]
    simp [hservice, hsettle, hbars]

theorem crewDecision (i : Nat) (hpresent : (s.container c).cfg.present = true) : (s.crewDecision c i).Sound J H := by
  unfold State.crewDecision
  dsimp only
  split
  case h_1 => exact h.refuseSeen c _ _ _
  case h_2 => exact h.refuseSeen c _ _ _
  case h_3 => exact h.refuseSeen c _ _ _
  case h_4 hs =>
    split
    · rename_i v hv
      split
      · exact h.restartService c i v hs hv
      · exact h.refuseSeen c _ _ _
    · exact h.refuseSeen c _ _ _
  case h_5 hs =>
    obtain ⟨hgrant, hservice, hsettle, hbars⟩ := (Inlet.lawful_locked (n := s.inlets c) hs).mp (h.inlets c)
    exact sound_serviceRoom h.toBooks (fun d _ => h.inlets d) ⟨hgrant, hservice⟩ hsettle hbars false (fun _ => hs)
      hpresent i
  case h_6 hs =>
    obtain ⟨hbooks, hlawful, hfree, hsettle, hbars⟩ := h.dropGrant_free c hs
    refine sound_serviceRoom hbooks hlawful hfree hsettle hbars true (by simp) ?_ i
    rw [container_dropGrant]
    split
    · exact hpresent
    · exact hpresent

theorem cardShown (i : Nat) (b : Bool) (n age : Nat) : (s.cardShown i c b n age).Sound J H := by
  unfold State.cardShown
  dsimp only
  split
  · exact h.showCode c _ _
  · rename_i hpresent
    have hpresent' : (s.container c).cfg.present = true := by simpa [State.present] using hpresent
    split
    · refine Sound.showCode ?_ c _ _
      split
      · exact (calm_sound J H).raise _ _ _ _ h
      · exact h
    · split_ifs
      · exact h.refuseSeen c _ _ _
      · exact h.crewDecision c _ hpresent'
      · exact h.openDecision c _
      · exact h.crewDecision c _ hpresent'
      · exact h.refuseSeen c _ _ _
      · exact h.residentDecision c _

/-! #### Deposits -/

omit h in
/-- A grant that closes: the household's count, the record, and LOCK READY (R55, R120). -/
theorem closeGrant_eq (s : State) (c : Nat) (g : Grant) : ∃ r, s.closeGrant c g =
    (((if g.reserved then (s.countedFor g s.period).writeReserved r else s.countedFor g s.period).updInlet c
      (fun n => { n with grant := none })).setInlet c .locked).setCommand c .lock 0 .ready 0 := ⟨_, rfl⟩

theorem closeGrant (g : Grant) (hstate : (s.inlets c).state = .opened) (hsome : (s.inlets c).grant = some g) :
    (s.closeGrant c g).Sound J H := by
  obtain ⟨-, hservice, hsettle, hbars⟩ := (Inlet.lawful_opened hstate).mp (h.inlets c)
  obtain ⟨r, hform⟩ := closeGrant_eq s c g
  rw [hform]
  refine h.at c (Books.setCommand (Books.setInlet (h.toBooks.countGrant c g s.period r hsome) c _) c _ _ _ _)
    (fun d hd => by simp [hd, inlets_recordIf, inlets_countedFor]) ?_
  simp [Inlet.lawful, inlets_recordIf, inlets_countedFor, *]

theorem unattributedTurns (u : Nat) : (s.unattributedTurns c u).Sound J H := by
  unfold State.unattributedTurns
  split
  · exact h
  · exact (calm_sound J H).raise _ _ _ _ (h.updInlet c _ rfl rfl rfl rfl rfl)

theorem shareTurns (n : Nat) : (s.shareTurns c n).Sound J H := by
  unfold State.shareTurns
  dsimp only
  split
  · rename_i g hg
    split at hg
    · rename_i hstate
      exact (calm_sound J H).reportTurns ((h.closeGrant c g hstate hg).unattributedTurns c _) c n
    · simp at hg
  · exact (calm_sound J H).reportTurns (h.unattributedTurns c _) c n

theorem depositDone (count : Nat) : (s.depositDone c count).Sound J H := by
  have hdrum := h.updInlet c (fun k => { k with lastDrum := some count }) rfl rfl rfl rfl rfl
  unfold State.depositDone
  dsimp only
  split_ifs
  · exact hdrum
  · exact hdrum
  · exact hdrum.shareTurns c _

/-! #### Lifts -/

theorem authorizedLift (v : Service) (hstate : (s.inlets c).state = .service) (hsome : (s.inlets c).service = some v) :
    (s.authorizedLift c v).Sound J H := by
  obtain ⟨hgrant, hsettle, -⟩ := (Inlet.lawful_service hstate).mp (h.inlets c)
  unfold State.authorizedLift
  refine h.at c ((h.toBooks.updInlet c _ rfl ?_).setInlet c _) (fun d hd => by simp [hd]) ?_
  · simp [Inlet.serviceReserved, hsome]
  · simp [Inlet.lawful, *]

theorem liftBegun (i : Nat) : (s.liftBegun i c).Sound J H := by
  have hlaw := h.inlets c
  unfold State.liftBegun
  split
  · exact h
  split
  case h_1 hs =>
    split
    · rename_i v hv; exact h.authorizedLift c v hs hv
    · exact h
  case h_2 => exact h
  case h_3 hs =>
    obtain ⟨hbooks, hlawful, hfree, -, -⟩ := h.dropGrant_free c hs
    refine sound_unplannedLift (hbooks.lockClosed c) (fun d hd => ?_) ⟨?_, ?_⟩
    · rw [inlets_lockClosed]
      simp only [if_neg hd]
      exact hlawful d hd
    · rw [inlets_lockClosed]
      simp only [if_true]
      exact hfree.grant
    · rw [inlets_lockClosed]
      simp only [if_true]
      exact hfree.service
  all_goals
    rename_i hs
    have hstate : (s.inlets c).state = _ := hs
    exact sound_unplannedLift h.toBooks (fun d _ => h.inlets d)
      ⟨Inlet.grant_of_not_opened hlaw (by rw [hstate]; simp),
        Inlet.service_of_not_crew hlaw (by rw [hstate]; simp) (by rw [hstate]; simp)⟩

theorem liftTipped (v : Service) (hstate : (s.inlets c).state = .lifting) (hsome : (s.inlets c).service = some v) :
    (s.liftTipped c v).Sound J H := by
  obtain ⟨hgrant, hsettle, -⟩ := (Inlet.lawful_lifting hstate).mp (h.inlets c)
  have hcompleted := (calm_books J H).completeStop h.toBooks c v.place
  have hsome' : ((s.completeStop c v.place).inlets c).service = some v := by rw [inlets_completeStop]; exact hsome
  unfold State.liftTipped
  dsimp only
  refine h.at c ((calm_books J H).emptied (Books.lockClosed (Books.startSettling (Books.putBar
    (hcompleted.recordService c v _ hsome') c _ _) c) c) c) (fun d hd => by simp [hd, inlets_recordIf]) ?_
  simp [Inlet.lawful, inlets_recordIf, *]

theorem liftUntipped (hstate : (s.inlets c).state = .lifting) : (s.liftUntipped c).Sound J H := by
  obtain ⟨hgrant, hsettle, -⟩ := (Inlet.lawful_lifting hstate).mp (h.inlets c)
  unfold State.liftUntipped
  refine h.at c ((((h.toBooks.endWork c _).putBar c _ _).startSettling c).lockClosed c) (fun d hd => by simp [hd]) ?_
  simp [Inlet.lawful, *]

theorem lateEnd (b : Bool) (hstate : (s.inlets c).state = .barred) : (s.lateEnd c b).Sound J H := by
  obtain ⟨hgrant, hservice, hsettle, -⟩ := (Inlet.lawful_barred hstate).mp (h.inlets c)
  have hbar := h.toBooks.putBar c .liftOpen false
  unfold State.lateEnd
  dsimp only
  split
  · have hcompleted := (calm_books J H).completeStop hbar c none
    split
    · rename_i hroom
      refine h.at c ((calm_books J H).emptied ((hcompleted.writeRecord _ hroom).startSettling c) c)
        (fun d hd => by simp [hd]) ?_
      simp [Inlet.lawful, *]
    · refine h.at c ((calm_books J H).emptied (Books.startSettling ((calm_books J H).raise _ .journalFull (some 1024) c
        hcompleted) c) c) (fun d hd => by simp [hd]) ?_
      simp [Inlet.lawful, *]
  · refine h.at c (hbar.startSettling c) (fun d hd => by simp [hd]) ?_
    simp [Inlet.lawful, *]

theorem liftEnded (i : Nat) (b : Bool) : (s.liftEnded i c b).Sound J H := by
  unfold State.liftEnded
  split
  · exact h
  split
  case h_1 hs =>
    split
    · rename_i v hv
      split
      · exact h.liftTipped c v hs hv
      · exact h.liftUntipped c hs
    · exact h
  case h_2 hs =>
    split
    · exact h.lateEnd c b hs
    · exact h
  case h_3 => exact h

/-! #### Expiries -/

theorem grantExpired (hdue : (s.container c).grantDue = true) : (s.grantExpired c).Sound J H := by
  have hlaw := h.inlets c
  have hstate : (s.inlets c).state = .opened := by
    by_contra hne
    have hnone : (s.container c).inlet.grant = none := Inlet.grant_of_not_opened hlaw hne
    simp [Container.grantDue, hnone] at hdue
  obtain ⟨-, hservice, hsettle, hbars⟩ := (Inlet.lawful_opened hstate).mp hlaw
  unfold State.grantExpired
  refine h.at c (((h.toBooks.dropGrant c).setInlet c _).lockClosed c) (fun d hd => by simp [hd]) ?_
  simp [Inlet.lawful, *]

theorem serviceExpired (hdue : (s.container c).serviceDue = true) : (s.serviceExpired c).Sound J H := by
  have hlaw := h.inlets c
  have hwindow : (s.inlets c).service.bind Service.windowLeft = some 0 := by
    simpa [Container.serviceDue, State.inlets] using hdue
  have hstate : (s.inlets c).state = .service := by
    by_contra hne
    by_cases hlifting : (s.inlets c).state = .lifting
    · obtain ⟨-, -, v, hv, hstopped, -⟩ := (Inlet.lawful_lifting hlifting).mp hlaw
      simp [hv, hstopped] at hwindow
    · simp [Inlet.service_of_not_crew hlaw hne hlifting] at hwindow
  obtain ⟨hgrant, hsettle, -⟩ := (Inlet.lawful_service hstate).mp hlaw
  unfold State.serviceExpired State.toRest
  refine h.at c (((h.toBooks.endWork c _).setInlet c _).lockClosed c) (fun d hd => by simp [hd]) ?_
  have hbars : ((s.endWork c .untipped).container c).inlet.bars = (s.inlets c).bars := by
    have hinlet := congrFun (inlets_endWork s c .untipped) c
    simp only [if_true] at hinlet
    change ((s.endWork c .untipped).inlets c).bars = _
    rw [hinlet]
  rw [hbars]
  by_cases hempty : (s.inlets c).bars = BarSet.empty <;> simp [Inlet.lawful, *]

theorem liftExpired (hdue : (s.container c).liftDue = true) : (s.liftExpired c).Sound J H := by
  have hlaw := h.inlets c
  have hlimit : (s.inlets c).service.bind Service.limitLeft = some 0 := by
    simpa [Container.liftDue, State.inlets] using hdue
  have hstate : (s.inlets c).state = .lifting := by
    by_contra hne
    by_cases hservice : (s.inlets c).state = .service
    · obtain ⟨-, -, v, hv, -, hstopped⟩ := (Inlet.lawful_service hservice).mp hlaw
      simp [hv, hstopped] at hlimit
    · simp [Inlet.service_of_not_crew hlaw hservice hne] at hlimit
  obtain ⟨hgrant, hsettle, -⟩ := (Inlet.lawful_lifting hstate).mp hlaw
  have hraised := (calm_books J H).raise s .liftTimeout (some c) 0 h.toBooks
  have hne := (s.inlets c).bars.put_ne_empty .liftOpen
  unfold State.liftExpired
  dsimp only
  refine h.at c ((calm_books J H).makeUnknown (((((hraised.endWork c _).putBar c _ _).setInlet c _).lockClosed c)) c)
    (fun d hd => by simp [hd]) ?_
  simp [Inlet.lawful, *]

theorem settled (hdue : (s.container c).settleDue = true) : (s.settled c).Sound J H := by
  have hlaw := h.inlets c
  have hsettle : (s.inlets c).settleLeft = some 0 := by
    simpa [Container.settleDue, State.inlets] using hdue
  have hstate : (s.inlets c).state = .settling := by
    by_contra hne
    simp [Inlet.settleLeft_of_not_settling hlaw hne] at hsettle
  obtain ⟨hgrant, hservice, -⟩ := (Inlet.lawful_settling hstate).mp hlaw
  unfold State.settled State.toRest
  refine h.at c ((h.toBooks.updInlet c _ rfl rfl).setInlet c _) (fun d hd => by simp [hd]) ?_
  rw [State.container_updInlet, if_pos rfl]
  have hbars : (s.container c).inlet.bars = (s.inlets c).bars := rfl
  dsimp only
  rw [hbars]
  by_cases hempty : (s.inlets c).bars = BarSet.empty <;> simp [Inlet.lawful, *]

/-! #### Changes at every container -/

/-- A change of every container that keeps at each inlet its law, its grant's terms and its service's reservation. -/
theorem mapContainers (f : Nat → Container → Container) (hblank : ∀ d, f d Container.blank = Container.blank)
    (hgrant : ∀ d k, (f d k).inlet.grantReserved = k.inlet.grantReserved)
    (hservice : ∀ d k, (f d k).inlet.serviceReserved = k.inlet.serviceReserved)
    (hbinds : ∀ d k i g, (f d k).inlet.binds i g = k.inlet.binds i g)
    (hlaw : ∀ d k, (f d k).inlet.lawful = k.inlet.lawful) :
    ({ s with containers := Tab.map Container.blank f s.containers } : State).Sound J H := by
  have hinlet : ∀ d, ({ s with containers := Tab.map Container.blank f s.containers } : State).inlets d =
      (f d (s.container d)).inlet := fun d => congrArg Container.inlet (Tab.get_map (hblank d) h.wf.containers)
  refine ⟨h.toBooks.congr { h.wf with containers := Tab.wf_map h.wf.containers } (fun d => ?_) (fun d => ?_)
    (fun d i g => ?_) (le_refl _) rfl (fun _ _ => rfl), fun d => ?_⟩
  · rw [hinlet]; exact hgrant d _
  · rw [hinlet]; exact hservice d _
  · rw [hinlet]; exact hbinds d _ i g
  · rw [hinlet, hlaw]; exact h.inlets d

theorem freeServices (r : Nat) : (s.freeServices r).Sound J H := by
  refine h.mapContainers _ (fun _ => rfl) (fun d k => ?_) (fun d k => ?_) (fun d k i g => ?_) (fun d k => ?_)
  all_goals
    split
    · rename_i v hv
      split
      · simp [Inlet.grantReserved, Inlet.serviceReserved, Inlet.binds, Inlet.lawful, hv]
      · rfl
    · rfl

omit h in
/-- A second off a grant's window keeps the grant's terms and the inlet's law. -/
theorem second_inlet (b : Bool) (k : Container) :
    (k.second b).inlet.grantReserved = k.inlet.grantReserved ∧
      (k.second b).inlet.serviceReserved = k.inlet.serviceReserved ∧
      (∀ i g, (k.second b).inlet.binds i g = k.inlet.binds i g) ∧ (k.second b).inlet.lawful = k.inlet.lawful := by
  refine ⟨?_, ?_, fun i g => ?_, ?_⟩
  · cases hg : k.inlet.grant <;> simp [Container.second, Inlet.grantReserved, hg]
  · cases hv : k.inlet.service <;> simp [Container.second, Inlet.serviceReserved, hv]
  · cases hg : k.inlet.grant <;> simp [Container.second, Inlet.binds, hg]
  · cases hv : k.inlet.service <;> cases hs : k.inlet.state <;>
      simp [Container.second, Inlet.lawful, countDown, hv, hs]

theorem secondEvent : s.secondEvent.Sound J H := by
  have hmap := h.mapContainers (fun d k => k.second (s.isHeld (stationOf d)))
    (fun d => by cases s.isHeld (stationOf d) <;> rfl)
    (fun d k => (second_inlet _ k).1) (fun d k => (second_inlet _ k).2.1) (fun d k => (second_inlet _ k).2.2.1)
    (fun d k => (second_inlet _ k).2.2.2)
  exact hmap.same (hmap.toBooks.same { hmap.wf with } rfl rfl rfl) rfl

theorem minutes :
    ({ s with containers := Tab.map Container.blank (fun _ k => k.minute) s.containers } : State).Sound J H := by
  have hinlet : ∀ k : Container, k.minute.inlet = k.inlet := fun k => by
    unfold Container.minute
    split <;> rfl
  exact h.mapContainers _ (fun _ => rfl) (fun _ k => by rw [hinlet]) (fun _ k => by rw [hinlet])
    (fun _ k _ _ => by rw [hinlet]) (fun _ k => by rw [hinlet])

end State.Sound

theorem acts_sound (J H : Prop) : Acts (fun t => t.Sound J H) where
  toCalm := calm_sound J H
  command := fun hs c f hf => hs.updInlet c f (by rw [hf]) (by rw [hf]) (by rw [hf]) (by rw [hf]) (by rw [hf])
  drumForgotten := fun hs c => hs.updInlet c _ rfl rfl rfl rfl rfl
  addBar := fun hs c r => hs.addBar c r
  removeBar := fun hs c r => hs.removeBar c r
  cardShown := fun hs i c b n age => hs.cardShown c i b n age
  depositDone := fun hs c n => hs.depositDone c n
  liftBegun := fun hs i c => hs.liftBegun c i
  liftEnded := fun hs i c b => hs.liftEnded c i b
  grantExpired := fun hs c hdue => hs.grantExpired c hdue
  serviceExpired := fun hs c hdue => hs.serviceExpired c hdue
  liftExpired := fun hs c hdue => hs.liftExpired c hdue
  settled := fun hs c hdue => hs.settled c hdue
  freeServices := fun hs r => hs.freeServices r
  secondEvent := fun hs => hs.secondEvent
  minutes := fun hs => hs.minutes

end Sys2Proof.Machine
end

section
/-! PROOFS. Requests and starts keep the law of an inlet and the books, and the statements on them (R54, R60, R117, R148). -/

namespace Sys2Proof.Machine

namespace State.Sound

variable {s t : State} {J H : Prop} (h : s.Sound J H)
include h

/-- A state with the same inlets, counts of the journal, and households. -/
theorem kept (hwf : t.Canonical) (hinlets : t.inlets = s.inlets) (hjournal : t.journal = s.journal)
    (hhouseholds : t.households = s.households) : t.Sound J H :=
  h.same (h.toBooks.same hwf hinlets hjournal hhouseholds) hinlets

theorem release (n : Nat) : (s.updJournal (fun j => j.release n)).Sound J H := by
  refine h.same (h.toBooks.congr { h.wf with } (fun _ => rfl) (fun _ => rfl) (fun _ _ _ => rfl) ?_ rfl
    (fun _ _ => rfl)) rfl
  simp [Journal.places, Journal.release, State.updJournal]

theorem abandonSave : s.abandonSave.Sound J H := by
  have hwf := h.wf.abandonSave
  unfold State.abandonSave at *
  split
  · rename_i hsaving
    rw [if_pos hsaving] at hwf
    exact h.kept hwf rfl rfl rfl
  · exact h

theorem updContainerCfg (c : Nat) (f : Container → Container) (hinlet : ∀ k, (f k).inlet = k.inlet) :
    (s.updContainer c f).Sound J H :=
  h.same (h.toBooks.updContainer c f (by rw [hinlet]; rfl) (by rw [hinlet]; rfl))
    (State.inlets_updContainer_same s c f hinlet)

theorem householdCfg (i : Nat) (p : HouseholdCfg) : (s.updHousehold i (fun k => { k with cfg := p })).Sound J H := by
  refine h.same (h.toBooks.congr { h.wf with households := Tab.wf_set h.wf.households } (fun _ => rfl) (fun _ => rfl)
    (fun _ _ _ => rfl) (le_refl _) rfl (fun j f => ?_)) rfl
  unfold State.held
  rw [State.household_updHousehold]
  split
  · rename_i hj; rw [hj]
  · rfl

end State.Sound

theorem deeds_sound (J H : Prop) : Deeds (fun t => t.Sound J H) where
  toActs := acts_sound J H
  release := fun h n => h.release n
  relay := fun s i f _ h => by
    refine h.kept (h.wf.updLine _ _) ?_ (s.updLine_journal _ _) (s.updLine_households _ _)
    exact State.inlets_congr (s.updLine_containers _ _)
  params := fun _ _ _ _ h => h.kept { h.wf with } rfl rfl rfl
  stationCfg := fun _ _ _ _ h => h.kept { h.wf with stations := Tab.wf_set h.wf.stations } rfl rfl rfl
  cardCfg := fun _ _ _ _ h => h.kept { h.wf with cards := Tab.wf_set h.wf.cards } rfl rfl rfl
  householdCfg := fun _ i p _ h => h.householdCfg i p
  writeRound := fun _ _ _ _ _ h => h.kept (h.wf.updRound _ _) rfl rfl rfl
  draft := fun _ _ _ _ _ _ _ h => h.kept (h.wf.updRound _ _) rfl rfl rfl
  banks := fun _ _ _ _ h => h.kept { h.wf with banks := Tab.wf_set h.wf.banks } rfl rfl rfl
  fractions := fun _ _ _ _ h => h.kept { h.wf with fractions := Tab.wf_set h.wf.fractions } rfl rfl rfl
  shapes := fun _ _ _ _ h => h.kept { h.wf with shapes := Tab.wf_set h.wf.shapes } rfl rfl rfl
  priority := fun _ _ _ _ h => h.kept { h.wf with classes := Tab.wf_set h.wf.classes } rfl rfl rfl
  clearFlags := fun _ _ h => h.kept { h.wf with classes := Tab.wf_map h.wf.classes } rfl rfl rfl
  clock := fun _ _ h => h.kept { h.wf with } rfl rfl rfl
  part := fun _ _ h => h.kept { h.wf with } rfl rfl rfl
  abandonSave := fun _ h => h.abandonSave
  writeContainer := fun s c p _ h =>
    Acts.writeContainer (acts_sound J H) c p (h.updContainerCfg c _ (fun _ => rfl)) (fun t ht =>
      ht.kept { ht.wf with containers := Tab.wf_set ht.wf.containers } (by simp) rfl rfl)

/-! ### Starts -/

/-- Every inlet after a start is BARRED, with NOT_SEEN among its reasons (R107). -/
theorem inlet_startValues (s : State) (c : Nat) : ∃ bars, bars ≠ BarSet.empty ∧
    s.startValues.inlets c = Inlet.start bars := by
  unfold State.inlets
  rw [container_startValues]
  split
  · exact ⟨_, by simp [BarSet.empty], rfl⟩
  · exact ⟨_, by simp [BarSet.empty], rfl⟩

/-- The start values keep the law and the books, whatever the inlets were (R190). -/
theorem sound_startValues {s : State} {J H : Prop} (hwf : s.Canonical)
    (hrecords : J → s.journal.records.length ≤ 1024) : s.startValues.Sound J H := by
  have hwf' := hwf.startValues
  refine ⟨⟨hwf', fun hJ => ⟨by simpa [Journal.places, State.startValues] using hrecords hJ, ?_⟩, fun _ i f => ?_⟩,
    fun c => ?_⟩
  · rw [(s.startValues.reservations_eq hwf').2]
    refine (finsum_eq_zero_of_forall_eq_zero (fun c => ?_)).symm
    obtain ⟨bars, -, hinlet⟩ := inlet_startValues s c
    rw [hinlet]
    rfl
  · rw [(s.startValues.openGrants_eq hwf' i f).2, household_startValues hwf.households]
    have hzero : PerFraction.zero.get f = 0 := by cases f <;> rfl
    rw [hzero]
    refine (finsum_eq_zero_of_forall_eq_zero (fun c => ?_)).symm
    obtain ⟨bars, -, hinlet⟩ := inlet_startValues s c
    rw [hinlet]
    rfl
  · obtain ⟨bars, hbars, hinlet⟩ := inlet_startValues s c
    rw [hinlet]
    simp [Inlet.lawful, Inlet.start, hbars]

theorem records_of_books {s : State} {J H : Prop} (h : s.Books J H) (hJ : J) : s.journal.records.length ≤ 1024 :=
  le_trans (Nat.le_add_right _ _) (h.journal hJ).1

theorem records_loadedFor (s : State) (kind : StartKind) (found : ImageState) :
    (s.loadedFor kind found).journal.records.length ≤ s.journal.records.length := by
  have habandon : s.abandonSave.journal = s.journal := by
    unfold State.abandonSave
    split <;> rfl
  have hretained : (if kind = .cold then s.abandonSave.initRetained else s.abandonSave).journal.records.length ≤
      s.journal.records.length := by
    split
    · exact Nat.zero_le _
    · rw [habandon]
  unfold State.loadedFor
  dsimp only
  split
  · exact hretained
  · exact hretained

theorem sound_enterLoading {s : State} {J H : Prop} (h : s.Sound J H) (kind : StartKind) (cause : StartCause)
    (levels : StartLevels) : (s.enterLoading kind cause levels).Sound J H := by
  have hstart : (s.loadedFor kind (s.foundAt cause levels)).startValues.Sound J H :=
    sound_startValues (h.wf.loadedFor kind _) (fun hJ => (records_loadedFor s kind _).trans (records_of_books h.toBooks hJ))
  have hwf := h.wf.enterLoading kind cause levels
  rw [enterLoading_eq] at hwf ⊢
  exact hstart.kept hwf rfl rfl rfl

theorem course_sound (J H : Prop) : Course (fun t => t.Sound J H) (fun t => t.Sound J H) where
  toDeeds := deeds_sound J H
  weaken := fun _ h => h
  receive := fun s f h => by
    unfold State.bufferFrame
    split
    · exact h.kept { h.wf with } rfl rfl rfl
    · exact h
  transmit := fun _ h => h.kept { h.wf with } rfl rfl rfl
  transmitted := fun _ h => h.kept { h.wf with } rfl rfl rfl
  handled := fun _ _ rest _ _ _ hbody h => by
    have hdone := hbody _ (deeds_sound J H) _ (h.kept (h.wf.updLink (fun e => { e with rx := rest })) rfl rfl rfl)
    exact hdone.kept { hdone.wf with } rfl rfl rfl
  power := fun _ _ h => h.kept { h.wf with } rfl rfl rfl
  stop := fun _ h => h.abandonSave.kept { h.abandonSave.wf with } rfl rfl rfl
  loading := fun _ kind cause levels h => sound_enterLoading h kind cause levels
  startValues := fun _ h => sound_startValues h.wf (fun hJ => records_of_books h.toBooks hJ)
  saved := fun s h => h.kept (steps_canonical.saved s h.wf) rfl rfl rfl
  failed := fun s h => h.kept (steps_canonical.failed s h.wf) rfl rfl rfl

theorem sound_step {s t : State} {J H : Prop} (hcanonical : s.canonical = true) (hinlets : s.inletsLawful)
    (hjournal : J → s.journalLawful) (hhouseholds : H → s.householdsLawful) (hstep : step s = .next t) : t.Sound J H :=
  after_of_course (course_sound J H) (fun _ _ h => h.kept { h.wf with } rfl rfl rfl)
    ⟨⟨s.canonical_iff.mp hcanonical, hjournal, hhouseholds⟩, hinlets⟩ hstep

/-! ### The statements -/

/-- Settles O7: every event at an inlet keeps the law (`course_sound`), without a claim on the books. -/
theorem grantAndCrewLawKept : Obligations.GrantAndCrewLawKept := by
  intro s t hcanonical hinlets hstep
  exact (sound_step (J := False) (H := False) hcanonical hinlets False.elim False.elim hstep).inlets

/-- Settles O9: a record and its reservation come and go together (`course_sound`). -/
theorem journalLawKept : Obligations.JournalLawKept := by
  intro s t hcanonical hinlets hjournal hstep
  exact (sound_step (J := True) (H := False) hcanonical hinlets (fun _ => hjournal) False.elim hstep).journal trivial

/-- Settles O10: a grant and its hold come and go together (`course_sound`). -/
theorem householdLawKept : Obligations.HouseholdLawKept := by
  intro s t hcanonical hinlets hhouseholds hstep
  exact (sound_step (J := False) (H := True) hcanonical hinlets False.elim (fun _ => hhouseholds) hstep).households trivial

end Sys2Proof.Machine
end

section
/-! PROOFS. Reset, and what a request that a RUNNING part takes leaves: its body's state with one reply (R178, 11.7); the
statements of the short requests and of the events that are not due. -/

namespace Sys2Proof.Machine

/-! ### A request that is answered -/

/-- One reply more behind those that wait (R178). -/
def State.withReply (t : State) (r : Frame) : State :=
  { t with link := { t.link with replies := t.link.replies ++ [r] } }

section
variable (t : State) (r : Frame) (i : Nat)

@[simp] theorem State.container_withReply : (t.withReply r).container i = t.container i := rfl
@[simp] theorem State.round_withReply : (t.withReply r).round i = t.round i := rfl
@[simp] theorem State.card_withReply : (t.withReply r).card i = t.card i := rfl
@[simp] theorem State.station_withReply : (t.withReply r).station i = t.station i := rfl
@[simp] theorem State.household_withReply : (t.withReply r).household i = t.household i := rfl
@[simp] theorem State.noticeClass_withReply : (t.withReply r).noticeClass i = t.noticeClass i := rfl
@[simp] theorem State.line_withReply (l : Line) : (t.withReply r).line l = t.line l := by cases l <;> rfl

variable (rest : List Frame)

@[simp] theorem State.container_dropFrame : (t.dropFrame rest).container i = t.container i := rfl
@[simp] theorem State.round_dropFrame : (t.dropFrame rest).round i = t.round i := rfl
@[simp] theorem State.card_dropFrame : (t.dropFrame rest).card i = t.card i := rfl
@[simp] theorem State.station_dropFrame : (t.dropFrame rest).station i = t.station i := rfl
@[simp] theorem State.household_dropFrame : (t.dropFrame rest).household i = t.household i := rfl
@[simp] theorem State.noticeClass_dropFrame : (t.dropFrame rest).noticeClass i = t.noticeClass i := rfl
@[simp] theorem State.line_dropFrame (l : Line) : (t.dropFrame rest).line l = t.line l := by cases l <;> rfl

end

section
variable {s t : State} {q : Request} {body : Frame → State → State × Answer} {f : Frame} {rest : List Frame} {code : Byte}
  {o : List Byte} {a : Answer}

/-- A request that a RUNNING part takes: the body's state with its reply. -/
theorem State.handle_done (h : s.takes f rest) (hf : f.asks code o) (hq : Request.ofCode code.toNat = q)
    (hj : q ≠ .journalRead) (hb : body f (s.dropFrame rest) = (t, a)) :
    s.handle q body = t.withReply (f.reply 0x22#8 (BitVec.ofNat 8 a.result.code) code a.data) := by
  rw [State.handle_of h ((requestOf_asks hf).trans hq) hb, replyCode_asks hf, replyKind_eq, requestOf_asks hf, hq,
    if_neg hj]
  rfl

/-- A request that is refused: nothing but the reply. -/
theorem State.handle_refused (h : s.takes f rest) (hf : f.asks code o) (hq : Request.ofCode code.toNat = q)
    (hj : q ≠ .journalRead) (r : Result) (hb : body f (s.dropFrame rest) = (s.dropFrame rest, replyOnly r)) :
    s.handle q body = s.answered f rest (BitVec.ofNat 8 r.code) code [] :=
  State.handle_answered h hf hq hj hb

theorem State.answered_eq (s : State) (f : Frame) (rest : List Frame) (result code : Byte) (data : List Byte) :
    s.answered f rest result code data = (s.dropFrame rest).withReply (f.reply 0x22#8 result code data) := rfl

end

/-! ### The operand bytes -/

section
variable (a b c d e : Byte)

theorem ofBe_one : ofBe [a] = a.toNat := by simp [ofBe]

theorem ofBe_two : ofBe [a, b] = a.toNat * 256 + b.toNat := by simp [ofBe]

theorem ofBe_three : ofBe [a, b, c] = a.toNat * 65536 + b.toNat * 256 + c.toNat := by
  simp [ofBe]; ring

theorem be_one_toNat : be 1 a.toNat = [a] := by
  have hspelled := be_ofBe [a]
  rwa [ofBe_one] at hspelled

end

/-! ### Reset -/

/-- Settles O3: the state after reset is given by name, and its tables are empty. -/
theorem resetIsAFreshColdStart : Obligations.ResetIsAFreshColdStart := by
  refine ⟨rfl, rfl, rfl, rfl, rfl, by decide, rfl, fun i => ⟨rfl, rfl, rfl, rfl, rfl⟩,
    fun c => ⟨rfl, rfl, rfl, rfl, rfl, rfl, rfl, rfl, rfl, rfl, rfl, rfl, rfl⟩, fun h => ⟨rfl, rfl, rfl⟩, fun i => rfl,
    fun r => ⟨rfl, rfl, rfl⟩, rfl, rfl, rfl, rfl, by decide, fun n hn => ?_, rfl, rfl, rfl, rfl, rfl⟩
  have hblank : State.reset.noticeClass n = NoticeClass.blank := by
    unfold State.noticeClass
    simp [State.reset, Tab.get, Tab.find, Ne.symm hn]
  rw [hblank]
  exact ⟨rfl, rfl⟩

theorem crossLegal_reset : State.reset.crossLegal := by
  refine ⟨fun r => ⟨fun p hp => ?_, ?_⟩, fun c hc => ?_⟩
  · exact absurd hp List.not_mem_nil
  · exact List.nodup_nil
  · exact absurd hc Bool.false_ne_true

/-- Settles O4: the witnesses of the laws hold at reset itself. -/
theorem resetKeepsTheLaws : Obligations.ResetKeepsTheLaws := by
  obtain ⟨hqueues, hwf, hinlets, hdue, hjournal, hhouseholds, -⟩ := Sys2Proof.Tests.witness_laws
  obtain ⟨hlegal, -⟩ := Sys2Proof.Tests.witness_ConfigurationStaysInRange
  exact ⟨hqueues, hwf, hinlets, hdue, hjournal, hhouseholds, hlegal, crossLegal_reset⟩

/-! ### Line frames and the clock -/

/-- Settles O14: the one line's turn awaits its answer. -/
theorem frameSentOpensTheWindow : Obligations.FrameSentOpensTheWindow := by
  intro s l
  refine ⟨_, rfl, ?_, s.line_updLine_same l _, fun l' hl' => ?_⟩
  · cases l <;> rfl
  · rw [State.line_updLine, if_neg hl']

/-- Settles O23: BAD_LENGTH, BAD_VALUE, or the time is pending. -/
theorem setTimeMakesATimePending : Obligations.SetTimeMakesATimePending := by
  intro s f rest o ht hf
  have hrun : ∀ t a, setTimeBody f (s.dropFrame rest) = (t, a) → exec .setTime s =
      .next (t.withReply (f.reply 0x22#8 (BitVec.ofNat 8 a.result.code) 0x07#8 a.data)) :=
    fun t a hb => congrArg Host.Outcome.next (State.handle_done ht hf rfl (by decide) hb)
  have hno : ∀ r, setTimeBody f (s.dropFrame rest) = (s.dropFrame rest, replyOnly r) → exec .setTime s =
      .next (s.answered f rest (BitVec.ofNat 8 r.code) 0x07#8 []) := fun r hb => hrun _ _ hb
  refine ⟨fun hl => hno .badLength ?_, fun d1 d0 s2 s1 s0 ho => ?_⟩
  · simp only [setTimeBody, operandsOf_asks hf]
    exact if_pos hl
  subst ho
  have hday : field [d1, d0, s2, s1, s0] 0 2 = d1.toNat * 256 + d0.toNat := ofBe_two d1 d0
  have hsec : field [d1, d0, s2, s1, s0] 2 3 = s2.toNat * 65536 + s1.toNat * 256 + s0.toNat := ofBe_three s2 s1 s0
  refine ⟨fun hover => hno .badValue ?_, fun hlegal =>
    (hrun { s.dropFrame rest with clock := { s.clock with pending := some { day := _, sec := _ } } } (replyOnly .ok) ?_)⟩
  · simp [setTimeBody, operandsOf_asks hf, hsec, hover]
  · simp [setTimeBody, operandsOf_asks hf, hsec, hday, Nat.not_lt.mpr hlegal]
    exact ⟨rfl, rfl⟩

/-- Settles O26: outside RUNNING the advance looks at the supplies alone. -/
theorem advanceOutsideRunning : Obligations.AdvanceOutsideRunning := by
  intro s hphase
  have hrunning : s.running = false := by simp [State.running, hphase]
  refine ⟨fun hsupply => ?_, fun hmain hbackup => ?_⟩
  · have hsome : (s.power.main || s.power.backup) = true := by rwa [Bool.or_eq_true]
    exact congrArg Host.Outcome.next (by rw [hrunning, hsome]; rfl)
  · exact congrArg Host.Outcome.next (by rw [hrunning, hmain, hbackup]; rfl)

/-! ### Quotas -/

/-- Settles O34: the reset and the check as the model computes them. -/
theorem quotaIsCheckedInThePeriod : Obligations.QuotaIsCheckedInThePeriod := by
  intro r f p
  have hpasses : r.quotaPasses f = true ↔ r.cfg.allowance.get f = 255 ∨
      r.used.get f + r.held.get f < r.cfg.allowance.get f := by
    simp [Household.quotaPasses]
  refine ⟨fun hepoch => if_neg hepoch, fun hepoch => if_pos hepoch, hpasses, fun hzero => ?_, rfl⟩
  rw [← Bool.not_eq_true, hpasses]
  omega

/-! ### What is not due -/

/-- A command with a condition has no effect outside RUNNING, or where its condition does not stand. -/
theorem next_unless {s t : State} (h : s.running = true → t = s) :
    (Host.Outcome.next (if s.running then t else s) : Host.Outcome State Fault Refusal) = .next s := by
  split
  next hr => rw [h hr]
  · rfl

theorem takeIf_not_due {s : State} {c : Nat} {due : Container → Bool} {f : State → Nat → State}
    (h : due (s.container c) = false) : s.takeIf c due f = s := by
  simp [State.takeIf, h]

theorem takeStage_not_due {s : State} {g : TickStage} (h : s.planner.tickTodo.head? ≠ some g) : s.takeStage g = s := by
  unfold State.takeStage
  split
  · rename_i g' rest htodo
    rw [if_neg]
    rintro rfl
    simp [htodo] at h
  · rfl

/-- Settles O45: each command's condition is asked before its effect. -/
theorem whatIsNotDueHasNoEffect : Obligations.WhatIsNotDueHasNoEffect := by
  intro s c
  have hidle : ∀ {t : State} {P : Prop}, P ∨ s.part.phase ≠ .running → (P → t = s) →
      (Host.Outcome.next (if s.running then t else s) : Host.Outcome State Fault Refusal) = .next s := by
    intro t P h hP
    refine next_unless (fun hrunning => h.elim hP (fun hphase => absurd ?_ hphase))
    simpa [State.running] using hrunning
  refine ⟨fun hqueue => ?_, fun h => hidle h (fun hdue => takeIf_not_due ?_),
    fun h => hidle h (fun hdue => takeIf_not_due ?_), fun h => hidle h takeIf_not_due, fun h => hidle h takeIf_not_due,
    fun h => hidle h takeIf_not_due, fun h => hidle h takeIf_not_due, fun h => hidle h (fun hdue => ?_),
    fun h => hidle h takeStage_not_due, fun h => hidle h takeStage_not_due⟩
  · simp [step, hqueue]
  · simp [Container.countdownDue, hdue]
  · simp [Container.outstandingDue, hdue]
  · unfold State.takeHold
    split
    next hleft => exact absurd hleft hdue
    · rfl

/-! ### Round commands and relay frames -/

/-- Settles O49: BAD_LENGTH, BAD_INDEX, or the command waits at its round. -/
theorem roundCommandsWaitForTheTick : Obligations.RoundCommandsWaitForTheTick := by
  intro s f rest o ht q hq hf
  have hrun : ∀ t a, roundCommandBody q.2.2 f (s.dropFrame rest) = (t, a) → exec q.2.1 s =
      .next (t.withReply (f.reply 0x22#8 (BitVec.ofNat 8 a.result.code) q.1 a.data)) := by
    intro t a hb
    simp only [List.mem_cons, List.not_mem_nil, or_false] at hq
    obtain rfl | rfl | rfl := hq
    all_goals exact congrArg Host.Outcome.next (State.handle_done ht hf rfl (by decide) hb)
  have hno : ∀ r, roundCommandBody q.2.2 f (s.dropFrame rest) = (s.dropFrame rest, replyOnly r) → exec q.2.1 s =
      .next (s.answered f rest (BitVec.ofNat 8 r.code) q.1 []) := fun r hb => hrun _ _ hb
  refine ⟨fun hl => hno .badLength ?_, fun r ho hr => hno .badIndex ?_, fun r ho hr => ?_⟩
  · simp only [roundCommandBody, operandsOf_asks hf]
    exact if_pos hl
  all_goals
    subst ho
    have hfield : field [r] 0 1 = r.toNat := ofBe_one r
  · simp [roundCommandBody, operandsOf_asks hf, hfield, hr]
  · refine ⟨_, hrun ((s.dropFrame rest).updRound r.toNat (fun d => { d with requested := some q.2.2 })) (replyOnly .ok) ?_,
      rfl, fun j hj => ?_, ?_⟩
    · simp [roundCommandBody, operandsOf_asks hf, hfield, Nat.not_lt.mpr hr]
    · rw [State.round_withReply, State.round_updRound, if_neg hj, State.round_dropFrame]
    · rw [State.round_withReply, State.round_updRound_same, State.round_dropFrame]

/-- Settles O55: BAD_STATE, QUEUE_FULL, or an entry at the end of the line's queue. -/
theorem relayFrameJoinsTheQueue : Obligations.RelayFrameJoinsTheQueue := by
  intro s f rest i ht hi hdst hkind
  have hown : f.dst ≠ 0x00#8 := by rw [hdst]; exact stationAddress_ne_own i hi
  have hrequest : requestOf f = .relay := by simp [requestOf, ownAddress, hown, hkind, kindStationCmd]
  have hrun : ∀ t a, relayBody f (s.dropFrame rest) = (t, a) → exec .relayStationCmd s =
      .next (t.withReply (f.reply 0x22#8 (BitVec.ofNat 8 a.result.code) 0x00#8 a.data)) := by
    intro t a hb
    refine congrArg Host.Outcome.next ((State.handle_of ht hrequest hb).trans ?_)
    rw [replyCode_relay hown, replyKind_eq, hrequest]
    rfl
  have hstation : stationOfAddress f.dst = some i := by rw [hdst, stationOfAddress_stationAddress i hi]
  have hbody : relayBody f (s.dropFrame rest) =
      if (s.station i).state = .lost ∨ (s.station i).state = .disabled then (s.dropFrame rest, replyOnly .badState)
      else if 8 ≤ (s.line (lineOf i)).relay.length then (s.dropFrame rest, replyOnly .queueFull)
      else ((s.dropFrame rest).appendRelay i f, replyOnly .ok) := by
    unfold relayBody
    rw [hstation]
    dsimp only
    rw [State.line_dropFrame, State.station_dropFrame]
  refine ⟨fun hstate => hrun _ _ (hbody.trans (if_pos hstate)), fun hlost hdisabled hfull => ?_,
    fun hlost hdisabled hroom => ?_⟩
  · exact hrun _ _ (by rw [hbody, if_neg (by simp [hlost, hdisabled]), if_pos hfull])
  · refine ⟨_, hrun _ _ (by rw [hbody, if_neg (by simp [hlost, hdisabled]), if_neg (by omega)]), ?_, fun l hl => ?_, ?_⟩
    all_goals unfold State.appendRelay
    · cases lineOf i <;> rfl
    · rw [State.line_withReply, State.line_updLine, if_neg hl, State.line_dropFrame]
    · rw [State.line_withReply, State.line_updLine_same, State.line_dropFrame]

end Sys2Proof.Machine
end

section
/-! PROOFS. The journal and the notice flags over the backhaul, and the byte layouts they are read by (R32, R65, R66, 11.7). -/

namespace Sys2Proof.Machine

/-! ### Positions of a layout -/

theorem spells_be (w v : Nat) : spells (be w v) [num w v] := spells_num rfl (length_be w v)

/-- One position more in front. -/
theorem spells_cons {a b : List Byte} {p : Position} {ps : List Position} (ha : spells a [p]) (hb : spells b ps) :
    spells (a ++ b) (p :: ps) := spells_append ha hb

theorem spells_time (t : Time) : spells (timeBytes t) (timePositions (some t)) :=
  spells_append (spells_be 2 t.day) (spells_be 3 t.sec)

theorem be_all_ones : be 2 0xFFFF ++ be 3 0xFFFFFF = ffBytes 5 := by decide

theorem spells_timeOrFF : ∀ t : Option Time, spells (timeOrFF t) (timePositions t)
  | some t => spells_time t
  | none => by
    show spells (ffBytes 5) [num 2 0xFFFF, num 3 0xFFFFFF]
    rw [← be_all_ones]
    exact spells_append (spells_be 2 _) (spells_be 3 _)

@[simp] theorem length_absent (site n : Nat) : (absent site n).length = n := by simp [absent]

theorem spells_absent (site w : Nat) : spells (absent site w) [{ width := w, shown := none }] :=
  spells_shown (length_absent site w) (fun _ h => nomatch h)

theorem length_optBytes (site w : Nat) (v : Option Nat) : (optBytes site w v).length = w := by
  cases v <;> simp [optBytes]

/-- A number that is shown where it is present, and free where not. -/
theorem spells_optBytes (site w : Nat) (v : Option Nat) : spells (optBytes site w v) [{ width := w, shown := v }] :=
  spells_shown (length_optBytes site w v) (fun k hk => by rw [hk]; rfl)

theorem bit_eq (b : Bool) (n : Nat) : bit b n = b.toNat * 2 ^ n := by cases b <;> simp [bit]

/-! ### The journal (R65, R66) -/

theorem spells_journalRecord (r : JournalRecord) : spells r.bytes r.layout := by
  have hflags : bit r.late 0 + bit r.openMode 1 + bit r.period.isSome 2 =
      flagBits [r.late, r.openMode, r.period.isSome] := by
    simp only [bit_eq, flagBits]
    omega
  unfold JournalRecord.bytes JournalRecord.layout
  rw [hflags]
  simp only [List.append_assoc, List.cons_append, List.nil_append]
  exact spells_cons (spells_be 2 _) (spells_cons (spells_be 1 _) (spells_append (spells_time _)
    (spells_cons (spells_be 1 _) (spells_cons (spells_be 2 _) (spells_cons (spells_be 2 _)
      (spells_cons (spells_be 1 _) (spells_cons (spells_optBytes 14 2 _) (spells_be 1 _))))))))

theorem length_journalRecord (r : JournalRecord) : r.bytes.length = 17 :=
  (length_of_spells (spells_journalRecord r)).trans rfl

/-- The flag and the serial of the oldest record (R65). -/
theorem oldestBytes_eq (j : Journal) :
    j.oldestBytes = be 1 (if j.records = [] then 0 else 1) ++ optBytes 10 2 j.oldest := by
  unfold Journal.oldestBytes Journal.oldest
  cases j.records <;> rfl

theorem optBytes_oldest {j : Journal} {r : JournalRecord} {tail : List JournalRecord} (h : j.records = r :: tail) :
    optBytes 10 2 j.oldest = be 2 r.serial := by
  simp [Journal.oldest, h, optBytes]

/-- The data of a JOURNAL_DATA reply: the records read, the figures, and the records (R65). -/
def Journal.readData (j : Journal) (count : Nat) : List Byte :=
  be 1 (j.records.take (min count 3)).length ++ be 2 j.records.length ++ be 2 j.reserved ++
    be 1 (if j.records = [] then 0 else 1) ++ optBytes 10 2 j.oldest ++ be 2 j.serial ++
    (j.records.take (min count 3)).flatMap JournalRecord.bytes

/-- Settles O35: BAD_LENGTH, or the figures and the oldest records. -/
theorem journalReadCopiesTheOldest : Obligations.JournalReadCopiesTheOldest := by
  intro s f rest o ht hf
  have hq : requestOf f = .journalRead := requestOf_asks hf
  have hrun : ∀ a, journalReadBody f (s.dropFrame rest) = (s.dropFrame rest, a) → exec .journalRead s =
      .next (s.replied rest (f.reply 0x24#8 (BitVec.ofNat 8 a.result.code) 0x03#8 a.data)) := by
    intro a hb
    refine congrArg Host.Outcome.next ((State.handle_of ht hq hb).trans ?_)
    rw [replyCode_asks hf, replyKind_eq, hq]
    rfl
  refine ⟨fun hl => hrun (replyOnly .badLength) ?_, fun count ho => ?_⟩
  · simp only [journalReadBody, operandsOf_asks hf]
    exact if_pos hl
  · subst ho
    refine ⟨optBytes 10 2 s.journal.oldest, ?_, length_optBytes _ _ _, fun r tail h => optBytes_oldest h,
      fun r _ => ⟨length_journalRecord r, spells_journalRecord r⟩⟩
    have hcount : field [count] 0 1 = count.toNat := ofBe_one count
    refine hrun (replyWith .ok (s.journal.readData count.toNat)) ?_
    simp [journalReadBody, operandsOf_asks hf, hcount, oldestBytes_eq, State.dropFrame, Journal.readData]

/-- Settles O36: BAD_LENGTH, nothing, MISMATCH, or the oldest records go. -/
theorem journalReleaseRemovesTheOldest : Obligations.JournalReleaseRemovesTheOldest := by
  intro s f rest o ht hf
  have hrun : ∀ t a, journalReleaseBody f (s.dropFrame rest) = (t, a) → exec .journalRelease s =
      .next (t.withReply (f.reply 0x22#8 (BitVec.ofNat 8 a.result.code) 0x04#8 a.data)) :=
    fun t a hb => congrArg Host.Outcome.next (State.handle_done ht hf rfl (by decide) hb)
  have hno : ∀ a, journalReleaseBody f (s.dropFrame rest) = (s.dropFrame rest, a) → exec .journalRelease s =
      .next (s.answered f rest (BitVec.ofNat 8 a.result.code) 0x04#8 a.data) := fun a hb => hrun _ a hb
  refine ⟨fun hl => hno (replyOnly .badLength) ?_, fun a b x y ho => ?_⟩
  · simp only [journalReleaseBody, operandsOf_asks hf]
    exact if_pos hl
  subst ho
  intro first count n data
  have hfirst : field [a, b, x, y] 0 2 = first := ofBe_two a b
  have hcount : field [a, b, x, y] 2 2 = count := ofBe_two x y
  clear_value first count
  have hbody : journalReleaseBody f (s.dropFrame rest) =
      if count = 0 then (s.dropFrame rest, replyWith .ok (releaseData 0 s.journal))
      else if s.journal.oldest ≠ some first then (s.dropFrame rest, replyWith .mismatch (releaseData 0 s.journal))
      else ((s.dropFrame rest).updJournal (fun j => j.release count),
        replyWith (if s.journal.records.length < count then .okClamped else .ok)
          (releaseData (min count s.journal.records.length) (s.journal.release count))) := by
    simp only [journalReleaseBody, operandsOf_asks hf, hfirst, hcount]
    rfl
  have hdata : ∀ n (j : Journal), releaseData n j = be 2 n ++ be 2 j.records.length ++
      be 1 (if j.records = [] then 0 else 1) ++ optBytes 10 2 j.oldest := fun n j => by
    rw [releaseData, oldestBytes_eq, ← List.append_assoc]
  by_cases htaken : count ≠ 0 ∧ s.journal.records.head?.map JournalRecord.serial = some first
  · obtain ⟨hzero, hhead⟩ := htaken
    refine ⟨optBytes 10 2 (s.journal.release count).oldest, fun h => absurd h hzero, fun _ h => absurd hhead h, fun _ _ => ?_,
      length_optBytes _ _ _, fun r tail h => ?_⟩
    · refine (hrun _ _ (hbody.trans (by rw [if_neg hzero, if_neg (not_not.mpr (show s.journal.oldest = some first from hhead))]))).trans ?_
      rw [hdata]
      split <;> rfl
    · rw [if_pos ⟨hzero, hhead⟩] at h
      exact optBytes_oldest (j := s.journal.release count) h
  · refine ⟨optBytes 10 2 s.journal.oldest, fun hzero => ?_, fun hzero hhead => ?_, fun hzero hhead =>
      absurd ⟨hzero, hhead⟩ htaken, length_optBytes _ _ _, fun r tail h => ?_⟩
    · refine (hno _ (hbody.trans (if_pos hzero))).trans ?_
      rw [replyWith, hdata]
      rfl
    · refine (hno _ (hbody.trans (by rw [if_neg hzero, if_pos (show s.journal.oldest ≠ some first from hhead)]))).trans ?_
      rw [replyWith, hdata]
      rfl
    · rw [if_neg htaken] at h
      exact optBytes_oldest h

/-! ### The notice flags (R32) -/

/-- The number of a class set by its bits: each class below a bound at its bit, and no bit above. -/
theorem classSum_bits (p : Nat → Bool) (m : Nat) :
    (List.range m).foldl (fun acc k => acc + bit (p (k + 1)) (k + 1)) 0 < 2 ^ (m + 1) ∧
      ∀ n, 1 ≤ n → n ≤ m →
        ((List.range m).foldl (fun acc k => acc + bit (p (k + 1)) (k + 1)) 0).testBit n = p n := by
  induction m with
  | zero => exact ⟨by simp, fun n h1 h2 => by omega⟩
  | succ m ih =>
    obtain ⟨hlt, hbits⟩ := ih
    rw [List.range_succ, List.foldl_append]
    generalize (List.range m).foldl (fun acc k => acc + bit (p (k + 1)) (k + 1)) 0 = v at *
    simp only [List.foldl_cons, List.foldl_nil, bit]
    have hpow : 2 ^ (m + 1 + 1) = 2 ^ (m + 1) + 2 ^ (m + 1) := by rw [pow_succ]; ring
    constructor
    · split <;> omega
    · intro n hone hle
      cases hp : p (m + 1) with
      | false =>
        simp only [Bool.false_eq_true, if_false, Nat.add_zero]
        by_cases hn : n = m + 1
        · rw [hn, hp, Nat.testBit_lt_two_pow hlt]
        · exact hbits n hone (by omega)
      | true =>
        simp only [if_true]
        rw [Nat.add_comm]
        by_cases hn : n = m + 1
        · rw [hn, hp, Nat.testBit_two_pow_add_eq, Nat.testBit_lt_two_pow hlt, Bool.not_false]
        · rw [Nat.testBit_two_pow_add_gt (by omega)]
          exact hbits n hone (by omega)

theorem testBit_classSet (p : Nat → Bool) {n : Nat} (h1 : 1 ≤ n) (h2 : n ≤ 24) : (classSet p).testBit n = p n :=
  (classSum_bits p 24).2 n h1 h2

theorem ofBe_classSet (p : Nat → Bool) : ofBe (be 4 (classSet p)) = classSet p :=
  ofBe_be (lt_trans (classSum_bits p 24).1 (by norm_num))

theorem length_raiseBytes (site : Nat) (r : Option Raise) : (raiseBytes site r).length = 4 := by
  cases r <;> simp [raiseBytes]

/-- The data of a NOTICE_FLAGS_READ reply (R32). -/
def State.noticeFlagsData (s : State) : List Byte :=
  be 4 (classSet (fun n => (s.noticeClass n).flag)) ++ (be 4 (classSet (fun n => (s.noticeClass n).overrun)) ++
    (be 1 s.link.notices.length ++ (be 4 (classSet (fun n => (s.noticeClass n).last.isSome)) ++
      (List.range 24).flatMap (fun k => raiseBytes 9 (s.noticeClass (k + 1)).last))))

theorem noticeFlagsReadBody_ok {f : Frame} {code : Byte} (hf : f.asks code []) (s : State) :
    noticeFlagsReadBody f s = (s, replyWith .ok s.noticeFlagsData) := by
  simp only [noticeFlagsReadBody, operandsOf_asks hf, State.noticeFlagsData, List.append_assoc]
  exact if_neg (not_not.mpr rfl)

/-- Settles O29: BAD_LENGTH, or flags, marks, queue length and last raises, each at its place. -/
theorem noticeFlagsReadReports : Obligations.NoticeFlagsReadReports := by
  intro s f rest o ht hf
  have hno : ∀ a, noticeFlagsReadBody f (s.dropFrame rest) = (s.dropFrame rest, a) → exec .noticeFlagsRead s =
      .next (s.answered f rest (BitVec.ofNat 8 a.result.code) 0x05#8 a.data) :=
    fun a hb => congrArg Host.Outcome.next (State.handle_answered ht hf rfl (by decide) hb)
  refine ⟨fun ho => hno (replyOnly .badLength) ?_, fun ho => ?_⟩
  · simp only [noticeFlagsReadBody, operandsOf_asks hf]
    exact if_pos ho
  subst ho
  have hlast : ((List.range 24).flatMap (fun k => raiseBytes 9 (s.noticeClass (k + 1)).last)).length = 96 :=
    length_flatMap_const (fun _ => length_raiseBytes _ _)
  refine ⟨s.noticeFlagsData, hno (replyWith .ok _) (noticeFlagsReadBody_ok hf _), ?_,
    fun n h1 h2 => ⟨?_, ?_, ?_, fun r hr => ?_⟩, ?_⟩
  all_goals unfold State.noticeFlagsData
  · simp only [List.length_append, length_be, hlast]
  · rw [List.take_left' (length_be 4 _), ofBe_classSet, testBit_classSet _ h1 h2]
  · rw [List.drop_left' (length_be 4 _), List.take_left' (length_be 4 _), ofBe_classSet, testBit_classSet _ h1 h2]
  · rw [take_drop_right (length_be 4 _) (by omega), take_drop_right (length_be 4 _) (by omega),
      take_drop_right (length_be 1 _) (by omega)]
    simp only [Nat.reduceSub, List.drop_zero]
    rw [List.take_left' (length_be 4 _), ofBe_classSet, testBit_classSet _ h1 h2]
  · rw [take_drop_right (length_be 4 _) (by omega), take_drop_right (length_be 4 _) (by omega),
      take_drop_right (length_be 1 _) (by omega), take_drop_right (length_be 4 _) (by omega),
      show 13 + 4 * (n - 1) - 4 - 4 - 1 - 4 = (n - 1) * 4 by omega,
      take_drop_flatMap (fun _ => length_raiseBytes _ _) (n - 1) (by rw [List.length_range]; omega),
      List.getElem_range, Nat.sub_add_cancel h1, hr]
    rfl
  · rw [take_drop_right (length_be 4 _) (by omega), take_drop_right (length_be 4 _) (by omega)]
    simp only [Nat.reduceSub, List.drop_zero]
    exact List.take_left' (length_be 1 _)

end Sys2Proof.Machine
end

section
/-! PROOFS. The requests on sensors, the due list and the drafts (R105, R133, R138). -/

namespace Sys2Proof.Machine

/-! ### Requests that name one container (R105, R126, R133) -/

section
variable {f : Frame} {code : Byte} {o : List Byte} {effect : State → Nat → State} {data : State → Nat → List Byte}

theorem containerBody_badLength (hf : f.asks code o) (hl : o.length ≠ 1) (s : State) :
    containerBody effect data f s = (s, replyOnly .badLength) := by
  simp only [containerBody, operandsOf_asks hf]
  exact if_pos hl

theorem containerBody_badIndex {b : Byte} (hf : f.asks code [b]) (hb : 127 < b.toNat) (s : State) :
    containerBody effect data f s = (s, replyOnly .badIndex) := by
  have hfield : field [b] 0 1 = b.toNat := ofBe_one b
  simp [containerBody, operandsOf_asks hf, hfield, hb]

theorem containerBody_ok {b : Byte} (hf : f.asks code [b]) (hb : b.toNat ≤ 127) (s : State) :
    containerBody effect data f s = (effect s b.toNat, replyWith .ok (data (effect s b.toNat) b.toNat)) := by
  have hfield : field [b] 0 1 = b.toNat := ofBe_one b
  simp [containerBody, operandsOf_asks hf, hfield, Nat.not_lt.mpr hb]

end

/-! ### SENSOR_CLEAR (R105) -/

/-- The container after SENSOR_CLEAR: a GOOD sensor without its counts, and a request due where it was not GOOD (R85, R105). -/
theorem container_clearSensor (s : State) (c d : Nat) : (s.clearSensor c).container d =
    if d = c then { s.container c with fill := { (s.container c).fill with
      sensor := .good, streak := 0, stuck := 0, lastTof := none
      request := if (s.container c).cfg.present = true ∧ (s.container c).fill.sensor ≠ .good ∧
          (s.container c).fill.request = .idle then
          (if (s.container c).inlet.waits then .deferred else .pending)
        else (s.container c).fill.request } }
    else s.container d := by
  unfold State.clearSensor
  dsimp only
  by_cases hgood : (s.container c).fill.sensor = .good
  · rw [if_pos hgood, State.container_updFill]
    simp [hgood]
  · rw [if_neg hgood, container_requestDue]
    simp only [State.container_updFill, if_true, Container.live, due_eq]
    by_cases hd : d = c
    · by_cases hpresent : (s.container c).cfg.present = true
      · by_cases hidle : (s.container c).fill.request = .idle <;> simp [hd, hgood, hpresent, hidle]
      · simp [hd, hpresent]
    · simp [hd]

theorem clearSensor_touches (s : State) (c : Nat) : ∃ ks, s.clearSensor c = { s with containers := ks } := by
  unfold State.clearSensor
  dsimp only
  split
  · exact ⟨_, rfl⟩
  · obtain ⟨_, hdue⟩ := requestDue_touches (s.updFill c (fun f =>
      { f with sensor := .good, streak := 0, stuck := 0, lastTof := none })) c
    rw [hdue]
    exact ⟨_, rfl⟩

/-- Settles O41: BAD_LENGTH, BAD_INDEX, or the sensor is GOOD (`container_clearSensor`). -/
theorem sensorClearMakesTheSensorGood : Obligations.SensorClearMakesTheSensorGood := by
  intro s f rest o ht hf
  have hrun : ∀ t a, containerBody State.clearSensor (fun _ _ => []) f (s.dropFrame rest) = (t, a) → exec .sensorClear s =
      .next (t.withReply (f.reply 0x22#8 (BitVec.ofNat 8 a.result.code) 0x12#8 a.data)) :=
    fun t a hb => congrArg Host.Outcome.next (State.handle_done ht hf rfl (by decide) hb)
  have hno : ∀ r, containerBody State.clearSensor (fun _ _ => []) f (s.dropFrame rest) = (s.dropFrame rest, replyOnly r) →
      exec .sensorClear s = .next (s.answered f rest (BitVec.ofNat 8 r.code) 0x12#8 []) := fun r hb => hrun _ _ hb
  refine ⟨fun hl => hno .badLength (containerBody_badLength hf hl _), fun b ho hb => ?_, fun b ho hb => ?_⟩
  · subst ho
    exact hno .badIndex (containerBody_badIndex hf hb _)
  · subst ho
    have hcontainer := container_clearSensor (s.dropFrame rest) b.toNat
    obtain ⟨_, htouches⟩ := clearSensor_touches (s.dropFrame rest) b.toNat
    refine ⟨_, hrun _ _ (containerBody_ok hf hb _), ?_, fun d hd => ?_, ?_⟩
    · rw [htouches]
      rfl
    · rw [State.container_withReply, hcontainer, if_neg hd, State.container_dropFrame]
    · rw [State.container_withReply, hcontainer, if_pos rfl, State.container_dropFrame]
      simp only [Inlet.waits, Bool.or_eq_true, beq_iff_eq]

/-! ### The place of an entry (R131, R133) -/

/-- An entry stands at one place of the list it is put in. -/
theorem insertDue_split (e : DueEntry) (l : List DueEntry) :
    ∃ before after, l = before ++ after ∧ insertDue e l = before ++ e :: after := by
  induction l with
  | nil => exact ⟨[], [], rfl, rfl⟩
  | cons x l ih =>
    unfold insertDue
    split
    · exact ⟨[], x :: l, rfl, rfl⟩
    · obtain ⟨before, after, hlist, hput⟩ := ih
      exact ⟨x :: before, after, by rw [hlist]; rfl, by rw [hput]; rfl⟩

theorem duePlace_absent {l : List DueEntry} {c : Nat} (h : ∀ x ∈ l, x.container ≠ c) (n : Nat) :
    duePlace l c n = none := by
  induction l generalizing n with
  | nil => rfl
  | cons x l ih =>
    rw [duePlace, if_neg (h x List.mem_cons_self)]
    exact ih (fun y hy => h y (List.mem_cons_of_mem _ hy)) _

theorem duePlace_split {before after : List DueEntry} {e : DueEntry} {c : Nat} (h : ∀ x ∈ before, x.container ≠ c)
    (he : e.container = c) (n : Nat) : duePlace (before ++ e :: after) c n = some (before.length + n) := by
  induction before generalizing n with
  | nil => simp [duePlace, he]
  | cons x l ih =>
    rw [List.cons_append, duePlace, if_neg (h x List.mem_cons_self), ih (fun y hy => h y (List.mem_cons_of_mem _ hy))]
    simp only [List.length_cons, Option.some.injEq]
    omega

theorem dueEntry_absent {l : List DueEntry} {c : Nat} (h : ∀ x ∈ l, x.container ≠ c) : dueEntry l c = none := by
  simpa [dueEntry] using h

theorem dueEntry_split {before after : List DueEntry} {e : DueEntry} {c : Nat} (h : ∀ x ∈ before, x.container ≠ c)
    (he : e.container = c) : dueEntry (before ++ e :: after) c = some e := by
  have hbefore : before.find? (fun x => x.container == c) = none := by simpa using h
  simp [dueEntry, List.find?_append, hbefore, he]

/-- The entries of the other containers (R130). -/
def otherEntries (c : Nat) (due : List DueEntry) : List DueEntry := due.filter (fun e => e.container ≠ c)

theorem otherEntries_of_absent {c : Nat} {l : List DueEntry} (h : ∀ x ∈ l, x.container ≠ c) : otherEntries c l = l :=
  List.filter_eq_self.mpr (by simpa using h)

theorem mem_otherEntries {c : Nat} {l : List DueEntry} {x : DueEntry} (h : x ∈ otherEntries c l) : x.container ≠ c := by
  simpa using (List.mem_filter.mp h).2

theorem filter_eq_otherEntries (due : List DueEntry) (c : Nat) :
    due.filter (fun e => !(e.container == c)) = otherEntries c due :=
  List.filter_congr (fun e _ => by by_cases h : e.container = c <;> simp [h])

/-- Re-deriving a container that is no member takes its entry away (R130). -/
theorem rederiveDue_none (due : List DueEntry) (c : Nat) (now : Time) : rederiveDue due c none now = otherEntries c due :=
  filter_eq_otherEntries due c

/-- Re-deriving a member puts its entry at one place among the others, which stay in their order (R130, R131). -/
theorem rederiveDue_some (due : List DueEntry) (c : Nat) (cls : DueClass) (now : Time) :
    ∃ before after, otherEntries c due = before ++ after ∧ rederiveDue due c (some cls) now =
      before ++ { container := c, cls := cls, since := ((dueEntry due c).map DueEntry.since).getD now } :: after := by
  obtain ⟨before, after, hlist, hput⟩ := insertDue_split
    { container := c, cls := cls, since := ((dueEntry due c).map DueEntry.since).getD now } (otherEntries c due)
  refine ⟨before, after, hlist, ?_⟩
  rw [← hput]
  unfold rederiveDue
  rw [filter_eq_otherEntries]
  cases dueEntry due c <;> rfl

/-- Re-deriving leaves the entries of the other containers as they were (R130). -/
theorem otherEntries_rederiveDue (due : List DueEntry) (c : Nat) (cls : Option DueClass) (now : Time) :
    otherEntries c (rederiveDue due c cls now) = otherEntries c due := by
  have hothers : otherEntries c (otherEntries c due) = otherEntries c due :=
    otherEntries_of_absent (fun x hx => mem_otherEntries hx)
  cases cls with
  | none => rw [rederiveDue_none, hothers]
  | some k =>
    obtain ⟨before, after, hlist, hput⟩ := rederiveDue_some due c k now
    rw [hput]
    conv_rhs => rw [← hothers, hlist]
    simp [otherEntries]

/-! ### FORCE_DUE (R133) -/

/-- A yes or no byte up to 1 (log 10). -/
theorem yesNo_of_le {a : Byte} (h : a.toNat ≤ 1) : yesNo a = some (decide (a.toNat = 1)) := by
  obtain hzero | hone : a.toNat = 0 ∨ a.toNat = 1 := by omega
  · obtain rfl : a = 0#8 := BitVec.eq_of_toNat_eq hzero
    decide
  · obtain rfl : a = 1#8 := BitVec.eq_of_toNat_eq hone
    decide

theorem yesNo_of_gt {a : Byte} (h : 1 < a.toNat) : yesNo a = none := by
  unfold yesNo
  rw [if_neg, if_neg]
  · rintro rfl; simp at h
  · rintro rfl; simp at h

theorem container_setForced (s : State) (c : Nat) (b : Bool) (d : Nat) : (s.setForced c b).container d =
    if d = c then { s.container c with forced := b } else s.container d := by
  unfold State.setForced
  rw [container_rederive, State.container_updContainer]

theorem setForced_planner (s : State) (c : Nat) (b : Bool) : (s.setForced c b).planner =
    { s.planner with due := rederiveDue s.planner.due c ((s.setForced c b).container c).dueClass s.clock.time } := rfl

/-- Settles O47: BAD_LENGTH, BAD_INDEX, BAD_VALUE, or the mark with the entry that follows it (`rederiveDue_some`). -/
theorem forceDueSetsTheMark : Obligations.ForceDueSetsTheMark := by
  intro s f rest o ht hf
  have hrun : ∀ t a, forceDueBody f (s.dropFrame rest) = (t, a) → exec .forceDue s =
      .next (t.withReply (f.reply 0x22#8 (BitVec.ofNat 8 a.result.code) 0x13#8 a.data)) :=
    fun t a hb => congrArg Host.Outcome.next (State.handle_done ht hf rfl (by decide) hb)
  have hno : ∀ r, forceDueBody f (s.dropFrame rest) = (s.dropFrame rest, replyOnly r) →
      exec .forceDue s = .next (s.answered f rest (BitVec.ofNat 8 r.code) 0x13#8 []) := fun r hb => hrun _ _ hb
  refine ⟨fun hl => hno .badLength ?_, fun b a ho hb => ?_, fun b a ho hb ha => ?_, fun b a ho hb ha => ?_⟩
  · simp only [forceDueBody, operandsOf_asks hf]
    exact if_pos hl
  all_goals
    subst ho
    have hindex : field [b, a] 0 1 = b.toNat := ofBe_one b
    have hbyte : byteAt [b, a] 1 = a := rfl
  · exact hno .badIndex (by simp [forceDueBody, operandsOf_asks hf, hindex, hb])
  · exact hno .badValue (by simp [forceDueBody, operandsOf_asks hf, hindex, Nat.not_lt.mpr hb, hbyte, yesNo_of_gt ha])
  intro c others
  have hbody : forceDueBody f (s.dropFrame rest) = ((s.dropFrame rest).setForced c (decide (a.toNat = 1)),
      replyWith .ok (((s.dropFrame rest).setForced c (decide (a.toNat = 1))).duePlaceData c)) := by
    simp only [forceDueBody, operandsOf_asks hf, hindex, hbyte, yesNo_of_le ha]
    rw [if_neg (by simp), if_neg (Nat.not_lt.mpr hb)]
  have hcontainer := container_setForced (s.dropFrame rest) c (decide (a.toNat = 1))
  have hplanner := setForced_planner (s.dropFrame rest) c (decide (a.toNat = 1))
  generalize hu : (s.dropFrame rest).setForced c (decide (a.toNat = 1)) = u at *
  have hdue : u.planner.due = rederiveDue s.planner.due c (u.container c).dueClass s.clock.time := by rw [hplanner]; rfl
  refine ⟨_, u.duePlaceData c, hrun _ _ hbody, ?_, fun d hd => ?_, ?_, ?_, ?_, fun hnone => ?_, fun cls hcls => ?_⟩
  · rw [← hu]; rfl
  · rw [State.container_withReply, hcontainer, if_neg hd, State.container_dropFrame]
  · rw [State.container_withReply, hcontainer, if_pos rfl, State.container_dropFrame]
  · change { u.planner with due := s.planner.due } = s.planner
    rw [hplanner]
    rfl
  · change otherEntries c u.planner.due = otherEntries c s.planner.due
    rw [hdue, otherEntries_rederiveDue]
  · rw [State.container_withReply] at hnone
    rw [hnone, rederiveDue_none] at hdue
    have habsent : ∀ x ∈ u.planner.due, x.container ≠ c := by
      rw [hdue]
      exact fun x hx => mem_otherEntries hx
    refine ⟨habsent, ?_⟩
    rw [State.duePlaceData, dueEntry_absent habsent, duePlace_absent habsent]
    rfl
  · rw [State.container_withReply] at hcls
    rw [hcls] at hdue
    obtain ⟨before, after, hlist, hput⟩ := rederiveDue_some s.planner.due c cls s.clock.time
    rw [hput] at hdue
    have habsent : ∀ x ∈ before ++ after, x.container ≠ c := by
      rw [← hlist]
      exact fun x hx => mem_otherEntries hx
    have hbefore : ∀ x ∈ before, x.container ≠ c := fun x hx => habsent x (List.mem_append_left _ hx)
    refine ⟨before, _, after, hdue, rfl, rfl, hbefore, fun x hx => habsent x (List.mem_append_right _ hx), fun hnew => ?_,
      fun first x tail hold hx hfirst => ?_, ?_⟩
    · simp [dueEntry_absent hnew]
    · simp [hold, dueEntry_split hfirst hx]
    · rw [State.duePlaceData, hdue, dueEntry_split hbefore rfl, duePlace_split hbefore rfl]
      rfl

/-! ### ROUND_DRAFT (R138) -/

theorem mem_rounds4 {r : Nat} : r ∈ rounds4 ↔ r < 4 := by
  simp [rounds4]
  omega

/-- An entry is unassigned while no ACTIVE round holds an open stop for its container (R132). -/
theorem assignedRound_eq_none (s : State) (c : Nat) : s.assignedRound c = none ↔
    ∀ r, r < 4 → (s.round r).state = .active → ∀ p ∈ (s.round r).stops, p.container = c →
      p.state ≠ some .pending ∧ p.state ≠ some .servicing := by
  unfold State.assignedRound
  simp only [List.find?_eq_none, mem_rounds4, Round.holds, Stop.isOpen, Stop.isPending, Stop.isServicing,
    Bool.and_eq_true, beq_iff_eq, List.any_eq_true, Bool.or_eq_true, not_and, not_exists]
  exact forall_congr' (fun r => forall_congr' (fun _ => forall_congr' (fun _ => forall_congr' (fun p =>
    forall_congr' (fun _ => forall_congr' (fun _ => not_or))))))

theorem fraction_ofCode_code (f : Fraction) : Fraction.ofCode f.code = some f := by cases f <;> rfl

theorem fraction_ofCode_of_gt {n : Nat} (h : 5 < n) : Fraction.ofCode n = none := by
  unfold Fraction.ofCode
  split <;> first | omega | rfl

theorem clamp_one (hi v : Nat) (h : 1 ≤ hi) : clamp 1 hi v = if v = 0 then 1 else if hi < v then hi else v := by
  unfold clamp
  split_ifs <;> omega

/-- Settles O48: the refusals in their order, or the draft with its list. -/
theorem roundDraftCollectsTheDueList : Obligations.RoundDraftCollectsTheDueList := by
  intro s f rest o ht hf
  have hrun : ∀ t a, roundDraftBody f (s.dropFrame rest) = (t, a) → exec .roundDraft s =
      .next (t.withReply (f.reply 0x22#8 (BitVec.ofNat 8 a.result.code) 0x0C#8 a.data)) :=
    fun t a hb => congrArg Host.Outcome.next (State.handle_done ht hf rfl (by decide) hb)
  have hno : ∀ r, roundDraftBody f (s.dropFrame rest) = (s.dropFrame rest, replyOnly r) →
      exec .roundDraft s = .next (s.answered f rest (BitVec.ofNat 8 r.code) 0x0C#8 []) := fun r hb => hrun _ _ hb
  refine ⟨fun hsaving => hno .busy ?_, fun hsaving => ⟨fun hl => hno .badLength ?_, fun r q m ho => ?_⟩,
    assignedRound_eq_none s⟩
  · exact if_pos hsaving
  · simp only [roundDraftBody, operandsOf_asks hf]
    exact (if_neg (by simpa [State.dropFrame] using hsaving)).trans (if_pos hl)
  subst ho
  intro d
  have hr : field [r, q, m] 0 1 = r.toNat := ofBe_one r
  have hq : field [r, q, m] 1 1 = q.toNat := ofBe_one q
  have hm : field [r, q, m] 2 1 = m.toNat := ofBe_one m
  have hbody : roundDraftBody f (s.dropFrame rest) =
      if 3 < r.toNat then (s.dropFrame rest, replyOnly .badIndex)
      else match Fraction.ofCode q.toNat with
        | none => (s.dropFrame rest, replyOnly .badValue)
        | some fr =>
          if d.state = .active ∨ d.state = .closing then (s.dropFrame rest, replyOnly .badState)
          else ((s.dropFrame rest).draft r.toNat fr (s.draftList fr (clamp 1 24 m.toNat)),
            replyWith (if clamp 1 24 m.toNat = m.toNat then .ok else .okClamped)
              (be 1 r.toNat ++ be 1 (s.draftList fr (clamp 1 24 m.toNat)).length ++
                (s.draftList fr (clamp 1 24 m.toNat)).flatMap (be 1))) := by
    have hnosave : (s.dropFrame rest).part.saving = false := hsaving
    unfold roundDraftBody
    rw [operandsOf_asks hf]
    dsimp only
    rw [hr, hq, hm]
    rw [hnosave, if_neg Bool.false_ne_true, if_neg (by simp)]
    rfl
  refine ⟨fun hover => hno .badIndex (hbody.trans (if_pos hover)), fun hle hcode => hno .badValue ?_,
    fun hle hcode hstate => hno .badState ?_, fun fr hfr hle hactive hclosing => ?_⟩
  · rw [hbody, if_neg (Nat.not_lt.mpr hle), fraction_ofCode_of_gt hcode]
  · obtain ⟨fr, hfr⟩ : ∃ fr, Fraction.ofCode q.toNat = some fr := by
      interval_cases q.toNat <;> exact ⟨_, rfl⟩
    rw [hbody, if_neg (Nat.not_lt.mpr hle), hfr]
    exact if_pos hstate
  · rw [← hfr, fraction_ofCode_code, if_neg (Nat.not_lt.mpr hle)] at hbody
    dsimp only at hbody
    rw [if_neg (by simp [hactive, hclosing])] at hbody
    intro maximum cs result
    have hmaximum : clamp 1 24 m.toNat = maximum := clamp_one 24 m.toNat (by omega)
    have hcs : s.draftList fr (clamp 1 24 m.toNat) = cs := by
      rw [hmaximum]
      unfold State.draftList
      dsimp only [cs]
      congr 1
      exact List.filter_congr (fun c _ => by cases s.assignedRound c <;> rfl)
    have hresult : BitVec.ofNat 8 (Result.code (if clamp 1 24 m.toNat = m.toNat then .ok else .okClamped)) = result := by
      have hiff : clamp 1 24 m.toNat = m.toNat ↔ 1 ≤ m.toNat ∧ m.toNat ≤ 24 := by unfold clamp; omega
      dsimp only [result]
      by_cases hin : 1 ≤ m.toNat ∧ m.toNat ≤ 24
      · rw [if_pos (hiff.mpr hin), if_pos hin]; rfl
      · rw [if_neg (fun h => hin (hiff.mp h)), if_neg hin]; rfl
    rw [hcs] at hbody
    refine ⟨_, hrun _ _ hbody, ?_, fun j hj => ?_, ?_⟩
    · rw [← hresult, ← be_one_toNat r]
      rfl
    · rw [State.round_withReply, State.draft, State.round_updRound, if_neg hj, State.round_dropFrame]
    · rw [State.round_withReply, State.draft, State.round_updRound_same, State.round_dropFrame]

end Sys2Proof.Machine
end

section
/-! PROOFS. The end of a grant by its window, and the bars of the center (R108, R109, R122, R123, R126). -/

namespace Sys2Proof.Machine

/-! ### A change to an inlet state that defers nothing (R88) -/

theorem Inlet.defers_eq_waits (n : Inlet) : n.state.defers = n.waits := by
  cases hs : n.state <;> simp [InletState.defers, Inlet.waits, hs]

/-- A DEFERRED request is PENDING once OPEN or SETTLING is left. -/
theorem report_of_not_defers (q : SampleRequest) (n : Inlet) {st : InletState} (h : st.defers = false) :
    q.report n.state st = if q = .deferred ∧ n.waits = true then .pending else q := by
  cases q <;> simp [SampleRequest.report, h, n.defers_eq_waits]

theorem report_same_kind (q : SampleRequest) {old new : InletState} (hold : old.defers = false) (hnew : new.defers = false) :
    q.report old new = q := by
  cases q <;> simp [SampleRequest.report, hold, hnew]

/-! ### A grant that ends with the inlet in a given state and LOCK CLOSED set (R122, R123) -/

/-- The grant goes, the inlet takes a state, and LOCK CLOSED is set. -/
def State.endGrant (s : State) (c : Nat) (st : InletState) : State := ((s.dropGrant c).setInlet c st).lockClosed c

theorem grantExpired_eq (s : State) (c : Nat) : s.grantExpired c = s.endGrant c .locked := rfl

theorem grantLost_eq (s : State) (c : Nat) : s.grantLost c = s.endGrant c .barred := rfl

section
variable (s : State) (c : Nat) (st : InletState)

theorem endGrant_touches : ∃ ks hs j a b, s.endGrant c st =
    { s with containers := ks, households := hs, journal := j, lineA := a, lineB := b } := by
  unfold State.endGrant
  obtain ⟨_, _, _, hclosed⟩ := lockClosed_touches ((s.dropGrant c).setInlet c st) c
  obtain ⟨_, _, _, hdrop⟩ := dropGrant_touches s c
  rw [hclosed]
  unfold State.setInlet
  rw [hdrop]
  exact ⟨_, _, _, _, _, rfl⟩

theorem container_endGrant (h : st.defers = false) (d : Nat) : (s.endGrant c st).container d =
    if d = c then { s.container c with
      inlet := { (s.container c).inlet with state := st, grant := none, command := some InletCommand.closed }
      fill := { (s.container c).fill with request :=
        if (s.container c).fill.request = .deferred ∧ (s.container c).inlet.waits = true then .pending
        else (s.container c).fill.request } }
    else s.container d := by
  unfold State.endGrant
  simp only [container_lockClosed, container_setInlet, container_dropGrant, if_true]
  by_cases hd : d = c
  · simp only [hd, if_true, report_of_not_defers _ _ h]
  · simp only [hd, if_false]

theorem households_endGrant : (s.endGrant c st).households = (s.dropGrant c).households :=
  households_lockClosed ((s.dropGrant c).setInlet c st) c

theorem journal_endGrant {g : Grant} (hg : (s.container c).inlet.grant = some g) : (s.endGrant c st).journal =
    { s.journal with reserved := s.journal.reserved - (if g.reserved then 1 else 0) } := by
  refine (journal_lockClosed ((s.dropGrant c).setInlet c st) c).trans ?_
  change (s.dropGrant c).journal = _
  rw [dropGrant_form s c g hg]
  cases g.household <;> rfl

theorem grantGone_endGrant {g : Grant} (hg : (s.container c).inlet.grant = some g) :
    s.grantGone (s.endGrant c st) g :=
  grantGone_congr (grantGone_dropGrant s c g hg) (households_endGrant s c st)

theorem turnAsked_endGrant : s.turnAsked (s.endGrant c st) c := by
  obtain ⟨_, _, _, hdrop⟩ := dropGrant_touches s c
  refine turnAsked_congr (turnAsked_lockClosed ((s.dropGrant c).setInlet c st) c) ?_ (fun l => ?_) (fun _ => rfl)
  all_goals
    unfold State.setInlet
    rw [hdrop]
  · rfl
  · cases l <;> rfl

end

/-- Settles O42: a due window ends its grant with the inlet LOCKED (`container_endGrant`). -/
theorem grantWindowExpiryAbandonsTheGrant : Obligations.GrantWindowExpiryAbandonsTheGrant := by
  intro s c g hphase hg hwindow k
  have hdue : (s.container c).grantDue = true := by simp [Container.grantDue, hg, hwindow]
  have hexec : exec (.grantWindowExpiry c) s = .next (s.endGrant c .locked) := by
    refine congrArg Host.Outcome.next ?_
    rw [if_pos (by simp [State.running, hphase]), State.takeIf, hdue]
    rfl
  have hcontainer := container_endGrant s c .locked rfl
  obtain ⟨hbound, hothers⟩ := grantGone_endGrant s c .locked hg
  refine ⟨_, hexec, ?_, ?_, ?_, fun d hd => ?_, hbound, hothers, journal_endGrant s c .locked hg, ?_,
    turnAsked_endGrant s c .locked⟩
  · rw [hcontainer, if_pos rfl]; rfl
  · rw [hcontainer, if_pos rfl]
  · rw [hcontainer, if_pos rfl]
    simp [Inlet.waits, k]
  · rw [hcontainer, if_neg hd]
  · obtain ⟨_, _, _, _, _, htouches⟩ := endGrant_touches s c .locked
    rw [htouches]

/-! ### Adding and removing a reason (R108, R109) -/

theorem addBar_of_has {s : State} {c : Nat} {r : BarReason} (h : (s.container c).inlet.bars.has r = true) :
    s.addBar c r = s := if_pos h

/-- A reason that ends no work, at an inlet that is not OPEN: the set alone, and a LOCKED inlet is BARRED. -/
theorem addBar_of_rest {s : State} {c : Nat} {r : BarReason} (hhas : (s.container c).inlet.bars.has r = false)
    (hends : r.endsWork = false) (hstate : (s.container c).inlet.state ≠ .opened) :
    s.addBar c r = if (s.container c).inlet.state = .locked then (s.putBar c r true).setInlet c .barred
      else s.putBar c r true := by
  unfold State.addBar
  dsimp only
  rw [hhas, hends, if_neg Bool.false_ne_true]
  cases hs : (s.container c).inlet.state <;> simp_all

theorem addBar_of_opened {s : State} {c : Nat} {r : BarReason} (hhas : (s.container c).inlet.bars.has r = false)
    (hstate : (s.container c).inlet.state = .opened) : s.addBar c r = (s.putBar c r true).endGrant c .barred := by
  unfold State.addBar
  dsimp only
  rw [hhas, hstate, if_neg Bool.false_ne_true]
  rfl

/-- A reason put in that was in, or taken out that was not, leaves the set. -/
theorem BarSet.put_has (b : BarSet) (r : BarReason) : b.put r (b.has r) = b := by
  cases b
  cases r <;> rfl

theorem BarSet.put_of_has {b : BarSet} {r : BarReason} {v : Bool} (h : b.has r = v) : b.put r v = b := by
  rw [← h, b.put_has]

theorem container_addBar_of_rest (s : State) (c : Nat) (r : BarReason) (hends : r.endsWork = false)
    (hstate : (s.container c).inlet.bars.has r = true ∨ (s.container c).inlet.state ≠ .opened) (d : Nat) :
    (s.addBar c r).container d =
      if d = c then { s.container c with inlet := { (s.container c).inlet with
        bars := (s.container c).inlet.bars.put r true
        state := if (s.container c).inlet.bars.has r = false ∧ (s.container c).inlet.state = .locked then .barred
          else (s.container c).inlet.state } }
      else s.container d := by
  cases hhas : (s.container c).inlet.bars.has r with
  | true =>
    rw [addBar_of_has hhas, BarSet.put_of_has hhas]
    by_cases hd : d = c <;> simp [hd]
  | false =>
    have hopened : (s.container c).inlet.state ≠ .opened := hstate.resolve_left (by simp [hhas])
    rw [addBar_of_rest hhas hends hopened]
    by_cases hlocked : (s.container c).inlet.state = .locked
    · rw [if_pos hlocked, container_setInlet]
      have hreport : ∀ q : SampleRequest, q.report .locked .barred = q := fun q => report_same_kind q rfl rfl
      by_cases hd : d = c <;> simp [container_putBar, hd, hlocked, hreport]
    · rw [if_neg hlocked, container_putBar]
      by_cases hd : d = c <;> simp [hd, hlocked]

theorem addBar_touches_of_rest (s : State) (c : Nat) (r : BarReason) (hends : r.endsWork = false)
    (hstate : (s.container c).inlet.bars.has r = true ∨ (s.container c).inlet.state ≠ .opened) :
    ∃ ks, s.addBar c r = { s with containers := ks } := by
  cases hhas : (s.container c).inlet.bars.has r with
  | true => exact ⟨_, addBar_of_has hhas⟩
  | false =>
    rw [addBar_of_rest hhas hends (hstate.resolve_left (by simp [hhas]))]
    split <;> exact ⟨_, rfl⟩

/-- A reason removed: the set, and a BARRED inlet whose set becomes empty so is LOCKED (R109). -/
theorem container_removeBar (s : State) (c : Nat) (r : BarReason) (d : Nat) : (s.removeBar c r).container d =
    if d = c then { s.container c with inlet := { (s.container c).inlet with
      bars := (s.container c).inlet.bars.put r false
      state := if (s.container c).inlet.bars.has r = true ∧ (s.container c).inlet.bars.put r false = BarSet.empty ∧
          (s.container c).inlet.state = .barred then .locked
        else (s.container c).inlet.state } }
    else s.container d := by
  unfold State.removeBar
  dsimp only
  cases hhas : (s.container c).inlet.bars.has r with
  | false =>
    rw [if_pos (by rfl), BarSet.put_of_has hhas]
    by_cases hd : d = c <;> simp [hd]
  | true =>
    rw [if_neg (by simp)]
    split
    next hrest =>
      have hreport : ∀ q : SampleRequest, q.report .barred .locked = q := fun q => report_same_kind q rfl rfl
      rw [container_setInlet]
      by_cases hd : d = c <;> simp [container_putBar, hd, hrest, hreport]
    next hrest =>
      rw [container_putBar]
      by_cases hd : d = c <;> simp [hd, hrest]

theorem removeBar_touches (s : State) (c : Nat) (r : BarReason) : ∃ ks, s.removeBar c r = { s with containers := ks } := by
  unfold State.removeBar
  dsimp only
  split
  · exact ⟨_, rfl⟩
  · split <;> exact ⟨_, rfl⟩

/-! ### The bars of the center (R126) -/

theorem BarSet.ne_of_put {b : BarSet} {r : BarReason} : b.has r = true ↔ b ≠ b.put r false := by
  cases b
  cases r <;> simp [BarSet.has, BarSet.put]

/-- The set without the two reasons that the center takes out (R126). -/
def BarSet.unbarred (b : BarSet) : BarSet := { b with center := false, liftOpen := false }

theorem BarSet.unbarred_self {b : BarSet} (hcenter : b.center = false) (hopen : b.liftOpen = false) : b.unbarred = b := by
  cases b
  simp_all [BarSet.unbarred]

/-- Taking out CENTER and then LIFT_OPEN. -/
theorem container_unbarByCenter (s : State) (c d : Nat) : (s.unbarByCenter c).container d =
    if d = c then { s.container c with inlet := { (s.container c).inlet with
      bars := (s.container c).inlet.bars.unbarred
      state := if (s.container c).inlet.bars ≠ (s.container c).inlet.bars.unbarred ∧
          (s.container c).inlet.bars.unbarred = BarSet.empty ∧ (s.container c).inlet.state = .barred
        then .locked else (s.container c).inlet.state } }
    else s.container d := by
  unfold State.unbarByCenter
  rw [container_removeBar, container_removeBar, container_removeBar]
  by_cases hd : d = c
  swap
  · simp [hd]
  simp only [hd, if_true]
  generalize s.container c = k
  obtain ⟨cfg, fill, ⟨state, ⟨b1, b2, b3, b4, b5, b6⟩, g, v, cmd, dr, ua, sl⟩, fo, mi⟩ := k
  cases state <;> cases b1 <;> cases b6 <;> simp [BarSet.put, BarSet.has, BarSet.empty, BarSet.unbarred]

theorem unbarByCenter_touches (s : State) (c : Nat) : ∃ ks, s.unbarByCenter c = { s with containers := ks } := by
  unfold State.unbarByCenter
  obtain ⟨_, hopen⟩ := removeBar_touches (s.removeBar c .center) c .liftOpen
  obtain ⟨_, hcenter⟩ := removeBar_touches s c .center
  rw [hopen, hcenter]
  exact ⟨_, rfl⟩

section
variable {s : State} {c : Nat}

theorem container_barByCenter_other (s : State) {c d : Nat} (hd : d ≠ c) : (s.barByCenter c).container d = s.container d := by
  unfold State.barByCenter
  by_cases hrest : (s.container c).inlet.bars.has .center = true ∨ (s.container c).inlet.state ≠ .opened
  · rw [container_addBar_of_rest s c .center rfl hrest, if_neg hd]
  · simp only [not_or, Bool.not_eq_true, ne_eq, not_not] at hrest
    rw [addBar_of_opened hrest.1 hrest.2, container_endGrant _ _ _ rfl, if_neg hd, container_putBar, if_neg hd]

/-- CENTER at an inlet that holds it, or is not OPEN: the set, and a LOCKED inlet is BARRED (R108). -/
theorem barByCenter_of_rest
    (h : (s.container c).inlet.bars.center = true ∨ (s.container c).inlet.state ≠ .opened) :
    (∃ ks, s.barByCenter c = { s with containers := ks }) ∧
      (s.barByCenter c).container c = { s.container c with inlet := { (s.container c).inlet with
        bars := { (s.container c).inlet.bars with center := true }
        state := if (s.container c).inlet.bars.center = false ∧ (s.container c).inlet.state = .locked then .barred
          else (s.container c).inlet.state } } :=
  ⟨addBar_touches_of_rest s c .center rfl h, (container_addBar_of_rest s c .center rfl h c).trans (if_pos rfl)⟩

/-- CENTER at an OPEN inlet: its grant ends LOST (R108, R123). -/
theorem barByCenter_of_opened {g : Grant} (hcenter : (s.container c).inlet.bars.center = false)
    (hopened : (s.container c).inlet.state = .opened) (hg : (s.container c).inlet.grant = some g) :
    (∃ ks hs j a b, s.barByCenter c =
        { s with containers := ks, households := hs, journal := j, lineA := a, lineB := b }) ∧
      ((s.barByCenter c).container c).inlet = { (s.container c).inlet with
        bars := { (s.container c).inlet.bars with center := true }
        state := .barred, grant := none, command := some InletCommand.closed } ∧
      s.grantGone (s.barByCenter c) g ∧
      (s.barByCenter c).journal =
        { s.journal with reserved := s.journal.reserved - (if g.reserved then 1 else 0) } ∧
      s.turnAsked (s.barByCenter c) c := by
  have hended : s.barByCenter c = (s.putBar c .center true).endGrant c .barred :=
    addBar_of_opened (r := .center) hcenter hopened
  have hgrant : ((s.putBar c .center true).container c).inlet.grant = some g := by
    rw [container_putBar, if_pos rfl]
    exact hg
  rw [hended]
  refine ⟨?_, ?_, grantGone_endGrant _ c .barred hgrant, journal_endGrant _ c .barred hgrant,
    turnAsked_congr (turnAsked_endGrant (s.putBar c .center true) c .barred) rfl (fun l => ?_) (fun _ => rfl)⟩
  · obtain ⟨_, _, _, _, _, htouches⟩ := endGrant_touches (s.putBar c .center true) c .barred
    rw [htouches]
    exact ⟨_, _, _, _, _, rfl⟩
  · rw [container_endGrant _ _ _ rfl, if_pos rfl, container_putBar, if_pos rfl]
    rfl
  · cases l <;> rfl

/-- What a container's bars read in a reply after they took a set. -/
theorem barData_of_bars {t : State} {bars : BarSet} (h : (t.container c).inlet.bars = bars) :
    t.barData c = be 1 c ++ be 1 (t.container c).inlet.state.code ++ be 1 bars.code := by
  rw [State.barData, h]

end

theorem exec_containerBar {s : State} {f : Frame} {rest : List Frame} {b : Byte} (ht : s.takes f rest)
    (hf : f.asks 0x10#8 [b]) (hb : b.toNat ≤ 127) : exec .containerBar s =
      .next (((s.dropFrame rest).barByCenter b.toNat).withReply
        (f.reply 0x22#8 0x00#8 0x10#8 (((s.dropFrame rest).barByCenter b.toNat).barData b.toNat))) :=
  congrArg Host.Outcome.next (State.handle_done ht hf rfl (by decide) (containerBody_ok hf hb _))

theorem exec_containerUnbar {s : State} {f : Frame} {rest : List Frame} {b : Byte} (ht : s.takes f rest)
    (hf : f.asks 0x11#8 [b]) (hb : b.toNat ≤ 127) : exec .containerUnbar s =
      .next (((s.dropFrame rest).unbarByCenter b.toNat).withReply
        (f.reply 0x22#8 0x00#8 0x11#8 (((s.dropFrame rest).unbarByCenter b.toNat).barData b.toNat))) :=
  congrArg Host.Outcome.next (State.handle_done ht hf rfl (by decide) (containerBody_ok hf hb _))

/-- Settles O43: the refusals, the bar from each state, and the unbar. -/
theorem centerBarsAndUnbars : Obligations.CenterBarsAndUnbars := by
  intro s f rest o ht
  refine ⟨fun q hq hf => ?refusals, fun b hf hb => ?bar, fun b hf hb => ?unbar⟩
  case refusals =>
    simp only [List.mem_cons, List.not_mem_nil, or_false] at hq
    obtain rfl | rfl := hq
    all_goals
      refine ⟨fun hl => ?_, fun b ho hb => ?_⟩
      · exact congrArg Host.Outcome.next (State.handle_refused ht hf rfl (by decide) .badLength
          (containerBody_badLength hf hl _))
      · subst ho
        exact congrArg Host.Outcome.next (State.handle_refused ht hf rfl (by decide) .badIndex
          (containerBody_badIndex hf hb _))
  case bar =>
    refine ⟨_, exec_containerBar ht hf hb, fun d hd => container_barByCenter_other (s.dropFrame rest) hd,
      fun hrest => ?_, fun g hcenter hopened hg => ?_⟩
    · obtain ⟨⟨_, htouches⟩, hcontainer⟩ := barByCenter_of_rest (s := s.dropFrame rest) (c := b.toNat) hrest
      refine ⟨?_, hcontainer⟩
      rw [barData_of_bars (congrArg (fun k => k.inlet.bars) hcontainer), htouches]
      rfl
    · obtain ⟨⟨_, _, _, _, _, htouches⟩, hinlet, ⟨hbound, hothers⟩, hjournal, hturn, hline⟩ :=
        barByCenter_of_opened (s := s.dropFrame rest) (c := b.toNat) hcenter hopened hg
      refine ⟨?_, hinlet, hbound, hothers, hjournal, fun l hl => ?_, ?_⟩
      · rw [barData_of_bars (congrArg Inlet.bars hinlet), htouches]
        rfl
      · rw [State.line_withReply, hturn l hl, State.line_dropFrame]
      · rw [State.line_withReply, hline, State.line_dropFrame]
        rfl
  case unbar =>
    have hcontainer := container_unbarByCenter (s.dropFrame rest) b.toNat
    obtain ⟨_, htouches⟩ := unbarByCenter_touches (s.dropFrame rest) b.toNat
    have hsame := (hcontainer b.toNat).trans (if_pos rfl)
    refine ⟨_, exec_containerUnbar ht hf hb, fun d hd => (hcontainer d).trans (if_neg hd), ?_, fun _ => hsame,
      fun hcenter hopen => ?_⟩
    · rw [barData_of_bars (congrArg (fun k => k.inlet.bars) hsame), congrArg (fun k => k.inlet.state) hsame, htouches]
      rfl
    · rw [State.container_withReply, hsame, State.container_dropFrame, BarSet.unbarred_self hcenter hopen]
      simp

end Sys2Proof.Machine
end

section
/-! PROOFS. The watch specification, and the endpoint's buffer, transmitter and rows (R165, R177, R178, R181, R191). -/

namespace Sys2Proof.Machine

/-! ### WATCH_SET (R165) -/

theorem ofBe_four (a b c d : Byte) :
    ofBe [a, b, c, d] = a.toNat * 16777216 + b.toNat * 65536 + c.toNat * 256 + d.toNat := by
  simp [ofBe]; ring

theorem keyKind_ofCode_code (k : KeyKind) : KeyKind.ofCode k.code = some k := by cases k <;> rfl

theorem watchAction_ofCode_code (a : WatchAction) : WatchAction.ofCode a.code = some a := by cases a <;> rfl

theorem keyKind_ofCode_isSome {n : Nat} : (KeyKind.ofCode n).isSome = true ↔ n ≤ 3 := by
  rcases n with _ | _ | _ | _ | n <;> simp [KeyKind.ofCode]

theorem watchAction_ofCode_isSome {n : Nat} : (WatchAction.ofCode n).isSome = true ↔ n ≤ 3 := by
  rcases n with _ | _ | _ | _ | n <;> simp [WatchAction.ofCode]

theorem code_of_keyKind_ofCode {n : Nat} {k : KeyKind} (h : KeyKind.ofCode n = some k) : k.code = n := by
  unfold KeyKind.ofCode at h
  split at h <;> simp at h <;> subst h <;> rfl

/-- The range of a key value by the code of its kind (10.1). -/
theorem keyInRange_iff (k : KeyKind) (v : Nat) : keyInRange k v = true ↔
    (k.code = 1 → v ≤ 4095) ∧ (k.code = 2 → v ≤ 127) ∧ (k.code = 3 → v ≤ 31) := by
  cases k <;> simp [keyInRange, KeyKind.code]

/-- The answer to a WATCH_SET of seven operand bytes (R165). -/
theorem watchSetBody_eq {f : Frame} {k v3 v2 v1 v0 x a : Byte} (hf : f.asks 0x14#8 [k, v3, v2, v1, v0, x, a]) (s : State) :
    watchSetBody f s =
      match KeyKind.ofCode k.toNat, WatchAction.ofCode a.toNat with
      | some kind, some action =>
        if 127 < x.toNat ∨ !keyInRange kind (ofBe [v3, v2, v1, v0]) then (s, replyOnly .badValue)
        else if s.watch.state = .held then (s, replyOnly .badState)
        else (s.setWatch kind (ofBe [v3, v2, v1, v0]) (BitVec.ofNat 7 x.toNat) action, replyOnly .ok)
      | _, _ => (s, replyOnly .badValue) := by
  have hk : field [k, v3, v2, v1, v0, x, a] 0 1 = k.toNat := ofBe_one k
  have hv : field [k, v3, v2, v1, v0, x, a] 1 4 = ofBe [v3, v2, v1, v0] := rfl
  have hx : field [k, v3, v2, v1, v0, x, a] 5 1 = x.toNat := ofBe_one x
  have ha : field [k, v3, v2, v1, v0, x, a] 6 1 = a.toNat := ofBe_one a
  unfold watchSetBody
  rw [operandsOf_asks hf]
  dsimp only
  rw [hk, hv, hx, ha]
  exact if_neg (by simp)

/-- Settles O51: BAD_LENGTH, BAD_VALUE, BAD_STATE, or the specification replaced. -/
theorem watchSetReplacesTheSpecification : Obligations.WatchSetReplacesTheSpecification := by
  intro s f rest o ht hf
  have hrun : ∀ t a, watchSetBody f (s.dropFrame rest) = (t, a) → exec .watchSet s =
      .next (t.withReply (f.reply 0x22#8 (BitVec.ofNat 8 a.result.code) 0x14#8 a.data)) :=
    fun t a hb => congrArg Host.Outcome.next (State.handle_done ht hf rfl (by decide) hb)
  have hno : ∀ r, watchSetBody f (s.dropFrame rest) = (s.dropFrame rest, replyOnly r) →
      exec .watchSet s = .next (s.answered f rest (BitVec.ofNat 8 r.code) 0x14#8 []) := fun r hb => hrun _ _ hb
  refine ⟨fun hl => hno .badLength ?_, fun k v3 v2 v1 v0 x a ho => ?_⟩
  · simp only [watchSetBody, operandsOf_asks hf]
    exact if_pos hl
  subst ho
  intro v legal
  have hbody := watchSetBody_eq hf (s.dropFrame rest)
  have hv : ofBe [v3, v2, v1, v0] = v := ofBe_four v3 v2 v1 v0
  rw [hv] at hbody
  clear_value v
  have hrange : ∀ kind, KeyKind.ofCode k.toNat = some kind → (keyInRange kind v = true ↔
      (k.toNat = 1 → v ≤ 4095) ∧ (k.toNat = 2 → v ≤ 127) ∧ (k.toNat = 3 → v ≤ 31)) := fun kind hkind => by
    rw [keyInRange_iff, code_of_keyKind_ofCode hkind]
  refine ⟨fun hillegal => hno .badValue ?_, fun hlegal hheld => hno .badState ?_,
    fun kind action hkind haction hlegal hheld => ?_⟩
  · rw [hbody]
    split
    next kind action hkind haction =>
      refine if_pos ?_
      by_contra hgood
      simp only [not_or, Nat.not_lt, Bool.not_eq_true', Bool.not_eq_false] at hgood
      exact hillegal ⟨keyKind_ofCode_isSome.mp (by rw [hkind]; rfl), watchAction_ofCode_isSome.mp (by rw [haction]; rfl),
        hgood.1, (hrange kind hkind).mp hgood.2⟩
    · rfl
  · obtain ⟨hk, ha, hx, hkey⟩ := hlegal
    obtain ⟨kind, hkind⟩ := Option.isSome_iff_exists.mp (keyKind_ofCode_isSome.mpr hk)
    obtain ⟨action, haction⟩ := Option.isSome_iff_exists.mp (watchAction_ofCode_isSome.mpr ha)
    rw [hbody, hkind, haction]
    dsimp only
    rw [if_neg (by simp [(hrange kind hkind).mpr hkey, Nat.not_lt.mpr hx])]
    exact if_pos hheld
  · obtain ⟨hk, ha, hx, hkey⟩ := hlegal
    have hkind' : KeyKind.ofCode k.toNat = some kind := by rw [← hkind, keyKind_ofCode_code]
    have haction' : WatchAction.ofCode a.toNat = some action := by rw [← haction, watchAction_ofCode_code]
    rw [hkind', haction'] at hbody
    dsimp only at hbody
    rw [if_neg (by simp [(hrange kind hkind').mpr hkey, Nat.not_lt.mpr hx]),
      if_neg (show (s.dropFrame rest).watch.state ≠ .held from hheld)] at hbody
    have hfilter : BitVec.ofNat 7 x.toNat = x.setWidth 7 := BitVec.eq_of_toNat_eq (by simp)
    rw [hfilter] at hbody
    exact hrun _ _ hbody

/-! ### The backhaul (R177, R181, R31) -/

theorem stationOfAddress_isSome {a : Byte} : (stationOfAddress a).isSome = true ↔
    (0x01 ≤ a.toNat ∧ a.toNat ≤ 0x10) ∨ (0x21 ≤ a.toNat ∧ a.toNat ≤ 0x30) := by
  unfold stationOfAddress
  split_ifs with h1 h2
  · simp [h1]
  · simp [h2]
  · simp only [Option.isSome_none, Bool.false_eq_true, false_iff]
    tauto

/-- The notice queue offers the highest priority, and of those the one appended first (R31). -/
theorem offerNotice_first {before after : List NoticeFrame} {n : NoticeFrame}
    (hbefore : ∀ m ∈ before, m.priority < n.priority) (hafter : ∀ m ∈ after, m.priority ≤ n.priority) :
    offerNotice (before ++ n :: after) = some (n, before ++ after) := by
  have hoffered : ∀ {l : List NoticeFrame} {m others}, offerNotice l = some (m, others) → m ∈ l := by
    intro l
    induction l with
    | nil => simp [offerNotice]
    | cons x l ih =>
      intro m others h
      unfold offerNotice at h
      split at h
      · simp only [Option.some.injEq, Prod.mk.injEq] at h
        simp [h.1]
      · rename_i m' others' hrest
        split_ifs at h <;> simp only [Option.some.injEq, Prod.mk.injEq] at h
        · exact List.mem_cons_of_mem _ (h.1 ▸ ih hrest)
        · simp [h.1]
  induction before with
  | nil =>
    rw [List.nil_append, List.nil_append, offerNotice]
    split
    · rename_i hnone
      cases after with
      | nil => rfl
      | cons x l =>
        unfold offerNotice at hnone
        split at hnone
        · simp at hnone
        · split_ifs at hnone
    · rename_i m others hrest
      rw [if_neg (Nat.not_lt.mpr (hafter m (hoffered hrest)))]
  | cons x l ih =>
    rw [List.cons_append, offerNotice, ih (fun m hm => hbefore m (List.mem_cons_of_mem _ hm))]
    exact if_pos (hbefore x List.mem_cons_self)

/-- The transmitter's choice, queue by queue (R181). -/
theorem begin_reply {e : Endpoint} {f : Frame} {others : List Frame} (h : e.replies = f :: others) :
    e.begin = { e with replies := others, tx := some { rank := .reply, frame := f } } := by
  rw [Endpoint.begin, h]

theorem begin_notice {e : Endpoint} {n : NoticeFrame} {others : List NoticeFrame} (hreplies : e.replies = [])
    (h : offerNotice e.notices = some (n, others)) :
    e.begin = { e with notices := others, tx := some { rank := .notice, frame := n.frame } } := by
  unfold Endpoint.begin
  split
  · simp_all
  · rw [h]

theorem begin_relay {e : Endpoint} {f : Frame} {others : List Frame} (hreplies : e.replies = []) (hnotices : e.notices = [])
    (h : e.toCenter = f :: others) : e.begin = { e with toCenter := others, tx := some { rank := .relay, frame := f } } := by
  cases e
  subst hreplies hnotices h
  rfl

theorem begin_idle {e : Endpoint} (hreplies : e.replies = []) (hnotices : e.notices = []) (h : e.toCenter = []) :
    e.begin = e := by
  cases e
  subst hreplies hnotices h
  rfl

/-- Settles O53: the buffer takes what is addressed to it and fits, and the transmitter sends in its order. -/
theorem backhaulReceivesAndSends : Obligations.BackhaulReceivesAndSends := by
  intro s
  have hawake : s.part.phase ≠ .stopped → s.awake = true := fun h => by simp [State.awake, h]
  have hasleep : s.part.phase = .stopped → s.awake = false := fun h => by simp [State.awake, h]
  have hbegin : s.part.phase ≠ .stopped → s.link.tx = none →
      exec .backhaulTransmitBegin s = .next (s.updLink Endpoint.begin) := fun hphase htx =>
    congrArg Host.Outcome.next (if_pos (by rw [hawake hphase, htx]; rfl))
  refine ⟨fun bytes f hphase hgood hroom hdst => ?_, fun bytes h => ?_, fun h => ?_, fun hphase htx => ⟨?_, ?_, ?_, ?_⟩,
    fun hphase => ?_, fun hphase => ?_⟩
  · refine congrArg Host.Outcome.next ?_
    rw [if_pos (hawake hphase), hgood]
    exact if_pos ⟨hdst.imp id stationOfAddress_isSome.mpr, hroom⟩
  · refine congrArg Host.Outcome.next ?_
    split
    next hrunning =>
      split
      next f hgood =>
        refine if_neg (fun ⟨hdst, hroom⟩ => ?_)
        obtain hphase | hfull | hbad | ⟨g, hg, hown, hlow, hhigh⟩ := h
        · rw [hasleep hphase] at hrunning; exact Bool.false_ne_true hrunning
        · omega
        · exact hbad f hgood
        · obtain rfl : f = g := by rw [hgood] at hg; exact Reception.good.inj hg
          exact hdst.elim hown (fun hs => (stationOfAddress_isSome.mp hs).elim hlow hhigh)
      · rfl
    · rfl
  · refine congrArg Host.Outcome.next (if_neg ?_)
    rw [Bool.and_eq_true, not_and]
    intro hrunning hidle
    obtain hphase | htx := h
    · rw [hasleep hphase] at hrunning; exact Bool.false_ne_true hrunning
    · exact htx (Option.isNone_iff_eq_none.mp hidle)
  · intro f others hreplies
    rw [hbegin hphase htx, State.updLink, begin_reply hreplies]
  · intro before n after hreplies hnotices hbefore hafter
    rw [hbegin hphase htx, State.updLink,
      begin_notice hreplies (hnotices ▸ offerNotice_first hbefore hafter)]
  · intro f others hreplies hnotices hcenter
    rw [hbegin hphase htx, State.updLink, begin_relay hreplies hnotices hcenter]
  · intro hreplies hnotices hcenter
    rw [hbegin hphase htx, State.updLink, begin_idle hreplies hnotices hcenter]
  · exact congrArg Host.Outcome.next (if_pos (hawake hphase))
  · exact congrArg Host.Outcome.next (if_neg (by rw [hasleep hphase]; exact Bool.false_ne_true))

/-! ### The rows of the requests (R178, R191) -/

/-- Each row of a request hands the oldest frame to its body. -/
theorem requestRows_handle {q : Instr × Request} (hq : q ∈ requestRows) :
    ∃ body, ∀ s, exec q.1 s = .next (s.handle q.2 body) := by
  simp only [requestRows, List.mem_cons, List.not_mem_nil, or_false] at hq
  obtain rfl | rfl | rfl | rfl | rfl | rfl | rfl | rfl | rfl | rfl | rfl | rfl | rfl | rfl | rfl | rfl | rfl | rfl | rfl |
    rfl | rfl := hq
  all_goals exact ⟨_, fun _ => rfl⟩

theorem ofCode_of_outside {n : Nat} (h : n = 0 ∨ 0x15 < n) : Request.ofCode n = .unknown := by
  unfold Request.ofCode
  split <;> first | omega | rfl

theorem requestOf_foreign {f : Frame} (h : f.dst ≠ 0x00#8) :
    requestOf f = if f.kind = 0x04#8 then .relay else .unknown := by
  rw [requestOf, if_neg (show f.dst ≠ ownAddress from h)]
  rfl

theorem requestOf_noRequest {f : Frame} (h : f.dst = 0x00#8) (hnone : f.kind ≠ 0x21#8 ∨ f.payload = []) :
    requestOf f = .unknown := by
  rw [requestOf, if_pos (show f.dst = ownAddress from h)]
  split
  · rfl
  · rename_i hkind
    rw [hnone.resolve_left (fun hne => hkind hne)]

/-- The row of a WATCH_RESUME mode takes the frames of its own mode. -/
theorem resumeRow_own {f : Frame} {b : Byte} {mode : ResumeMode} (hf : f.asks 0x15#8 [b])
    (hmode : ResumeMode.ofCode b.toNat = some mode) : resumeRow mode f = true := by
  have hq : requestOf f = .watchResume := requestOf_asks hf
  simp [resumeRow, hq, operandsOf_asks hf, hmode]

/-- In LOADING a WATCH_RESUME is answered BUSY. -/
theorem handleOldest_loading {s : State} {mine : Frame → Bool} {body : Frame → State → State × Answer} {f : Frame}
    {rest : List Frame} {code : Byte} {o : List Byte} (hphase : s.part.phase = .loading) (hx : s.link.rx = f :: rest)
    (hroom : s.link.replies.length < 4) (hnone : s.part.requested = none) (hmine : mine f = true) (hf : f.asks code o)
    (hread : requestOf f ≠ .journalRead) :
    s.handleOldest mine (busyWhileLoading body) = s.answered f rest 0x02#8 code [] := by
  have hm : s.mayHandle = true := by simp [State.mayHandle, State.awake, hphase, hroom, hnone]
  have hb : busyWhileLoading body f (s.dropFrame rest) = (s.dropFrame rest, replyOnly .busy) := if_pos hphase
  rw [State.handleOldest_of hm hx hmine hb, replyCode_asks hf, replyKind_eq, if_neg hread]
  rfl

/-- Settles O54: which row handles a frame, what LOADING and the unknown row answer, and what a frame asks for. -/
theorem endpointHandlesTheOldestFrame : Obligations.EndpointHandlesTheOldestFrame := by
  have hcode : ∀ f : Frame, (∀ c o, f.asks c o → replyCode f = c) ∧ (f.dst ≠ 0x00#8 → replyCode f = 0x00#8) :=
    fun f => ⟨fun c o h => replyCode_asks h, replyCode_relay⟩
  refine ⟨fun s q hq => ⟨fun h => ?_, fun f rest hphase hx hroom hnone hrequest => ?_⟩, fun s f rest ht hunknown => ?_,
    fun s f rest hphase hx hroom hnone q hq hf => ?_, fun f => ⟨requestOf_foreign, requestOf_noRequest, ?_, ?_⟩⟩
  · obtain ⟨body, hexec⟩ := requestRows_handle hq
    rw [hexec, State.handle_none h]
  · obtain ⟨body, hexec⟩ := requestRows_handle hq
    refine ⟨replyCode f, ?_, hcode f⟩
    rw [hexec, State.handle_loading hphase hx hroom hnone hrequest, replyKind_eq, hrequest]
  · refine ⟨replyCode f, ?_, hcode f⟩
    refine congrArg Host.Outcome.next ((State.handle_of ht hunknown rfl).trans ?_)
    rw [replyKind_eq, hunknown]
    rfl
  · have hread : requestOf f ≠ .journalRead := by
      rw [requestOf_asks hf]
      decide
    simp only [List.mem_cons, List.not_mem_nil, or_false] at hq
    obtain rfl | rfl | rfl := hq
    all_goals exact congrArg Host.Outcome.next (
      handleOldest_loading hphase hx hroom hnone (resumeRow_own hf rfl) hf hread)
  · intro code o hf hout
    rw [requestOf_asks hf, ofCode_of_outside (hout.imp (fun h => by rw [h]; rfl) id)]
  · intro o q hq hf
    rw [requestOf_asks hf]
    revert hq
    exact (by decide : ∀ q ∈ requestCodes, Request.ofCode q.1.toNat = q.2) q

end Sys2Proof.Machine
end

section
/-! PROOFS. What the bar reasons of a station's containers can change (1.5, R108, R109, R162): the records of the containers,
households and rounds, the due list, the notices, the reservations and the priority lists, and nothing else. -/

namespace Sys2Proof.Machine

/-- From one state to the other only what bar reasons reach may differ. -/
def State.barsOnly (s t : State) : Prop :=
  { t with containers := s.containers, households := s.households, rounds := s.rounds, planner := s.planner
           classes := s.classes, journal := { t.journal with reserved := s.journal.reserved }
           link := { t.link with notices := s.link.notices }
           lineA := { t.lineA with priority := s.lineA.priority }
           lineB := { t.lineB with priority := s.lineB.priority } } = s

namespace State.barsOnly

variable {s t u : State}

theorem refl (s : State) : s.barsOnly s := rfl

theorem trans (h : s.barsOnly t) (g : t.barsOnly u) : s.barsOnly u := by
  unfold barsOnly at h g ⊢
  rw [← h, ← g]

theorem watch (h : s.barsOnly t) : t.watch = s.watch := by
  unfold barsOnly at h
  have hfield := congrArg State.watch h
  exact hfield

theorem stations (h : s.barsOnly t) : t.stations = s.stations := by
  unfold barsOnly at h
  have hfield := congrArg State.stations h
  exact hfield

theorem station (h : s.barsOnly t) (i : Nat) : t.station i = s.station i := by
  unfold State.station
  rw [h.stations]

theorem cards (h : s.barsOnly t) : t.cards = s.cards := by
  unfold barsOnly at h
  have hfield := congrArg State.cards h
  exact hfield

theorem clock (h : s.barsOnly t) : t.clock = s.clock := by
  unfold barsOnly at h
  have hfield := congrArg State.clock h
  exact hfield

theorem records (h : s.barsOnly t) : t.journal.records = s.journal.records := by
  unfold barsOnly at h
  have hfield := congrArg (fun x : State => x.journal.records) h
  exact hfield

theorem relay (h : s.barsOnly t) (l : Line) : (t.line l).relay = (s.line l).relay := by
  unfold barsOnly at h
  cases l
  · have hfield := congrArg (fun x : State => x.lineA.relay) h
    exact hfield
  · have hfield := congrArg (fun x : State => x.lineB.relay) h
    exact hfield

theorem foldl {β : Type} {f : State → β → State} (hf : ∀ (t : State) b, t.barsOnly (f t b)) (l : List β) (s : State) :
    s.barsOnly (l.foldl f s) := by
  induction l generalizing s with
  | nil => exact refl s
  | cons b l ih => exact (hf s b).trans (ih _)

theorem updContainer (s : State) (c : Nat) (f : Container → Container) : s.barsOnly (s.updContainer c f) := rfl

theorem requestTurn (s : State) (i : Nat) : s.barsOnly (s.requestTurn i) := by
  unfold State.requestTurn
  split
  · exact refl s
  · cases lineOf i <;> (unfold State.updLine; dsimp only; split <;> rfl)

theorem lockClosed (s : State) (c : Nat) : s.barsOnly (s.lockClosed c) :=
  (updContainer s c _).trans (requestTurn _ _)

theorem raise (s : State) (n : Notice) (subject : Option Nat) (value : Nat) : s.barsOnly (s.raise n subject value) := by
  rw [raise_form]
  rfl

theorem dropGrant (s : State) (c : Nat) : s.barsOnly (s.dropGrant c) := by
  cases hg : (s.container c).inlet.grant with
  | none => rw [State.dropGrant, hg]; exact refl s
  | some g =>
    rw [dropGrant_form s c g hg]
    cases g.household <;> rfl

theorem grantLost (s : State) (c : Nat) : s.barsOnly (s.grantLost c) :=
  ((dropGrant s c).trans (updContainer _ c _)).trans (lockClosed _ c)

theorem returnStop (s : State) (c : Nat) (place : Option (Nat × Nat)) (why : WorkEnd) :
    s.barsOnly (s.returnStop c place why) := by
  obtain ⟨_, _, _, _, _, htouches⟩ := returnStop_touches s c place why
  rw [htouches]
  rfl

theorem endWork (s : State) (c : Nat) (why : WorkEnd) : s.barsOnly (s.endWork c why) := by
  cases hv : (s.container c).inlet.service with
  | none => rw [State.endWork, hv]; exact refl s
  | some v =>
    rw [endWork_form s c v why hv]
    exact (returnStop s c v.place why).trans rfl

theorem makeUnknown (s : State) (c : Nat) : s.barsOnly (s.makeUnknown c) := by
  obtain ⟨_, _, hstatus⟩ := setStatus_touches
    (s.updFill c (fun f => { f with estimate := none, risePending := false })) c .unknown 0
  rw [makeUnknown_form, hstatus]
  obtain ⟨_, hdue⟩ := requestDue_touches _ c
  rw [hdue]
  rfl

theorem crewLost (s : State) (c : Nat) (why : WorkEnd) : s.barsOnly (s.crewLost c why) :=
  (((endWork s c why).trans (updContainer _ c _)).trans (lockClosed _ c)).trans (makeUnknown _ c)

theorem addBar (s : State) (c : Nat) (r : BarReason) : s.barsOnly (s.addBar c r) := by
  have hput : s.barsOnly (s.putBar c r true) := rfl
  unfold State.addBar
  dsimp only
  split
  · exact refl s
  · split
    · exact hput.trans (updContainer _ c _)
    · exact hput.trans (grantLost _ c)
    · exact hput
    · split
      · exact hput.trans (crewLost _ c _)
      · exact hput
    · split
      · exact hput.trans (crewLost _ c _)
      · exact hput
    · split
      · exact (hput.trans (updContainer _ c _)).trans (updContainer _ c _)
      · exact hput

theorem addBars (s : State) (i : Nat) (r : BarReason) : s.barsOnly (s.addBars i r) :=
  foldl (fun t c => addBar t c r) (containersOf i) s

theorem removeBar (s : State) (c : Nat) (r : BarReason) : s.barsOnly (s.removeBar c r) := by
  obtain ⟨_, htouches⟩ := removeBar_touches s c r
  rw [htouches]
  rfl

theorem removeBars (s : State) (i : Nat) (r : BarReason) : s.barsOnly (s.removeBars i r) :=
  foldl (fun t c => removeBar t c r) (containersOf i) s

theorem endOutstanding (s : State) (i : Nat) : s.barsOnly (s.endOutstanding i) :=
  foldl (fun t c => updContainer t c _) (containersOf i) s

end State.barsOnly

/-! ### The watch at a miss -/

theorem watch_becomeLost (s : State) (i : Nat) : (s.becomeLost i).watch = s.watch := by
  have hbars := State.barsOnly.addBars (s.updStation i (fun t => { t with state := .lost, missCount := 8 })) i .stationLost
  rw [State.becomeLost, State.raise_watch, (State.barsOnly.endOutstanding _ i).watch]
  calc _ = (State.addBars _ i .stationLost).watch := by
        unfold State.dropRelay State.updLine
        cases lineOf i <;> rfl
    _ = s.watch := hbars.watch

theorem watch_miss (s : State) (i : Nat) : (s.miss i).watch = s.watch := by
  unfold State.miss
  dsimp only
  split
  · rfl
  · rfl
  · rfl
  · split
    · exact watch_becomeLost s i
    · rfl

end Sys2Proof.Machine
end

section
/-! PROOFS. Frames on the line and the exchange that fails (R1, R8, R13): what a receiver reads, and what a miss changes. -/

namespace Sys2Proof.Machine

/-! ### Writing a record twice, and writing back what stands -/

theorem Tab.without_of_find_none {α : Type} {l : List (Nat × α)} {k : Nat} (h : Tab.find l k = none) :
    Tab.without l k = l := by
  induction l with
  | nil => rfl
  | cons e rest ih =>
    simp only [Tab.find] at h
    split_ifs at h with hj
    simp only [Tab.without, if_neg hj, ih h]

theorem Tab.without_insert {α : Type} (l : List (Nat × α)) (k : Nat) (v : α) :
    Tab.without (Tab.insert l k v) k = Tab.without l k := by
  induction l with
  | nil => simp [Tab.insert, Tab.without]
  | cons e rest ih =>
    simp only [Tab.insert]
    split_ifs with hlt
    · simp [Tab.without]
    · simp only [Tab.without, ih]

theorem Tab.insert_without_of_find {α : Type} [DecidableEq α] {d : α} {l : List (Nat × α)} {lo k : Nat} {v : α}
    (h : Tab.wfFrom d lo l = true) (hfind : Tab.find l k = some v) : Tab.insert (Tab.without l k) k v = l := by
  induction l generalizing lo with
  | nil => simp [Tab.find] at hfind
  | cons e rest ih =>
    obtain ⟨j, w⟩ := e
    simp only [Tab.wfFrom, Bool.and_eq_true, decide_eq_true_eq] at h
    obtain ⟨-, hrest⟩ := h
    simp only [Tab.find] at hfind
    split_ifs at hfind with hj
    · subst hj
      obtain rfl := Option.some.inj hfind
      rw [show Tab.without ((j, w) :: rest) j = Tab.without rest j by simp [Tab.without],
        Tab.without_of_find_none (Tab.find_eq_none_of_wfFrom hrest (Nat.lt_succ_self j))]
      cases rest with
      | nil => rfl
      | cons e' rest =>
        simp only [Tab.wfFrom, Bool.and_eq_true, decide_eq_true_eq] at hrest
        have hlt : j < e'.1 := hrest.1.1
        simp [Tab.insert, hlt]
    · have hlt : ¬ k < j := fun hlt => by
        rw [Tab.find_eq_none_of_wfFrom hrest (by omega)] at hfind
        cases hfind
      simp only [Tab.without, if_neg hj, Tab.insert, if_neg hlt, ih hrest hfind]

/-- The last of two writes at one index stands alone. -/
theorem Tab.set_set {α : Type} [DecidableEq α] (d : α) (t : Tab α) (k : Nat) (v w : α) :
    (t.set d k v).set d k w = t.set d k w := by
  have hwithout : Tab.without (t.set d k v).entries k = Tab.without t.entries k := by
    unfold Tab.set
    split_ifs
    · exact Tab.without_of_find_none (by simp [Tab.find_without])
    · rw [Tab.without_insert, Tab.without_of_find_none (by simp [Tab.find_without])]
  unfold Tab.set at hwithout ⊢
  simp only [hwithout]

/-- A record written back as it stands leaves a canonical table as it is. -/
theorem Tab.set_get_self {α : Type} [DecidableEq α] {d : α} {t : Tab α} (h : t.wf d = true) (k : Nat) :
    t.set d k (t.get d k) = t := by
  obtain ⟨l⟩ := t
  unfold Tab.set Tab.get
  cases hfind : Tab.find l k with
  | none => simp [Tab.without_of_find_none hfind]
  | some v =>
    have hv : v ≠ d := fun hv => by
      subst hv
      unfold Tab.wf at h
      generalize 0 = lo at h
      induction l generalizing lo with
      | nil => simp [Tab.find] at hfind
      | cons e rest ih =>
        simp only [Tab.wfFrom, Bool.and_eq_true, decide_eq_true_eq] at h
        simp only [Tab.find] at hfind
        split_ifs at hfind
        · exact h.1.2 (Option.some.inj hfind)
        · exact ih hfind _ h.2
    simp [hv, Tab.insert_without_of_find h hfind]

theorem State.updStation_updStation (s : State) (i : Nat) (f g : Station → Station) :
    (s.updStation i f).updStation i g = s.updStation i (fun k => g (f k)) := by
  unfold State.updStation State.station
  simp only [Tab.get_set_same, Tab.set_set]

theorem State.updStation_self {s : State} (hc : s.canonical = true) (i : Nat) {f : Station → Station}
    (h : f (s.station i) = s.station i) : s.updStation i f = s := by
  have hwf : s.stations.wf Station.blank = true := by
    simp only [State.canonical, Bool.and_eq_true] at hc
    tauto
  unfold State.updStation
  rw [h]
  unfold State.station
  rw [Tab.set_get_self hwf]

/-! ### Reception (R1) -/

theorem receive_marked {len : Byte} {tail : List Byte} :
    receive (0x5B#8 :: len :: tail) =
      if 112 < len.toNat then .bad
      else if ((tail.drop (4 + len.toNat)).take 2).length = 2 ∧
          ofBe ((tail.drop (4 + len.toNat)).take 2) = (crc16 (len :: tail.take (4 + len.toNat))).toNat then
        .good (Frame.ofBody (tail.take (4 + len.toNat)))
      else .bad := rfl

theorem receive_unmarked {m : Byte} (rest : List Byte) (h : m ≠ 0x5B#8) : receive (m :: rest) = .nothing := by
  simp [receive, h]

theorem receive_long {len : Byte} (rest : List Byte) (h : 112 < len.toNat) :
    receive (0x5B#8 :: len :: rest) = .bad := by
  rw [receive_marked, if_pos h]

theorem receive_short {len : Byte} {rest : List Byte} (h : rest.length < len.toNat + 6) :
    receive (0x5B#8 :: len :: rest) = .bad := by
  have hcrc : ((rest.drop (4 + len.toNat)).take 2).length ≠ 2 := by
    simp only [List.length_take, List.length_drop]
    omega
  rw [receive_marked, if_neg (c := _ ∧ _) (fun h => hcrc h.1), ite_self]

/-- A frame that came complete: its body and the two bytes after it. -/
theorem receive_complete {len hi lo : Byte} {body after : List Byte} (h : body.length = len.toNat + 4) :
    receive (0x5B#8 :: len :: (body ++ hi :: lo :: after)) =
      if 112 < len.toNat then .bad
      else if ofBe [hi, lo] = (crc16 (len :: body)).toNat then .good (Frame.ofBody body) else .bad := by
  have htake : (body ++ hi :: lo :: after).take (4 + len.toNat) = body := by
    rw [List.take_append_of_le_length (by omega), List.take_of_length_le (by omega)]
  have hdrop : (body ++ hi :: lo :: after).drop (4 + len.toNat) = hi :: lo :: after := by
    rw [List.drop_append_of_le_length (by omega), List.drop_of_length_le (by omega), List.nil_append]
  rw [receive_marked, htake, hdrop]
  simp

theorem receive_spoiled {len hi lo : Byte} {body : List Byte} (after : List Byte) (h : body.length = len.toNat + 4)
    (hcrc : hi ++ lo ≠ crc16 (len :: body)) : receive (0x5B#8 :: len :: body ++ hi :: lo :: after) = .bad := by
  have hne : ofBe [hi, lo] ≠ (crc16 (len :: body)).toNat := fun heq => hcrc (BitVec.eq_of_toNat_eq (by
    rw [← heq, BitVec.toNat_append, ofBe_two, Nat.shiftLeft_eq, ← Nat.shiftLeft_eq,
      ← Nat.shiftLeft_add_eq_or_of_lt lo.isLt, Nat.shiftLeft_eq]))
  exact (receive_complete h).trans (by rw [if_neg hne, ite_self])

theorem be_two (n : Nat) : be 2 n = [BitVec.ofNat 8 (n / 256), BitVec.ofNat 8 n] := by
  simp [be]

/-- Settles O12: the body is cut where LEN says, and the two bytes after it spell the CRC-16 the sender laid down. -/
theorem frameBytesReceivedBack : Obligations.FrameBytesReceivedBack := by
  intro f after hlen
  have hlenNat : (BitVec.ofNat 8 f.payload.length).toNat = f.payload.length := by
    rw [BitVec.toNat_ofNat]
    omega
  have hbytes : f.bytes ++ after = 0x5B#8 :: BitVec.ofNat 8 f.payload.length ::
      ((f.dst :: f.src :: f.kind :: f.tag :: f.payload) ++
        BitVec.ofNat 8 ((crc16 f.covered).toNat / 256) :: BitVec.ofNat 8 (crc16 f.covered).toNat :: after) := by
    simp [Frame.bytes, be_two, Frame.covered]
  have hcrc : ofBe [BitVec.ofNat 8 ((crc16 f.covered).toNat / 256), BitVec.ofNat 8 (crc16 f.covered).toNat] =
      (crc16 f.covered).toNat := by
    rw [← be_two]
    exact ofBe_be (crc16 f.covered).isLt
  rw [hbytes, receive_complete (by simp [hlenNat]), hlenNat, if_neg (by omega)]
  exact if_pos hcrc

/-! ### Frames that reach no exchange, and the failed exchange (R1, R8, R13) -/

theorem exec_lineFrameReceived_of {s : State} {l : Line} {t : Turn} (h : s.waitingTurn l = some t) (bytes : List Byte) :
    exec (.lineFrameReceived l true bytes) s = .next (s.frameArrives l t bytes) := by
  show Host.Outcome.next _ = _
  rw [h]
  rfl

theorem exec_lineFrameReceived_idle {s : State} {l : Line} (h : s.waitingTurn l = none) (inWindow : Bool)
    (bytes : List Byte) : exec (.lineFrameReceived l inWindow bytes) s = .next s := by
  show Host.Outcome.next _ = _
  rw [h]

theorem exec_lineFrameReceived_late (s : State) (l : Line) (bytes : List Byte) :
    exec (.lineFrameReceived l false bytes) s = .next s := by
  show Host.Outcome.next (match s.waitingTurn l with
    | some t => if false = true then s.frameArrives l t bytes else s
    | none => s) = _
  cases s.waitingTurn l <;> rfl

theorem exec_responseWindowExpired_of {s : State} {l : Line} {t : Turn} (h : s.waitingTurn l = some t) :
    exec (.responseWindowExpired l) s = .next (s.exchangeFailed l t) := by
  show Host.Outcome.next _ = _
  rw [h]

theorem State.frameArrives_bad {bytes : List Byte} (h : receive bytes = .bad) (s : State) (l : Line) (t : Turn) :
    s.frameArrives l t bytes = s.exchangeFailed l t := by
  unfold State.frameArrives
  rw [h]

theorem State.frameArrives_good {bytes : List Byte} {f : Frame} {t : Turn} (h : receive bytes = .good f)
    (hdst : f.dst = 0x00#8) (hsrc : f.src = stationAddress t.station) (s : State) (l : Line) :
    s.frameArrives l t bytes = s.takeAnswer l t f := by
  unfold State.frameArrives
  rw [h]
  exact if_pos ⟨hdst, hsrc⟩

theorem State.frameArrives_foreign {bytes : List Byte} {f : Frame} {t : Turn} (h : receive bytes = .good f)
    (hother : f.dst ≠ 0x00#8 ∨ f.src ≠ stationAddress t.station) (s : State) (l : Line) :
    s.frameArrives l t bytes = s := by
  unfold State.frameArrives
  rw [h]
  exact if_neg (fun hown => hother.elim (fun h => h hown.1) (fun h => h hown.2))

/-- A window that expired and a frame that proves not good fail the exchange alike. -/
theorem exec_of_failed {s : State} {l : Line} {t : Turn} {bytes : List Byte} (h : s.waitingTurn l = some t)
    (hbad : receive bytes = .bad) {c : Instr} (hc : c = .responseWindowExpired l ∨ c = .lineFrameReceived l true bytes) :
    exec c s = .next (s.exchangeFailed l t) := by
  obtain rfl | rfl := hc
  · exact exec_responseWindowExpired_of h
  · rw [exec_lineFrameReceived_of h, State.frameArrives_bad hbad]

/-- Settles O13: by the branches of the reception, and by those of LINE_FRAME_RECEIVED. -/
theorem framesThatAreNoAnswerAreDiscarded : Obligations.FramesThatAreNoAnswerAreDiscarded := by
  refine ⟨fun _ rest h => receive_long rest h, fun _ _ h => receive_short h, rfl,
    fun _ _ _ _ after h hcrc => receive_spoiled after h hcrc, fun _ rest h => receive_unmarked rest h,
    fun s l inWindow bytes => ⟨fun h => exec_lineFrameReceived_idle h inWindow bytes, exec_lineFrameReceived_late s l bytes,
      fun t f h hgood hother => ?_⟩⟩
  cases inWindow with
  | false => exact exec_lineFrameReceived_late s l bytes
  | true => rw [exec_lineFrameReceived_of h, State.frameArrives_foreign hgood hother]

/-- The accept flag owed after a failed exchange, as the statement writes it. -/
theorem State.oweAccept_failed (s : State) (t : Turn) :
    (if t.exchange.what = .poll then s.oweAccept t.station false else s) =
      if t.exchange.what = .poll then s.updStation t.station (fun k => { k with acceptOwed := false }) else s := rfl

/-- The record of a station that a miss does not make LOST. -/
def Station.missed (k : Station) : Station :=
  match k.state with
  | .online => { k with state := .silent, missCount := 1 }
  | .lost => k
  | .disabled => k
  | _ => { k with missCount := k.missCount + 1 }

theorem State.miss_of_kept {s : State} (hc : s.canonical = true) (i : Nat)
    (h : (s.station i).state = .unknown ∨ (s.station i).state = .silent → (s.station i).missCount + 1 < 8) :
    s.miss i = s.updStation i Station.missed := by
  have hbelow : ∀ state, (s.station i).state = state → state = .unknown ∨ state = .silent →
      ¬ 8 ≤ (s.station i).missCount + 1 := fun state hstate hcase => by
    have := h (hstate ▸ hcase)
    omega
  cases hstate : (s.station i).state
  case online => simp [State.miss, State.updStation, hstate, Station.missed]
  case lost | disabled =>
    rw [State.updStation_self hc i (by simp [Station.missed, hstate])]
    simp [State.miss, hstate]
  case unknown => simp [State.miss, State.updStation, hstate, Station.missed, hbelow _ hstate (Or.inl rfl)]
  case silent => simp [State.miss, State.updStation, hstate, Station.missed, hbelow _ hstate (Or.inr rfl)]

theorem State.canonical_updStation {s : State} (hc : s.canonical = true) (i : Nat) (f : Station → Station) :
    (s.updStation i f).canonical = true := by
  simp only [State.canonical, Bool.and_eq_true] at hc ⊢
  simp only [State.updStation, Tab.wf_set hc.1.1.1.1.1.1.1.1.2]
  tauto

/-- The record after a failed exchange that does not make the station LOST. -/
theorem State.miss_after_owed {s : State} (hc : s.canonical = true) (t : Turn)
    (h : (s.station t.station).state = .unknown ∨ (s.station t.station).state = .silent →
      (s.station t.station).missCount + 1 < 8) :
    (if t.exchange.what = .poll then s.oweAccept t.station false else s).miss t.station =
      s.updStation t.station (fun k => Station.missed { k with acceptOwed :=
        if t.exchange.what = .poll then false else (s.station t.station).acceptOwed }) := by
  split_ifs with hpoll
  · rw [State.oweAccept, State.miss_of_kept (State.canonical_updStation hc _ _) _ (by simpa using h),
      State.updStation_updStation]
  · rw [State.miss_of_kept hc _ h]
    unfold State.updStation
    rfl

theorem State.holdIf_of_kept {s : State} {i : Nat} {b : Bool} (h : b = false ∨ s.watch.state = .held) : s.holdIf i b = s :=
  if_neg (fun hb => h.elim (fun hfalse => absurd hb.1 (by simp [hfalse])) hb.2)

/-- Settles O15: the miss is one write of the station's record, and what follows it is the line's choice. -/
theorem failedExchangeIsAMiss : Obligations.FailedExchangeIsAMiss := by
  refine ⟨fun s l t bytes hcan h hbad c hc => ?_, fun s l t bytes h hbad hhold => ?_⟩
  · have hchose : ∀ v, (if t.exchange.what = .poll then s.oweAccept t.station false else s).miss t.station = v →
        ∃ u, exec c s = .next u ∧ v.onlyChose u := fun v hv =>
      ⟨_, exec_of_failed h hbad hc, by
        subst hv
        exact onlyChose_trans (onlyChose_holdIf _ _ _) (onlyChose_endTurn _ l _)⟩
    refine ⟨fun hstate => hchose _ ?_, fun hstate hcount => hchose _ ?_, fun hstate => hchose _ ?_⟩
    · rw [State.miss_after_owed hcan t (by simp [hstate])]
      simp [State.updStation, Station.missed, hstate]
    · rw [State.miss_after_owed hcan t (fun _ => hcount)]
      obtain hstate | hstate := hstate <;> simp [State.updStation, Station.missed, hstate]
    · rw [State.miss_after_owed hcan t (by obtain hstate | hstate := hstate <;> simp [hstate])]
      obtain hstate | hstate := hstate <;> simp [State.updStation, Station.missed, hstate]
  · intro v c hc
    have hwatch : (v.miss t.station).watch = s.watch := by
      rw [watch_miss]
      unfold v
      split <;> rfl
    rw [exec_of_failed h hbad hc]
    exact congrArg (fun w : State => Host.Outcome.next (w.endTurn l t.station))
      (State.holdIf_of_kept (hhold.imp_right (fun hheld => (congrArg Watch.state hwatch).trans hheld)))

end Sys2Proof.Machine
end

section
/-! PROOFS. The answer that revives its station (R14, R109), and the ACK (R6, R7). -/

namespace Sys2Proof.Machine

/-! ### An operation done at each container of a list -/

/-- What a fold leaves at a container, when each step changes its own container by one rule. -/
theorem foldl_at_containers {β : Type} {p : Container → β} {f : State → Nat → State} {g : β → β}
    (hf : ∀ s c d, p ((f s c).container d) = if d = c then g (p (s.container c)) else p (s.container d))
    {l : List Nat} (hl : l.Nodup) (s : State) (d : Nat) :
    p ((l.foldl f s).container d) = if d ∈ l then g (p (s.container d)) else p (s.container d) := by
  induction l generalizing s with
  | nil => simp
  | cons c l ih =>
    obtain ⟨hc, hrest⟩ := List.nodup_cons.mp hl
    rw [List.foldl_cons, ih hrest, hf]
    by_cases hd : d = c
    · subst hd
      simp [hc]
    · simp [hd]

theorem containersOf_nodup (i : Nat) : (containersOf i).Nodup := by
  simp [containersOf]

/-- A container with a reason taken out of its set (R109). -/
def Container.withoutBar (r : BarReason) (k : Container) : Container :=
  { k with inlet := { k.inlet with
      bars := k.inlet.bars.put r false
      state := if k.inlet.bars.has r = true ∧ k.inlet.bars.put r false = BarSet.empty ∧ k.inlet.state = .barred then .locked
        else k.inlet.state } }

theorem container_removeBars (s : State) (i : Nat) (r : BarReason) (c : Nat) : (s.removeBars i r).container c =
    if c ∈ containersOf i then (s.container c).withoutBar r else s.container c :=
  foldl_at_containers (p := fun k => k) (g := Container.withoutBar r) (fun s c d => container_removeBar s c r d)
    (containersOf_nodup i) s c

theorem removeBars_touches (s : State) (i : Nat) (r : BarReason) :
    ∃ ks, s.removeBars i r = { s with containers := ks } := by
  unfold State.removeBars
  generalize containersOf i = l
  induction l generalizing s with
  | nil => exact ⟨_, rfl⟩
  | cons c l ih =>
    obtain ⟨_, hrest⟩ := ih (s.removeBar c r)
    obtain ⟨_, hfirst⟩ := removeBar_touches s c r
    rw [List.foldl_cons, hrest, hfirst]
    exact ⟨_, rfl⟩

@[simp] theorem station_removeBars (s : State) (i : Nat) (r : BarReason) (j : Nat) :
    (s.removeBars i r).station j = s.station j := (State.barsOnly.removeBars s i r).station j

@[simp] theorem classes_removeBars (s : State) (i : Nat) (r : BarReason) : (s.removeBars i r).classes = s.classes := by
  obtain ⟨_, htouches⟩ := removeBars_touches s i r
  rw [htouches]

@[simp] theorem link_removeBars (s : State) (i : Nat) (r : BarReason) : (s.removeBars i r).link = s.link := by
  obtain ⟨_, htouches⟩ := removeBars_touches s i r
  rw [htouches]

@[simp] theorem noticeClass_removeBars (s : State) (i : Nat) (r : BarReason) (n : Nat) :
    (s.removeBars i r).noticeClass n = s.noticeClass n := by
  unfold State.noticeClass
  rw [classes_removeBars]

/-! ### A good frame from the waited-on station (R14) -/

/-- The record of a station that answered. -/
def Station.answered (k : Station) : Station := { k with state := .online, missCount := 0, seen := true }

theorem goodFrame_eq (s : State) (i : Nat) : s.goodFrame i =
    if (s.station i).seen = true then
      (if (s.station i).state = .lost then
        ((s.updStation i Station.answered).removeBars i .stationLost).raise .stationBack (some i) 0
      else s.updStation i Station.answered)
    else
      (if (s.station i).state = .lost then
        ((s.updStation i Station.answered).removeBars i .stationLost).raise .stationBack (some i) 0
      else s.updStation i Station.answered).removeBars i .notSeen := rfl

theorem station_goodFrame (s : State) (i j : Nat) :
    (s.goodFrame i).station j = if j = i then (s.station i).answered else s.station j := by
  rw [goodFrame_eq]
  split_ifs <;> simp_all [State.station_updStation]

/-- The two reasons that an answer can take out, at one of the station's containers. -/
theorem container_goodFrame {s : State} {i c : Nat} (hc : c ∈ containersOf i) :
    (s.goodFrame i).container c =
      (if (s.station i).seen then id else Container.withoutBar .notSeen)
        ((if (s.station i).state = .lost then Container.withoutBar .stationLost else id) (s.container c)) := by
  rw [goodFrame_eq]
  split_ifs <;> simp [container_removeBars, hc]

/-- The bars and the state of an inlet that NOT_SEEN and STATION_LOST have left, each unless it stays. -/
theorem Container.revived (k : Container) (seen lost : Prop) [Decidable seen] [Decidable lost] :
    let b := k.inlet.bars
    let b' : BarSet := { b with stationLost := b.stationLost && !decide lost, notSeen := b.notSeen && decide seen }
    let k' := (if seen then id else Container.withoutBar .notSeen)
      ((if lost then Container.withoutBar .stationLost else id) k)
    k'.inlet.bars = b' ∧
      k'.inlet.state = if k.inlet.state = .barred ∧ b ≠ b' ∧ b' = BarSet.empty then .locked else k.inlet.state := by
  obtain ⟨cfg, fill, ⟨state, ⟨b1, b2, b3, b4, b5, b6⟩, g, v, cmd, dr, ua, sl⟩, fo, mi⟩ := k
  by_cases hseen : seen <;> by_cases hlost : lost <;> cases b2 <;> cases b4 <;> cases state <;>
    simp [hseen, hlost, Container.withoutBar, BarSet.put, BarSet.has, BarSet.empty]

/-- Settles O17: the record is written, and each of the two reasons leaves the set of each of the four containers. -/
theorem answerRevivesItsStation : Obligations.AnswerRevivesItsStation := by
  intro s i k u
  refine ⟨by simp [u, k, station_goodFrame, Station.answered], fun j hj => by simp [u, station_goodFrame, hj],
    fun hseen hlost => ?_, fun hlost => ?_, fun hlost => ?_, fun c hc => ?_⟩
  · rw [show u = s.goodFrame i from rfl, goodFrame_eq, if_pos hseen, if_neg hlost]
    rfl
  · have hraised : u.noticeClass 8 = (s.noticeClass 8).raised { subject := some i, value := 0 } s.link.notices.length := by
      rw [show u = s.goodFrame i from rfl, goodFrame_eq, if_pos hlost]
      have hsame := fun t : State => t.noticeClass_raise_same .stationBack (some i) 0
      simp only [Notice.number] at hsame
      split_ifs <;> simp [hsame]
    rw [hraised]
    rfl
  · rw [show u = s.goodFrame i from rfl, goodFrame_eq, if_neg hlost]
    split_ifs <;> simp
  · rw [show u = s.goodFrame i from rfl, container_goodFrame hc]
    simpa using (s.container c).revived ((s.station i).seen = true) ((s.station i).state = .lost)

/-! ### The ACK (R6, R7) -/

theorem Option.filter_eq_match (n : Inlet) :
    { n with command := n.command.filter (fun c => !c.sent) } = (match n.command with
      | some c => if c.sent then { n with command := none } else n
      | none => n) := by
  obtain ⟨state, bars, g, v, cmd, dr, ua, sl⟩ := n
  cases cmd with
  | none => rfl
  | some c => cases hs : c.sent <;> simp [Option.filter, hs]

theorem ackReceived_eq (s : State) (l : Line) (t : Turn) : s.ackReceived l t =
    if t.exchange.holdAfter ∧ (s.acked t.station t.exchange.what).watch.state ≠ .held then
      ((s.acked t.station t.exchange.what).beginHold t.station none 1).endTurn l t.station
    else (s.acked t.station t.exchange.what).continueTurn l t := rfl

theorem onlyChose_ackReceived (s : State) (l : Line) (t : Turn) :
    (s.acked t.station t.exchange.what).onlyChose (s.ackReceived l t) := by
  rw [ackReceived_eq]
  split_ifs
  · exact onlyChose_trans (onlyChose_beginHold _ _ _ _) (onlyChose_endTurn _ _ _)
  · exact onlyChose_continueTurn _ _ _

theorem takeAnswer_ack {f : Frame} {t : Turn} (hkind : f.kind = 0x05#8) (hpoll : t.exchange.what ≠ .poll) (s : State)
    (l : Line) : s.takeAnswer l t f = (s.goodFrame t.station).ackReceived l t := by
  unfold State.takeAnswer
  dsimp only
  rw [if_neg hpoll]
  exact if_pos hkind

theorem clearTurn_same (s : State) (l : Line) :
    { s.clearTurn l with lineA := s.lineA, lineB := s.lineB } = s ∧
      (s.clearTurn l).line l = { s.line l with turn := none } ∧
      ∀ l', l' ≠ l → (s.clearTurn l).line l' = s.line l' := by
  cases l
  · refine ⟨rfl, rfl, fun l' hl => ?_⟩
    cases l' with
    | a => exact absurd rfl hl
    | b => rfl
  · refine ⟨rfl, rfl, fun l' hl => ?_⟩
    cases l' with
    | a => rfl
    | b => exact absurd rfl hl

theorem watch_clearTurn (s : State) (l : Line) : (s.clearTurn l).watch = s.watch := by
  cases l <;> rfl

theorem endTurn_unmarked {s : State} {i : Nat} (h : s.watch.stepMark ≠ some i) (l : Line) :
    s.endTurn l i = (s.clearTurn l).kick l := by
  have hkeep : (s.clearTurn l).stepRehold i = s.clearTurn l := by
    unfold State.stepRehold
    rw [watch_clearTurn, if_neg h]
  unfold State.endTurn
  rw [hkeep]

/-- Settles O18: what the ACK acknowledges is one write, and the line's choice follows it. -/
theorem ackEndsTheExchange : Obligations.AckEndsTheExchange := by
  refine ⟨fun s l t f bytes h hgood hdst hsrc hkind hpoll => ?_, fun s l t => ?_, fun s l i => ?_⟩
  · intro v
    refine ⟨v.acked t.station t.exchange.what, v.ackReceived l t, ?_, onlyChose_ackReceived v l t, fun hhold => ?_,
      fun slot hwhat => ?_, fun slot hwhat => ?_, fun n hwhat => ?_⟩
    · rw [exec_lineFrameReceived_of h, State.frameArrives_good hgood hdst hsrc, takeAnswer_ack hkind hpoll]
    · rw [ackReceived_eq, if_neg]
      rintro ⟨hafter, hheld⟩
      exact hhold.elim (fun hfalse => by simp [hfalse] at hafter) hheld
    · rw [hwhat]
      refine ⟨rfl, fun c hc => State.container_updContainer_other _ _ hc, ?_⟩
      rw [Option.filter_eq_match]
      exact State.container_updContainer_same _ _ _
    · rw [hwhat]
      rfl
    · rw [hwhat]
      have hfilter : ∀ d : LineState, d.relay.filter (fun e => !(e.number == n)) =
          d.relay.filter (fun e => decide (e.number ≠ n)) := fun d => by
        congr 1
        funext e
        simp [beq_eq_decide]
      simp only [State.acked, hfilter]
  · intro r
    exact ⟨fun hsent => if_pos hsent, fun hsent => if_neg (by simp [r] at hsent ⊢; exact hsent)⟩
  · obtain ⟨hframe, hline, hothers⟩ := clearTurn_same s l
    exact ⟨hframe, hline, hothers, fun hmark => endTurn_unmarked hmark l⟩

end Sys2Proof.Machine
end

section
/-! PROOFS. The advance of district time (R21, R22, R24, R25, R27, R86, R140), and the set of an inlet command (R111). -/

namespace Sys2Proof.Machine

/-! ### The clock stands at every event but the advance's own -/

theorem small_clock (k : Clock) : Small (fun t => t.clock = k) where
  fillOnly := fun _ _ _ _ _ _ h => h
  setStatus := fun s c st n h => by
    obtain ⟨_, _, htouches⟩ := setStatus_touches s c st n
    rw [htouches]
    exact h
  setForced := fun _ _ _ h => h
  setMissed := fun _ _ h => h
  clearMarks := fun _ _ h => h
  station := fun _ _ _ _ h => h
  card := fun _ _ _ _ h => h
  household := fun _ _ _ _ h => h
  round := fun _ _ _ _ h => h
  appendStop := fun _ _ _ _ _ _ h => h
  rounds := fun _ _ _ _ h => h
  planner := fun _ _ _ h => h
  watch := fun _ _ _ h => h
  line := fun s l f _ h => (s.updLine_clock l f).trans h
  journal := fun _ _ h => h
  raise := fun s n a v h => (s.raise_clock n a v).trans h
  toCenter := fun _ _ _ _ h => h
  takeParked := fun _ _ _ _ h => h
  containers := fun _ _ _ _ _ h => h
  container := fun _ _ _ _ _ h => h

theorem acts_clock (k : Clock) : Acts (fun t => t.clock = k) := Acts.of_small (small_clock k)

theorem clock_flush (s : State) : s.flush.clock = s.clock := (acts_clock s.clock).flush rfl

theorem clock_minuteEvent (s : State) : s.minuteEvent.clock = s.clock := (acts_clock s.clock).minuteEvent rfl

theorem clock_rollover (s : State) (old : Nat) : (s.rollover old).clock = s.clock := by
  unfold State.rollover
  split
  · rfl
  · exact s.raise_clock _ _ _

/-! ### CLOCK_ADVANCE (R21, R24, R27) -/

theorem exec_clockAdvance {s : State} (h : s.part.phase = .running) :
    exec .clockAdvance s = .next s.advanceRunning :=
  congrArg Host.Outcome.next (if_pos (by simp [State.running, h]))

theorem clock_advanceRunning (s : State) : s.advanceRunning.clock = s.flush.advanceTime.clock := by
  unfold State.advanceRunning
  dsimp only
  split
  · exact clock_minuteEvent _
  · rfl

theorem clock_takeSetTime (s : State) (t : Time) :
    (s.takeSetTime t).clock = { time := t, set := true, pending := none } :=
  (clock_rollover _ _).trans (State.raise_clock _ _ _ _)

theorem clock_addSecond (s : State) : s.addSecond.clock = { s.clock with time := s.clock.time.next } := by
  unfold State.addSecond
  dsimp only
  split
  · rfl
  · exact clock_rollover _ _

theorem advanceTime_pending {s : State} {t : Time} (h : s.clock.pending = some t) : s.advanceTime = s.takeSetTime t := by
  unfold State.advanceTime
  rw [h]

theorem advanceTime_none {s : State} (h : s.clock.pending = none) : s.advanceTime = s.addSecond := by
  unfold State.advanceTime
  rw [h]

/-- Settles O24: no event but the advance's own touches the clock, and the rest is the definitions' own branches. -/
theorem advanceMovesDistrictTime : Obligations.AdvanceMovesDistrictTime := by
  refine ⟨fun s hphase => ⟨_, exec_clockAdvance hphase, fun t ht => ?_, fun hnone => ?_⟩, fun d sec => ⟨?_, ?_, rfl⟩,
    fun s t => rfl, fun s h => if_pos h, fun s h => if_neg (by omega), fun s => ⟨?_, ?_, ?_⟩⟩
  · rw [clock_advanceRunning, advanceTime_pending ((congrArg Clock.pending (clock_flush s)).trans ht), clock_takeSetTime]
  · rw [clock_advanceRunning, advanceTime_none ((congrArg Clock.pending (clock_flush s)).trans hnone), clock_addSecond,
      clock_flush]
  · exact fun h => if_pos h
  · exact fun h => (if_neg (by simp)).trans (if_pos h)
  · intro hunset
    simp [State.period, hunset]
  · intro hset hday
    simp [State.period, hset, hday]
  · intro hset hday
    simp [State.period, hset, Nat.not_le.mpr hday]

/-! ### A second at which nothing falls due (R25, R89) -/

theorem flushContainer_quiet {s : State} (h : s.nothingDue) (c : Nat) : s.flushContainer c = s := by
  obtain ⟨-, -, hdue⟩ := h
  obtain ⟨hgrant, hservice, hlift, hsettle, hcountdown, hout⟩ := hdue c
  unfold State.flushContainer
  rw [takeIf_not_due hout, takeIf_not_due hcountdown, takeIf_not_due hgrant, takeIf_not_due hservice, takeIf_not_due hlift,
    takeIf_not_due hsettle]

theorem takeHold_quiet {s : State} (h : s.watch.timeoutLeft ≠ some 0) : s.takeHold = s := by
  unfold State.takeHold
  split
  next hleft => exact absurd hleft h
  · rfl

theorem flush_quiet {s : State} (h : s.nothingDue) : s.flush = s := by
  obtain ⟨htodo, hhold, -⟩ := id h
  have hfinish : s.finishTick = s := by
    unfold State.finishTick
    rw [htodo]
  unfold State.flush
  rw [hfinish]
  dsimp only
  rw [List.foldl_fixed' (flushContainer_quiet h), takeHold_quiet hhold]

theorem advanceRunning_quiet {s : State} (h : s.nothingDue) (hnone : s.clock.pending = none) : s.advanceRunning =
    if s.clock.time.next.sec % 60 = 0 then s.addSecond.secondEvent.minuteEvent else s.addSecond.secondEvent := by
  have htime : s.addSecond.secondEvent.clock.time = s.clock.time.next := congrArg Clock.time (clock_addSecond s)
  unfold State.advanceRunning
  rw [flush_quiet h, advanceTime_none hnone]
  dsimp only
  rw [htime]

/-- A second that ends no minute is within its day. -/
theorem Time.within_of_next {t : Time} (h : t.next.sec % 60 ≠ 0) : t.sec < 86399 := by
  by_contra hlast
  unfold Time.next at h
  rw [if_neg hlast] at h
  split at h <;> simp at h

theorem Container.second_blank (held : Bool) : Container.blank.second held = Container.blank := by
  cases held <;> rfl

/-- What a second does to the request, as the statements write it. -/
theorem Container.second_eq (k : Container) (s : State) (i : Nat) :
    (k.second (s.isHeld i)).fill = { k.fill with request :=
        match k.fill.request with
        | .outstanding age => if s.watch.held = some i then .outstanding age else .outstanding (min 60 (age + 1))
        | q => q } := by
  have hheld : s.isHeld i = decide (s.watch.held = some i) := by
    simp [State.isHeld, beq_eq_decide]
  rw [hheld]
  by_cases hi : s.watch.held = some i
  · simp only [Container.second, hi, decide_true, if_true]
    cases hq : k.fill.request <;> simp [← hq]
  · simp only [Container.second, hi, decide_false, if_false, Bool.false_eq_true]
    cases hq : k.fill.request <;> rfl

theorem wf_containers {s : State} (h : s.canonical = true) : s.containers.wf Container.blank = true :=
  ((State.canonical_iff s).mp h).containers

theorem wf_rounds {s : State} (h : s.canonical = true) : s.rounds.wf Round.blank = true :=
  ((State.canonical_iff s).mp h).rounds

/-! ### The stages of a tick that have nothing to do (R140) -/

/-- A round with nothing for the tick: no command, not ACTIVE, not CLOSING, not standing. -/
def State.roundRests (s : State) (r : Nat) : Prop :=
  (s.round r).cfg.standing = false ∧ (s.round r).requested = none ∧ (s.round r).state ≠ .active ∧ (s.round r).state ≠ .closing

/-- The round of a stage. -/
def TickStage.round : TickStage → Nat
  | .command r => r
  | .check r => r
  | .closing r => r
  | .standing r => r

/-- A stage that does not wait, changes nothing and takes no other stage out. -/
def State.stageIdles (s : State) (g : TickStage) : Prop :=
  s.stageWaits g = false ∧ s.runStage g = s ∧ ∀ rest, s.stagesAfter g rest = rest

theorem State.updRound_self {s : State} (hwf : s.rounds.wf Round.blank = true) (r : Nat) {f : Round → Round}
    (h : f (s.round r) = s.round r) : s.updRound r f = s := by
  unfold State.updRound
  rw [h]
  unfold State.round
  rw [Tab.set_get_self hwf]

theorem takeCommand_idle {s : State} {r : Nat} (hwf : s.rounds.wf Round.blank = true) (hnone : (s.round r).requested = none) :
    s.takeCommand r = s := by
  have hupd : s.updRound r (fun d => { d with requested := none }) = s := State.updRound_self hwf r (by rw [← hnone])
  unfold State.takeCommand
  rw [hnone, hupd]

theorem standingDue_idle {s : State} {r : Nat} (h : (s.round r).cfg.standing = false) : s.standingDue r = false := by
  simp [State.standingDue, h]

theorem standing_idles {s : State} {r : Nat} (h : (s.round r).cfg.standing = false) : s.stageIdles (.standing r) :=
  ⟨standingDue_idle h, by simp [State.runStage, State.checkStanding, standingDue_idle h], fun _ => rfl⟩

theorem stage_idles {s : State} (hwf : s.rounds.wf Round.blank = true) {g : TickStage} (h : s.roundRests g.round) :
    s.stageIdles g := by
  cases g with
  | command r =>
    obtain ⟨-, hnone, -, -⟩ := h
    refine ⟨rfl, takeCommand_idle hwf hnone, fun rest => ?_⟩
    simp [State.stagesAfter, State.commandPassesStanding, show (s.round r).requested = none from hnone]
  | check r =>
    obtain ⟨-, -, hactive, -⟩ := h
    have hdue : s.deadlineDue r = false := by simp [State.deadlineDue, show (s.round r).state ≠ .active from hactive]
    refine ⟨hdue, ?_, fun rest => rfl⟩
    simp [State.runStage, State.checkRound, hdue, show (s.round r).state ≠ .active from hactive]
  | closing r =>
    obtain ⟨-, -, -, hclosing⟩ := h
    refine ⟨rfl, ?_, fun rest => rfl⟩
    simp [State.runStage, State.checkClosing, show (s.round r).state ≠ .closing from hclosing]
  | standing r => exact standing_idles h.1

theorem runTick_idle {s : State} (n : Nat) {todo : List TickStage} (h : ∀ g ∈ todo, s.stageIdles g) :
    State.runTick false n todo s = s.endTick := by
  induction n generalizing todo with
  | zero => cases todo <;> rfl
  | succ n ih =>
    cases todo with
    | nil => rfl
    | cons g rest =>
      obtain ⟨hwaits, hrun, hafter⟩ := h g (List.mem_cons_self ..)
      simp only [State.runTick, hwaits, hrun, hafter]
      exact ih (fun g' hg' => h g' (List.mem_cons_of_mem _ hg'))

theorem mem_tickStages {g : TickStage} (h : g ∈ tickStages) : g.round < 4 := by
  have hall : ∀ g ∈ tickStages, g.round < 4 := by decide
  exact hall g h

theorem beginTick_rest {s : State} (hwf : s.rounds.wf Round.blank = true) (h : ∀ r, r < 4 → s.roundRests r) :
    s.beginTick = s.endTick :=
  runTick_idle _ (fun _ hg => stage_idles hwf (h _ (mem_tickStages hg)))

/-! ### The quiet advance -/

theorem addSecond_touches (s : State) : ∃ cs q, s.addSecond =
    { s with clock := { s.clock with time := s.clock.time.next }, classes := cs, link := { s.link with notices := q } } := by
  unfold State.addSecond
  dsimp only
  split
  · exact ⟨_, _, rfl⟩
  · unfold State.rollover
    split
    · exact ⟨_, _, rfl⟩
    · obtain ⟨_, _, hraise⟩ := raise_touches { s with clock := { s.clock with time := s.clock.time.next } } .periodRollover
        (some (State.period { s with clock := { s.clock with time := s.clock.time.next } })) s.period
      exact ⟨_, _, hraise⟩

theorem noticeClass_addSecond (s : State) {n : Nat} (hn : n ≠ 6) : s.addSecond.noticeClass n = s.noticeClass n := by
  unfold State.addSecond
  dsimp only
  split
  · rfl
  · unfold State.rollover
    split
    · rfl
    · exact noticeClass_raise _ .periodRollover _ _ n hn

theorem Container.minute_of_present {k : Container} (h : k.cfg.present = true) :
    k.minute = { k with fill := { k.fill with countdown := countDown k.fill.countdown } } := if_pos h

theorem Container.minute_of_absent {k : Container} (h : k.cfg.present = false) : k.minute = k :=
  if_neg (by simp [h])

/-- A minute off the sample countdown of every present container (R86). -/
def State.countMinute (s : State) : State :=
  { s with containers := Tab.map Container.blank (fun _ k => k.minute) s.containers }

theorem minuteEvent_eq (s : State) : s.minuteEvent = s.countMinute.beginTick := rfl

/-- Settles O25: with nothing due the advance is the second's map, and onto a minute the countdowns' map and an empty tick. -/
theorem aQuietSecondOnlyCounts : Obligations.AQuietSecondOnlyCounts := by
  refine ⟨fun s hphase hcan hquiet hnone hsec => ?_, fun s hphase hcan hquiet hnone hsec hrounds => ?_⟩
  · have hadd : s.addSecond = { s with clock := { s.clock with time := s.clock.time.next } } :=
      if_pos (Time.within_of_next hsec)
    refine ⟨s.addSecond.secondEvent, ?_, ?_, ?_, ?_, fun c => ?_⟩
    · rw [exec_clockAdvance hphase, advanceRunning_quiet hquiet hnone, if_neg hsec]
    · rw [hadd]
      rfl
    · rw [hadd]
      rfl
    · rw [hadd]
      rfl
    · have hsecond : s.addSecond.secondEvent.container c = (s.container c).second (s.isHeld (stationOf c)) := by
        rw [hadd]
        exact Tab.get_map (Container.second_blank _) (wf_containers hcan)
      rw [hsecond]
      exact ⟨rfl, rfl, rfl, Container.second_eq (s.container c) s (stationOf c), rfl⟩
  · obtain ⟨cs, q, hadd⟩ := addSecond_touches s
    have hwf : s.addSecond.secondEvent.countMinute.rounds.wf Round.blank = true := by
      have hrounds := wf_rounds hcan
      rw [hadd]
      exact hrounds
    have hrest : ∀ r, r < 4 → s.addSecond.secondEvent.countMinute.roundRests r := by
      rw [hadd]
      exact hrounds
    refine ⟨s.addSecond.secondEvent.minuteEvent, ?_, ?_⟩
    · rw [exec_clockAdvance hphase, advanceRunning_quiet hquiet hnone, if_pos hsec]
    · have hclasses := fun n (hn : n ≠ 6) => noticeClass_addSecond s hn
      have hday : s.clock.time.sec < 86399 → s.addSecond.classes = s.classes ∧ s.addSecond.link = s.link := fun h => by
        rw [show s.addSecond = _ from if_pos h]
        exact ⟨rfl, rfl⟩
      rw [minuteEvent_eq, beginTick_rest hwf hrest]
      refine ⟨?_, ?_, ?_, hclasses, hday, ?_, fun c => ?_⟩
      · rw [hadd]
        rfl
      · rw [hadd]
        rfl
      · rw [hadd]
        obtain ⟨htodo, -, -⟩ := hquiet
        show ({ s.planner with prevTick := s.clock.time.next, tickTodo := [] } : Planner) = _
        rw [← htodo]
      · rw [hadd]
        rfl
      · have hminute : s.addSecond.secondEvent.countMinute.endTick.container c =
              ((s.container c).second (s.isHeld (stationOf c))).minute := by
          rw [hadd]
          exact (Tab.get_map rfl (Tab.wf_map (wf_containers hcan))).trans
            (congrArg Container.minute (Tab.get_map (Container.second_blank _) (wf_containers hcan)))
        rw [hminute]
        have hfill := Container.second_eq (s.container c) s (stationOf c)
        by_cases hpresent : (s.container c).cfg.present = true
        · rw [Container.minute_of_present (k := (s.container c).second _) hpresent]
          refine ⟨rfl, rfl, rfl, ?_, rfl⟩
          dsimp only
          rw [hfill, if_pos hpresent]
          rfl
        · have habsent : (s.container c).cfg.present = false := by simpa using hpresent
          rw [Container.minute_of_absent (k := (s.container c).second _) habsent]
          refine ⟨rfl, rfl, rfl, ?_, rfl⟩
          dsimp only
          rw [hfill, if_neg hpresent] <;> rfl

/-! ### The set of an inlet command (R17, R111) -/

theorem setCommand_touches (s : State) (c : Nat) (a : InletAction) (w : Nat) (code : DisplayCode) (v : Nat) :
    ∃ ks x y, s.setCommand c a w code v = { s with containers := ks, lineA := x, lineB := y } := by
  obtain ⟨_, _, hturn⟩ := requestTurn_touches (s.updInlet c (fun n =>
    { n with command := some { action := a, window := w, code := code, value := v, sent := false } })) (stationOf c)
  exact ⟨_, _, _, hturn⟩

/-- What the set of a command leaves: the frame, the container and the turn asked for. -/
theorem setCommand_sets (s : State) (c : Nat) (a : InletAction) (w : Nat) (code : DisplayCode) (v : Nat) :
    { s.setCommand c a w code v with containers := s.containers, lineA := s.lineA, lineB := s.lineB } = s ∧
      (∀ d, d ≠ c → (s.setCommand c a w code v).container d = s.container d) ∧
      (s.setCommand c a w code v).container c = { s.container c with inlet := { (s.container c).inlet with
        command := some { action := a, window := w, code := code, value := v, sent := false } } } ∧
      s.turnAsked (s.setCommand c a w code v) c := by
  refine ⟨?_, fun d hd => ?_, ?_, ?_⟩
  · obtain ⟨_, _, _, htouches⟩ := setCommand_touches s c a w code v
    rw [htouches]
  · rw [container_setCommand, if_neg hd]
  · rw [container_setCommand, if_pos rfl]
  · exact turnAsked_congr (turnAsked_requestTurn (s.updInlet c _) c) rfl (fun _ => rfl) (fun _ => rfl)

theorem show_of_locks {s : State} {c : Nat} {cmd : InletCommand} (h : (s.container c).inlet.command = some cmd)
    (hlocks : cmd.action ≠ .showCode) (code : DisplayCode) (value : Nat) : s.show c code value = s := by
  unfold State.show
  rw [h]
  exact if_neg hlocks

theorem show_of_free {s : State} {c : Nat} (h : (s.container c).inlet.command = none ∨
      (∃ cmd, (s.container c).inlet.command = some cmd ∧ cmd.action = .showCode)) (code : DisplayCode) (value : Nat) :
    s.show c code value = s.setCommand c .showCode 0 code value := by
  unfold State.show
  obtain hnone | ⟨cmd, hsome, hshow⟩ := h
  · rw [hnone]
  · rw [hsome]
    exact if_pos hshow

/-- Settles O31: by the pending command, and by the one set that stands behind every command. -/
theorem showNeverReplacesALockCommand : Obligations.ShowNeverReplacesALockCommand := by
  refine ⟨fun s c code value => ⟨fun cmd h hlocks => show_of_locks h hlocks code value, fun hfree => ?_⟩,
    fun s c action window code value => setCommand_sets s c action window code value⟩
  obtain ⟨hframe, hothers, hcommand, hlines, hline⟩ := setCommand_sets s c .showCode 0 code value
  rw [show_of_free hfree]
  exact ⟨hframe, hothers, hcommand, hlines, hline⟩

end Sys2Proof.Machine
end

section
/-! PROOFS. The crew's timers (R154, R159, R161): how the work that a timer ends is taken back, and the rest of the inlet. -/

namespace Sys2Proof.Machine

/-! ### Work that ends without a tip -/

section
variable {s : State} {c : Nat} {v : Service}

theorem endWork_untipped (hv : (s.container c).inlet.service = some v) :
    s.endWork c .untipped = (s.liftReturned c v).updInlet c (fun n => { n with service := none }) :=
  endWork_form s c v .untipped hv

theorem container_endWork (hv : (s.container c).inlet.service = some v) :
    (∀ d, d ≠ c → (s.endWork c .untipped).container d = s.container d) ∧
      (s.endWork c .untipped).container c = { s.container c with
        inlet := { (s.container c).inlet with service := none }
        missed := ((s.returnStop c v.place .untipped).container c).missed } := by
  obtain ⟨others, m, hmissed⟩ := container_returnStop s c v.place .untipped
  have hsame : ∀ d, (s.liftReturned c v).container d = (s.returnStop c v.place .untipped).container d := fun _ => rfl
  rw [endWork_untipped hv]
  refine ⟨fun d hd => ?_, ?_⟩
  · rw [State.container_updInlet, if_neg hd, hsame, others d hd]
  · rw [State.container_updInlet, if_pos rfl, hsame, hmissed]

theorem endWork_touches (hv : (s.container c).inlet.service = some v) :
    ∃ ks rs p cs q, s.endWork c .untipped =
      { s with containers := ks, rounds := rs, planner := p, classes := cs, link := { s.link with notices := q }
               journal := { s.journal with reserved := s.journal.reserved - (if v.reserved then 1 else 0) } } := by
  obtain ⟨_, _, _, _, _, hstop⟩ := returnStop_touches s c v.place .untipped
  rw [endWork_untipped hv, State.liftReturned, hstop]
  exact ⟨_, _, _, _, _, rfl⟩

/-- The stop is given back, whatever the container's own records become. -/
theorem stopReturned_of_endWork {t : State} (hv : (s.container c).inlet.service = some v)
    (hrounds : t.rounds = (s.endWork c .untipped).rounds)
    (hmissed : (t.container c).missed = ((s.endWork c .untipped).container c).missed)
    (hclasses : t.classes = (s.endWork c .untipped).classes) : s.stopReturned t c v := by
  refine stopReturned_congr (stopReturned_returnStop s c v) rfl rfl rfl ?_ ?_ ?_
  · rw [hrounds, endWork_untipped hv]
    rfl
  · rw [hmissed, (container_endWork hv).2]
  · refine State.noticeClass_congr ?_ 18
    rw [hclasses, endWork_untipped hv]
    rfl

theorem noticeClass_endWork (hv : (s.container c).inlet.service = some v) {n : Nat} (hn : n ≠ 18) :
    (s.endWork c .untipped).noticeClass n = s.noticeClass n := by
  rw [endWork_untipped hv]
  exact noticeClass_returnStop s c v.place .untipped n hn

end

theorem makeUnknown_touches (s : State) (c : Nat) :
    ∃ ks p, s.makeUnknown c = { s with containers := ks, planner := p } := by
  obtain ⟨_, _, hstatus⟩ := setStatus_touches
    (s.updFill c (fun f => { f with estimate := none, risePending := false })) c .unknown 0
  rw [makeUnknown_form, hstatus]
  obtain ⟨_, hdue⟩ := requestDue_touches _ c
  rw [hdue]
  exact ⟨_, _, rfl⟩

/-- The state of an inlet at rest (R109). -/
def Inlet.restState (n : Inlet) : InletState := if n.bars = BarSet.empty then .locked else .barred

theorem container_toRest (s : State) (c d : Nat) : (s.toRest c).container d =
    if d = c then { s.container c with
      inlet := { (s.container c).inlet with
        state := if (s.container c).inlet.bars = BarSet.empty then .locked else .barred }
      fill := { (s.container c).fill with
        request := (s.container c).fill.request.report (s.container c).inlet.state (s.container c).inlet.restState } }
    else s.container d := container_setInlet s c d _

theorem toRest_touches (s : State) (c : Nat) : ∃ ks, s.toRest c = { s with containers := ks } := ⟨_, rfl⟩

/-! ### The three expiries -/

/-- A lift that its limit ends: work taken back, LIFT_OPEN, BARRED, LOCK CLOSED, E unknown (R159). -/
def State.liftBarred (s : State) (c : Nat) : State :=
  ((((s.endWork c .untipped).putBar c .liftOpen true).setInlet c .barred).lockClosed c).makeUnknown c

theorem liftExpired_eq (s : State) (c : Nat) : s.liftExpired c = (s.raise .liftTimeout (some c) 0).liftBarred c := rfl

theorem liftBarred_touches (s : State) (c : Nat) : ∃ ks p a b, s.liftBarred c =
    { s.endWork c .untipped with containers := ks, planner := p, lineA := a, lineB := b } := by
  obtain ⟨_, _, _, hclosed⟩ := lockClosed_touches (((s.endWork c .untipped).putBar c .liftOpen true).setInlet c .barred) c
  unfold State.liftBarred
  obtain ⟨_, _, hunknown⟩ := makeUnknown_touches _ c
  rw [hunknown, hclosed]
  exact ⟨_, _, _, _, rfl⟩

theorem turnAsked_liftBarred {s : State} {c : Nat} {v : Service} (hv : (s.container c).inlet.service = some v) :
    s.turnAsked (s.liftBarred c) c := by
  obtain ⟨_, _, _, _, _, hwork⟩ := endWork_touches hv
  unfold State.liftBarred
  obtain ⟨_, _, hunknown⟩ := makeUnknown_touches
    ((((s.endWork c .untipped).putBar c .liftOpen true).setInlet c .barred).lockClosed c) c
  rw [hunknown]
  refine turnAsked_congr (turnAsked_lockClosed (((s.endWork c .untipped).putBar c .liftOpen true).setInlet c .barred) c) ?_
    (fun l => ?_) (fun l => by cases l <;> rfl)
  · show s.stations = (s.endWork c .untipped).stations
    rw [hwork]
  · show s.line l = (s.endWork c .untipped).line l
    rw [hwork]
    cases l <;> rfl

theorem stopReturned_liftBarred {s : State} {c : Nat} {v : Service} (hv : (s.container c).inlet.service = some v)
    (hmissed : ((s.liftBarred c).container c).missed = ((s.endWork c .untipped).container c).missed) :
    s.stopReturned (s.liftBarred c) c v := by
  obtain ⟨_, _, _, _, htouches⟩ := liftBarred_touches s c
  exact stopReturned_of_endWork hv (by rw [htouches]) hmissed (by rw [htouches])

theorem exec_expiry {s : State} (hphase : s.part.phase = .running) {c : Nat} {due : Container → Bool}
    (hdue : due (s.container c) = true) (f : State → Nat → State) :
    (Host.Outcome.next (if s.running then s.takeIf c due f else s) : Host.Outcome State Fault Refusal) =
      .next (f s c) := by
  have hrunning : s.running = true := by simp [State.running, hphase]
  rw [if_pos hrunning, State.takeIf, if_pos hdue]

section
variable {s : State} {c : Nat} {v : Service} (hv : (s.container c).inlet.service = some v)
include hv

theorem container_serviceExpired :
    (∀ d, d ≠ c → (s.serviceExpired c).container d = s.container d) ∧
      ∃ request, (s.serviceExpired c).container c = { s.container c with
        inlet := { (s.container c).inlet with
          service := none, state := if (s.container c).inlet.bars = BarSet.empty then .locked else .barred
          command := some InletCommand.closed }
        fill := { (s.container c).fill with request := request }
        missed := ((s.endWork c .untipped).container c).missed } := by
  obtain ⟨hothers, hsame⟩ := container_endWork hv
  unfold State.serviceExpired
  refine ⟨fun d hd => ?_, ?_⟩
  · rw [container_lockClosed, if_neg hd, container_toRest, if_neg hd, hothers d hd]
  · rw [container_lockClosed, if_pos rfl, container_toRest, if_pos rfl, hsame]
    exact ⟨_, rfl⟩

theorem container_liftBarred (hlifting : (s.container c).inlet.state = .lifting) :
    let k := s.container c
    let u := s.liftBarred c
    (∀ d, d ≠ c → u.container d = s.container d) ∧
      u.container c = { k with
        inlet := { k.inlet with
          service := none, state := .barred, bars := { k.inlet.bars with liftOpen := true }
          command := some InletCommand.closed }
        fill := { k.fill with
          estimate := none, risePending := false, status := .unknown, fullCount := 0
          request := if k.live = true ∧ k.fill.request = .idle then .pending else k.fill.request }
        missed := ((s.endWork c .untipped).container c).missed } := by
  obtain ⟨hothers, hsame⟩ := container_endWork hv
  dsimp only
  unfold State.liftBarred
  refine ⟨fun d hd => ?_, ?_⟩
  · rw [container_makeUnknown, if_neg hd, container_lockClosed, if_neg hd, container_setInlet, if_neg hd, container_putBar,
      if_neg hd, hothers d hd]
  · have hreport : ∀ q : SampleRequest, q.report .lifting .barred = q := fun q => report_same_kind q rfl rfl
    have hdue : ∀ q : SampleRequest, q.due .barred = if q = .idle then .pending else q := fun q => by
      cases q <;> rfl
    rw [container_makeUnknown, if_pos rfl, container_lockClosed, if_pos rfl, container_setInlet, if_pos rfl, container_putBar,
      if_pos rfl, hsame]
    simp only [hlifting, hreport, hdue, Container.live, BarSet.put]
    split_ifs <;> simp_all

end

theorem live_iff (k : Container) : k.live = true ↔ k.cfg.present = true ∧ k.fill.sensor ≠ .failed := by
  simp [Container.live]

theorem settled_container (s : State) (c d : Nat) : (s.settled c).container d =
    if d = c then { s.container c with
      inlet := { (s.container c).inlet with
        settleLeft := none, state := if (s.container c).inlet.bars = BarSet.empty then .locked else .barred }
      fill := { (s.container c).fill with
        request := (s.container c).fill.request.report (s.container c).inlet.state (s.container c).inlet.restState } }
    else s.container d := by
  unfold State.settled
  rw [container_toRest]
  by_cases hd : d = c
  · simp [hd, State.container_updInlet, Inlet.restState]
  · simp [hd, State.container_updInlet]

/-- Settles O44: the work is taken back first; what each expiry then writes at its container stands alone. -/
theorem crewTimersExpire : Obligations.CrewTimersExpire := by
  refine ⟨fun s c v hphase hv hdue => ?_, fun s c v hphase hlifting hv hdue => ?_, fun s c hphase hsettling hdue => ?_⟩
  · have hserviceDue : (s.container c).serviceDue = true := by simp [Container.serviceDue, hv, hdue]
    obtain ⟨hothers, request, hcontainer⟩ := container_serviceExpired hv
    obtain ⟨_, _, _, _, _, hwork⟩ := endWork_touches hv
    obtain ⟨_, hrest⟩ := toRest_touches (s.endWork c .untipped) c
    obtain ⟨_, _, _, hclosed⟩ := lockClosed_touches ((s.endWork c .untipped).toRest c) c
    refine ⟨s.serviceExpired c, exec_expiry hphase hserviceDue State.serviceExpired, ?_, ?_, ?_, ?_, ?_, hothers, ?_, ?_, ?_, ?_⟩
    · rw [hcontainer]
      rfl
    · rw [hcontainer]
    · rw [hcontainer]
    · rw [hcontainer]
    · rw [hcontainer]
    · rw [State.serviceExpired, hclosed, hrest, hwork]
    · refine stopReturned_of_endWork hv ?_ (by rw [hcontainer]) ?_
      · rw [State.serviceExpired, hclosed, hrest]
      · rw [State.serviceExpired, hclosed, hrest]
    · rw [State.serviceExpired, hclosed, hrest, hwork]
    · refine turnAsked_congr (turnAsked_lockClosed ((s.endWork c .untipped).toRest c) c) ?_ (fun l => ?_) (fun _ => rfl)
      · rw [hrest, hwork]
      · rw [hrest, hwork]
        cases l <;> rfl
  · have hliftDue : (s.container c).liftDue = true := by simp [Container.liftDue, hv, hdue]
    have hraised : ∀ d, (s.raise .liftTimeout (some c) 0).container d = s.container d := s.container_raise _ _ _
    have hv' : ((s.raise .liftTimeout (some c) 0).container c).inlet.service = some v := by rw [hraised]; exact hv
    have hlifting' : ((s.raise .liftTimeout (some c) 0).container c).inlet.state = .lifting := by
      rw [hraised]; exact hlifting
    obtain ⟨hothers, hcontainer⟩ := container_liftBarred hv' hlifting'
    obtain ⟨_, _, hraise⟩ := raise_touches s .liftTimeout (some c) 0
    obtain ⟨_, _, _, _, _, hwork⟩ := endWork_touches hv'
    obtain ⟨_, _, _, _, htouches⟩ := liftBarred_touches (s.raise .liftTimeout (some c) 0) c
    have hstop := stopReturned_liftBarred hv' (by rw [hcontainer])
    have hturn := turnAsked_liftBarred hv'
    have hclass : (s.liftExpired c).noticeClass 16 = (s.raise .liftTimeout (some c) 0).noticeClass 16 := by
      rw [← noticeClass_endWork hv' (by decide : 16 ≠ 18)]
      exact State.noticeClass_congr (by rw [liftExpired_eq, htouches]) 16
    obtain ⟨hflag, hlast⟩ := told_raise s .liftTimeout (some c) 0
    rw [← liftExpired_eq] at hothers hcontainer hstop hturn
    simp only [hraised] at hcontainer
    refine ⟨s.liftExpired c, exec_expiry hphase hliftDue State.liftExpired, ?_, ?_, ?_, ?_, ?_, ?_, ?_, ?_, ?_, ?_, ?_⟩
    · rw [hcontainer]
      rfl
    · rw [hcontainer]
      simp only [live_iff, and_assoc]
    · rw [hcontainer]
    · rw [hcontainer]
    · intro d hd
      rw [hothers d hd, hraised]
    · rw [hclass]
      exact hflag
    · rw [hclass]
      exact hlast
    · rw [liftExpired_eq, htouches, hwork, hraise]
    · exact stopReturned_congr hstop (by rw [hraise]) (by rw [hraised])
        (noticeClass_raise s .liftTimeout (some c) 0 18 (by decide)).symm rfl rfl rfl
    · rw [liftExpired_eq, htouches, hwork, hraise]
    · refine turnAsked_congr hturn (by rw [hraise]) (fun l => ?_) (fun _ => rfl)
      rw [hraise]
      cases l <;> rfl
  · have hsettleDue : (s.container c).settleDue = true := by simp [Container.settleDue, hdue]
    refine ⟨s.settled c, exec_expiry hphase hsettleDue State.settled, rfl, fun d hd => ?_, ?_⟩
    · rw [settled_container, if_neg hd]
    · rw [settled_container, if_pos rfl, hsettling]
      have hreport : ∀ (q : SampleRequest) (st : InletState), st.defers = false →
          q.report .settling st = if q = .deferred then .pending else q := fun q st hst => by
        cases q <;> simp [SampleRequest.report, hst] <;> rfl
      rw [hreport _ _ (by unfold Inlet.restState; split <;> rfl)]

end Sys2Proof.Machine
end

section
/-! PROOFS. Samples (R70 to R80, R86, R89, R102, R103): the request that a sample or an expiry answers, an invalid sample, a
stuck one, and a valid one fused. -/

namespace Sys2Proof.Machine

/-! ### The parts of a sample's effect -/

theorem raiseIf_touches (s : State) (n : Option Notice) (subject : Option Nat) (value : Nat) :
    ∃ cs q, s.raiseIf n subject value = { s with classes := cs, link := { s.link with notices := q } } := by
  cases n with
  | none => exact ⟨_, _, rfl⟩
  | some n => exact raise_touches s n subject value

theorem evaluate_touches (s : State) (c : Nat) : ∃ ks p cs q, s.evaluate c =
    { s with containers := ks, planner := p, classes := cs, link := { s.link with notices := q } } := by
  unfold State.evaluate
  dsimp only
  split
  · obtain ⟨_, _, hstatus⟩ := setStatus_touches s c .unknown 0
    rw [hstatus]
    exact ⟨_, _, _, _, rfl⟩
  · rename_i e _
    obtain ⟨_, _, hraise⟩ := raiseIf_touches (s.setStatus c
      (evaluated (s.container c).fill.status (s.container c).fill.fullCount ((s.container c).cfg.perMille e)
        (s.container c).cfg.alertLevel (s.container c).cfg.fullLevel (s.container c).cfg.confirmCount).1 _)
      (fillNotice (s.container c).fill.status _) (some c) ((s.container c).cfg.perMille e)
    obtain ⟨_, _, hstatus⟩ := setStatus_touches s c
      (evaluated (s.container c).fill.status (s.container c).fill.fullCount ((s.container c).cfg.perMille e)
        (s.container c).cfg.alertLevel (s.container c).cfg.fullLevel (s.container c).cfg.confirmCount).1
      (evaluated (s.container c).fill.status (s.container c).fill.fullCount ((s.container c).cfg.perMille e)
        (s.container c).cfg.alertLevel (s.container c).cfg.fullLevel (s.container c).cfg.confirmCount).2
    rw [hraise, hstatus]
    exact ⟨_, _, _, _, rfl⟩

/-- A container whose sample request is put into a state. -/
def State.setRequest (s : State) (c : Nat) (q : SampleRequest) : State := s.updFill c (fun f => { f with request := q })

theorem answered_eq (q : SampleRequest) (k : Container) :
    q.answered k.cfg.present k.fill.sensor k.inlet.state = (match q with
      | .outstanding _ => if k.live && k.inlet.waits then .deferred else .idle
      | q => q) := by
  have hlive : k.live = (k.cfg.present && decide (k.fill.sensor ≠ .failed)) := by
    unfold Container.live
    cases k.fill.sensor <;> rfl
  rw [hlive, ← Inlet.defers_eq_waits]
  cases q <;> rfl

theorem container_setRequest (s : State) (c d : Nat) (q : SampleRequest) : (s.setRequest c q).container d =
    if d = c then { s.container c with fill := { (s.container c).fill with request := q } } else s.container d :=
  State.container_updFill s c d _

section
variable (s : State) (c : Nat) (q : SampleRequest)

/-- An invalid sample counted, after the request has been dealt with (R102). -/
theorem invalidSample_counts :
    let k := s.container c
    let u := (s.setRequest c q).invalidSample c
    let streak := min 255 (k.fill.streak + 1)
    let degrades := k.fill.sensor = .good ∧ s.params.invalidLimit ≤ streak
    (∃ ks cs n, u = { s with containers := ks, classes := cs, link := { s.link with notices := n } }) ∧
      (∀ d, d ≠ c → u.container d = s.container d) ∧
      u.container c = { k with fill := { k.fill with
        request := q, streak := streak, sensor := if degrades then .degraded else k.fill.sensor } } ∧
      (degrades → u.told 12 (some c) streak) ∧
      (¬degrades → ∃ ks, u = { s with containers := ks }) := by
  intro k u streak degrades
  have hk : (s.setRequest c q).container c = { k with fill := { k.fill with request := q } } := by
    rw [container_setRequest, if_pos rfl]
  have hu : u = if degrades then
      ((s.setRequest c q).updFill c (fun f => { f with streak := streak, sensor := .degraded })).raise .sensorDegraded
        (some c) streak
    else (s.setRequest c q).updFill c (fun f => { f with streak := streak }) := by
    show State.invalidSample _ c = _
    unfold State.invalidSample
    rw [hk]
    rfl
  clear_value u streak
  subst hu
  by_cases hdegrades : degrades
  · obtain ⟨_, _, hraise⟩ := raise_touches
      ((s.setRequest c q).updFill c (fun f => { f with streak := streak, sensor := .degraded })) .sensorDegraded (some c) streak
    simp only [if_pos hdegrades]
    refine ⟨?_, fun d hd => ?_, ?_, fun _ => told_raise _ _ _ _, fun h => absurd hdegrades h⟩
    · rw [hraise]
      exact ⟨_, _, _, rfl⟩
    · rw [State.container_raise, State.container_updFill, if_neg hd, container_setRequest, if_neg hd]
    · rw [State.container_raise, State.container_updFill, if_pos rfl, hk]
  · simp only [if_neg hdegrades]
    refine ⟨⟨_, _, _, rfl⟩, fun d hd => ?_, ?_, fun h => absurd h hdegrades, fun _ => ⟨_, rfl⟩⟩
    · rw [State.container_updFill, if_neg hd, container_setRequest, if_neg hd]
    · rw [State.container_updFill, if_pos rfl, hk]

end

/-! ### The two sample expiries (R86, R89) -/

theorem container_countdownExpired (s : State) (c d : Nat) : (s.countdownExpired c).container d =
    if d = c then { s.container c with fill := { (s.container c).fill with
      request := if (s.container c).live = true ∧ (s.container c).fill.request = .idle then
          (if (s.container c).inlet.waits then .deferred else .pending)
        else (s.container c).fill.request
      countdown := some (s.container c).cfg.sampleInterval } }
    else s.container d := by
  unfold State.countdownExpired
  rw [State.container_updFill, container_requestDue, container_requestDue]
  by_cases hd : d = c
  · subst hd
    by_cases hlive : (s.container d).live = true <;> simp [hlive, due_eq]
  · simp [hd]

theorem countdownExpired_touches (s : State) (c : Nat) : ∃ ks, s.countdownExpired c = { s with containers := ks } := by
  unfold State.countdownExpired
  obtain ⟨_, hdue⟩ := requestDue_touches s c
  rw [hdue]
  exact ⟨_, rfl⟩

theorem outstandingExpired_eq (s : State) (c : Nat) : s.outstandingExpired c =
    if (s.container c).live && !(s.container c).inlet.waits then
      (s.setRequest c ((s.container c).fill.request.answered (s.container c).cfg.present (s.container c).fill.sensor
        (s.container c).inlet.state)).invalidSample c
    else s.setRequest c ((s.container c).fill.request.answered (s.container c).cfg.present (s.container c).fill.sensor
      (s.container c).inlet.state) := by
  have hlive : (s.container c).live = ((s.container c).cfg.present && decide ((s.container c).fill.sensor ≠ .failed)) := by
    unfold Container.live
    cases (s.container c).fill.sensor <;> rfl
  rw [hlive, ← Inlet.defers_eq_waits]
  rfl

theorem waits_iff (n : Inlet) : n.waits = true ↔ n.state = .opened ∨ n.state = .settling := by
  simp [Inlet.waits]

/-! ### A valid sample (R71, R75 to R80, R103) -/

theorem stuckTest_iff (f : Fill) (tof : Nat) : f.stuckTest tof = true ↔ f.lastTof = some tof ∧ 2 ≤ f.deposits := by
  simp [Fill.stuckTest]

theorem withdrawn_eq (q : SampleRequest) : q.withdrawn = if q = .deferred ∨ q = .pending then .idle else q := by
  cases q <;> simp [SampleRequest.withdrawn]

/-- The evidence of the stuck test after a valid sample (R103). -/
def Fill.evidence (f : Fill) (tof : Nat) : Nat := if f.lastTof = some tof ∧ 2 ≤ f.deposits then f.stuck + 1 else 0

theorem validSample_eq (s : State) (c tof : Nat) (temperature : Int) : s.validSample c tof temperature =
    if 3 ≤ (s.container c).fill.evidence tof then
      (s.updFill c (fun f => { f with stuck := 3, sensor := .failed, request := f.request.withdrawn })).raise .sensorFailed
        (some c) 3
    else (s.updFill c (fun f =>
      { f with stuck := (s.container c).fill.evidence tof, streak := 0, sensor := .good })).fuseSample c tof temperature := by
  have hevidence : (s.container c).fill.evidence tof =
      if (s.container c).fill.stuckTest tof then (s.container c).fill.stuck + 1 else 0 := by
    simp only [Fill.evidence, stuckTest_iff]
  rw [hevidence]
  rfl

/-- The notice of a post-lift sample over the residue limit (R76). -/
def Container.residueNotice (k : Container) (m : Measured) : Option Notice :=
  if k.fill.postLift = true ∧ k.cfg.residueLimit < m.perMille then some .liftResidue else none

/-- A fused sample before its evaluation (R75 to R80). -/
def State.sampleFused (s : State) (c tof : Nat) (m : Measured) : State :=
  ((s.updFill c (fun f => { f with
      estimate := some (fuse (s.container c).cfg (s.container c).fill m).1
      risePending := (fuse (s.container c).cfg (s.container c).fill m).2, postLift := false })).raiseIf
    ((s.container c).residueNotice m) (some c) m.perMille).updFill c (fun f => { f with
      lastTof := some tof, deposits := 0, countdown := some (s.container c).cfg.sampleInterval })

theorem container_raiseIf (s : State) (n : Option Notice) (subject : Option Nat) (value d : Nat) :
    (s.raiseIf n subject value).container d = s.container d := by
  cases n with
  | none => rfl
  | some n => exact State.container_raise s n subject value d

theorem fuseSample_eq (s : State) (c tof : Nat) (temperature : Int) : s.fuseSample c tof temperature =
    (s.sampleFused c tof (measure (s.container c).cfg (s.shape (s.container c).cfg.shape) tof temperature)).evaluate c := by
  unfold State.fuseSample State.sampleFused Container.residueNotice
  dsimp only
  split <;> rfl

section
variable (s : State) (c tof : Nat) (m : Measured)

theorem container_sampleFused (d : Nat) : (s.sampleFused c tof m).container d =
    if d = c then { s.container c with fill := { (s.container c).fill with
      estimate := some (fuse (s.container c).cfg (s.container c).fill m).1
      risePending := (fuse (s.container c).cfg (s.container c).fill m).2, postLift := false, lastTof := some tof
      deposits := 0, countdown := some (s.container c).cfg.sampleInterval } }
    else s.container d := by
  unfold State.sampleFused
  rw [State.container_updFill, container_raiseIf, container_raiseIf, State.container_updFill, State.container_updFill]
  by_cases hd : d = c <;> simp [hd]

theorem sampleFused_touches : ∃ ks cs q, s.sampleFused c tof m =
    { s with containers := ks, classes := cs, link := { s.link with notices := q } } := by
  unfold State.sampleFused
  obtain ⟨_, _, hraise⟩ := raiseIf_touches (s.updFill c (fun f => { f with
    estimate := some (fuse (s.container c).cfg (s.container c).fill m).1
    risePending := (fuse (s.container c).cfg (s.container c).fill m).2, postLift := false }))
    ((s.container c).residueNotice m) (some c) m.perMille
  rw [hraise]
  exact ⟨_, _, _, rfl⟩

theorem noticeClass_sampleFused {n : Nat} (hn : n ≠ 14 ∨ (s.container c).residueNotice m = none) :
    (s.sampleFused c tof m).noticeClass n = s.noticeClass n := by
  show (State.raiseIf _ ((s.container c).residueNotice m) (some c) m.perMille).noticeClass n = _
  by_cases hresidue : (s.container c).fill.postLift = true ∧ (s.container c).cfg.residueLimit < m.perMille
  · rw [show (s.container c).residueNotice m = some .liftResidue from if_pos hresidue] at hn ⊢
    exact noticeClass_raise _ .liftResidue (some c) m.perMille n (hn.resolve_right (by simp))
  · rw [show (s.container c).residueNotice m = none from if_neg hresidue]
    rfl

theorem told_sampleFused (hpost : (s.container c).fill.postLift = true)
    (hover : (s.container c).cfg.residueLimit < m.perMille) : (s.sampleFused c tof m).told 14 (some c) m.perMille := by
  show (State.raiseIf _ ((s.container c).residueNotice m) (some c) m.perMille).told 14 (some c) m.perMille
  rw [show (s.container c).residueNotice m = some .liftResidue from if_pos ⟨hpost, hover⟩]
  exact told_raise _ .liftResidue (some c) m.perMille

end

/-- A sample that goes through to fusion (R75 to R80): the record, the notices, and nothing else. -/
theorem fuseSample_fuses (s : State) (c tof : Nat) (temperature : Int) :
    let k := s.container c
    let u := s.fuseSample c tof temperature
    let m := measure k.cfg (s.shape k.cfg.shape) tof temperature
    let E := (fuse k.cfg k.fill m).1
    let F := E * 1000 / k.cfg.capacity
    let r := evaluated k.fill.status k.fill.fullCount F k.cfg.alertLevel k.cfg.fullLevel k.cfg.confirmCount
    (∃ ks p cs n, u = { s with containers := ks, planner := p, classes := cs, link := { s.link with notices := n } }) ∧
      (∀ d, d ≠ c → u.container d = s.container d) ∧
      u.container c = { k with fill := { k.fill with
        estimate := some E, risePending := (fuse k.cfg k.fill m).2, postLift := false, lastTof := some tof, deposits := 0
        countdown := some k.cfg.sampleInterval, status := r.1, fullCount := r.2 } } ∧
      (k.fill.postLift = true → k.cfg.residueLimit < m.perMille → u.told 14 (some c) m.perMille) ∧
      (k.fill.postLift = false ∨ m.perMille ≤ k.cfg.residueLimit → u.noticeClass 14 = s.noticeClass 14) ∧
      s.fillReported u c k.fill.status r.1 F := by
  intro k u m E F r
  have hu : u = (s.sampleFused c tof m).evaluate c := fuseSample_eq s c tof temperature
  have hfused := container_sampleFused s c tof m c
  rw [if_pos rfl] at hfused
  obtain ⟨hcontainer, hothers, hnotices, hreported⟩ := evaluate_reports (s.sampleFused c tof m) c E (by rw [hfused])
  simp only [hfused] at hcontainer hreported
  rw [hu]
  refine ⟨?_, fun d hd => ?_, hcontainer, fun hpost hover => ?_, fun hno => ?_, hreported.1, fun n hn hne => ?_⟩
  · obtain ⟨_, _, _, _, hevaluate⟩ := evaluate_touches (s.sampleFused c tof m) c
    obtain ⟨_, _, _, htouches⟩ := sampleFused_touches s c tof m
    rw [hevaluate, htouches]
    exact ⟨_, _, _, _, rfl⟩
  · rw [hothers d hd, container_sampleFused, if_neg hd]
  · have htold := told_sampleFused s c tof m hpost hover
    unfold State.told at htold ⊢
    rwa [hnotices 14 (by decide)]
  · rw [hnotices 14 (by decide), noticeClass_sampleFused _ _ _ _ (Or.inr (if_neg (fun h => ?_)))]
    obtain ⟨hpost, hover⟩ := h
    exact hno.elim (fun hfalse => by simp [show (s.container c).fill.postLift = false from hfalse] at hpost)
      (fun hle => absurd hover (Nat.not_lt.mpr hle))
  · refine (hreported.2 n hn hne).trans (noticeClass_sampleFused _ _ _ _ (Or.inl ?_))
    rintro rfl
    simp at hn

theorem echoSample_eq (s : State) (c tof quality : Nat) (temperature : Int) :
    s.echoSample c tof quality temperature =
      if (s.container c).live = true ∧ (s.container c).inlet.waits = false then
        if 0 < tof ∧ tof < 25000 ∧ (s.container c).cfg.qMin ≤ quality then
          (s.setRequest c ((s.container c).fill.request.answered (s.container c).cfg.present (s.container c).fill.sensor
            (s.container c).inlet.state)).validSample c tof temperature
        else (s.setRequest c ((s.container c).fill.request.answered (s.container c).cfg.present (s.container c).fill.sensor
          (s.container c).inlet.state)).invalidSample c
      else s.setRequest c ((s.container c).fill.request.answered (s.container c).cfg.present (s.container c).fill.sensor
        (s.container c).inlet.state) := by
  unfold State.echoSample
  dsimp only
  rw [Inlet.defers_eq_waits]
  by_cases hpresent : (s.container c).cfg.present = true
  swap
  · rw [if_pos (by simpa using hpresent), if_neg (fun h => hpresent ((live_iff _).mp h.1).1)]
    rfl
  rw [if_neg (by simp [hpresent])]
  by_cases hwaits : (s.container c).inlet.waits = true
  · rw [if_pos hwaits, if_neg (fun h => by simp [hwaits] at h)]
    rfl
  rw [if_neg hwaits]
  by_cases hfailed : (s.container c).fill.sensor = .failed
  · rw [if_pos hfailed, if_neg (fun h => ((live_iff _).mp h.1).2 hfailed)]
    rfl
  rw [if_neg hfailed, if_pos (c := _ ∧ _) ⟨(live_iff _).mpr ⟨hpresent, hfailed⟩, by simpa using hwaits⟩]
  by_cases hvalid : 0 < tof ∧ tof < 25000 ∧ (s.container c).cfg.qMin ≤ quality
  · rw [if_pos hvalid, if_neg (by omega)]
    rfl
  · rw [if_neg hvalid, if_pos (by omega)]
    rfl

theorem answered_outstanding (k : Container) (age : Nat) :
    (SampleRequest.outstanding age).answered k.cfg.present k.fill.sensor k.inlet.state =
      if k.live && k.inlet.waits then .deferred else .idle := answered_eq _ k

theorem setRequest_of_container (s : State) (c : Nat) (q : SampleRequest) :
    (s.setRequest c q).container c = { s.container c with fill := { (s.container c).fill with request := q } } := by
  rw [container_setRequest, if_pos rfl]

/-- A stuck third match (R103). -/
theorem validSample_stuck {s : State} {c tof : Nat} (h : 3 ≤ (s.container c).fill.evidence tof) (temperature : Int) :
    let u := s.validSample c tof temperature
    (∃ ks cs n, u = { s with containers := ks, classes := cs, link := { s.link with notices := n } }) ∧
      (∀ d, d ≠ c → u.container d = s.container d) ∧
      u.container c = { s.container c with fill := { (s.container c).fill with
        stuck := 3, sensor := .failed, request := (s.container c).fill.request.withdrawn } } ∧
      u.told 13 (some c) 3 := by
  dsimp only
  rw [validSample_eq, if_pos h]
  obtain ⟨_, _, hraise⟩ := raise_touches
    (s.updFill c (fun f => { f with stuck := 3, sensor := .failed, request := f.request.withdrawn })) .sensorFailed (some c) 3
  refine ⟨?_, fun d hd => ?_, ?_, told_raise _ .sensorFailed (some c) 3⟩
  · rw [hraise]
    exact ⟨_, _, _, rfl⟩
  · rw [State.container_raise, State.container_updFill, if_neg hd]
  · rw [State.container_raise, State.container_updFill, if_pos rfl]

/-- Settles O40: the request is dealt with first; then the sample is counted as invalid, found stuck, or fused. -/
theorem sampleExpiriesAskAndCount : Obligations.SampleExpiriesAskAndCount := by
  refine ⟨fun s c hphase hdue => ?_, fun s c hphase hdue => ?_, fun s c tof quality temperature => ?_⟩
  · obtain ⟨_, htouches⟩ := countdownExpired_touches s c
    refine ⟨s.countdownExpired c, exec_expiry hphase (by simp [Container.countdownDue, hdue]) State.countdownExpired, ?_,
      fun d hd => ?_, ?_⟩
    · rw [htouches]
    · rw [container_countdownExpired, if_neg hd]
    · rw [container_countdownExpired, if_pos rfl]
      simp only [live_iff, waits_iff, and_assoc]
  · have hrun : exec (.sampleOutstandingExpiry c) s = .next (s.outstandingExpired c) :=
      exec_expiry hphase (by simp [Container.outstandingDue, hdue]) State.outstandingExpired
    have hexpired := outstandingExpired_eq s c
    rw [hdue, answered_outstanding] at hexpired
    simp only [← live_iff, ← waits_iff]
    obtain ⟨⟨_, _, _, htouches⟩, hothers, hcontainer, htold, hquiet⟩ := invalidSample_counts s c .idle
    refine ⟨s.outstandingExpired c, hrun, ?_⟩
    by_cases huse : ((s.container c).live && !(s.container c).inlet.waits) = true
    · obtain ⟨hlive, hwaits⟩ : (s.container c).live = true ∧ (s.container c).inlet.waits = false := by simpa using huse
      rw [if_pos huse, if_neg (by simp [hwaits])] at hexpired
      rw [hexpired]
      refine ⟨by rw [htouches], hothers, fun _ h => absurd h (by simp [hwaits]), fun h => absurd hlive h, fun _ _ hkept => ?_,
        fun _ _ hdegrades => ?_⟩
      · rw [hcontainer, if_neg hkept]
        obtain ⟨_, hcounted⟩ := hquiet hkept
        exact ⟨rfl, by rw [hcounted]⟩
      · rw [hcontainer, if_pos hdegrades]
        exact ⟨rfl, htold hdegrades⟩
    · rw [if_neg huse] at hexpired
      rw [hexpired]
      refine ⟨rfl, fun d hd => by rw [container_setRequest, if_neg hd], fun hlive hwaits => ?_, fun hlive => ?_,
        fun hlive hwaits => absurd (by simp [hlive, hwaits]) huse, fun hlive hwaits => absurd (by simp [hlive, hwaits]) huse⟩
      · rw [setRequest_of_container, if_pos (by simp [hlive, hwaits])]
        exact ⟨rfl, rfl⟩
      · rw [setRequest_of_container, if_neg (by simp [hlive])]
        exact ⟨rfl, rfl⟩
  · intro k f u request used valid streak degrades evidence m E F r
    have hrequest : (s.container c).fill.request.answered (s.container c).cfg.present (s.container c).fill.sensor
        (s.container c).inlet.state = request := by
      refine (answered_eq _ _).trans ?_
      cases hq : (s.container c).fill.request <;> simp [request, f, k, hq]
    have hecho := echoSample_eq s c tof quality temperature
    rw [hrequest] at hecho
    have hset := setRequest_of_container s c request
    have hkept : ∀ d, d ≠ c → (s.setRequest c request).container d = s.container d := fun d hd => by
      rw [container_setRequest, if_neg hd]
    by_cases huse : used
    swap
    · have hu : u = s.setRequest c request := hecho.trans (if_neg huse)
      rw [hu]
      exact ⟨rfl, hkept, fun _ => rfl, fun h => absurd h huse, fun h => absurd h huse, fun h => absurd h huse⟩
    by_cases hvalid : valid
    swap
    · have hu : u = (s.setRequest c request).invalidSample c := hecho.trans ((if_pos huse).trans (if_neg hvalid))
      obtain ⟨⟨_, _, _, htouches⟩, hothers, hcontainer, htold, hquiet⟩ := invalidSample_counts s c request
      rw [hu]
      refine ⟨by rw [htouches], hothers, fun h => absurd huse h, fun _ _ => ⟨hcontainer, htold, fun hkept => ?_, ?_⟩,
        fun _ h => absurd h hvalid, fun _ h => absurd h hvalid⟩
      · obtain ⟨_, hcounted⟩ := hquiet hkept
        rw [hcounted]
        exact ⟨rfl, rfl⟩
      · rw [htouches]
    have hu : u = (s.setRequest c request).validSample c tof temperature := hecho.trans ((if_pos huse).trans (if_pos hvalid))
    have hevidence : ((s.setRequest c request).container c).fill.evidence tof = evidence := by
      rw [hset]
      rfl
    rw [hu]
    by_cases hstuck : 3 ≤ evidence
    · obtain ⟨⟨_, _, _, htouches⟩, hothers, hcontainer, htold⟩ := validSample_stuck (s := s.setRequest c request) (c := c) (tof := tof)
        (by rw [hevidence]; exact hstuck) temperature
      refine ⟨?_, fun d hd => (hothers d hd).trans (hkept d hd), fun h => absurd huse h, fun _ h => absurd hvalid h,
        fun _ _ _ => ⟨?_, htold, ?_⟩, fun _ _ h => absurd h (by omega)⟩
      · rw [htouches]
        rfl
      · rw [hcontainer, hset, withdrawn_eq]
      · rw [htouches]
        rfl
    · have hfused := validSample_eq (s.setRequest c request) c tof temperature
      rw [hevidence, if_neg hstuck] at hfused
      have hk : ((s.setRequest c request).updFill c (fun f =>
          { f with stuck := evidence, streak := 0, sensor := .good })).container c =
            { k with fill := { f with request := request, stuck := evidence, streak := 0, sensor := .good } } := by
        rw [State.container_updFill, if_pos rfl, hset]
      obtain ⟨⟨_, _, _, _, htouches⟩, hothers, hcontainer, htold, hquiet, hreported⟩ :=
        fuseSample_fuses ((s.setRequest c request).updFill c (fun f =>
          { f with stuck := evidence, streak := 0, sensor := .good })) c tof temperature
      simp only [hk] at hcontainer htold hquiet hreported
      rw [hfused]
      refine ⟨?_, fun d hd => ?_, fun h => absurd huse h, fun _ h => absurd hvalid h, fun _ _ h => absurd h hstuck,
        fun _ _ _ => ⟨hcontainer, htold, hquiet, hreported⟩⟩
      · rw [htouches]
        rfl
      · rw [hothers d hd, State.container_updFill, if_neg hd, hkept d hd]

end Sys2Proof.Machine
end

section
/-! PROOFS. The turn of a line (R4, R5, R17 to R20) and what the watch does to a frame about to be sent (R166 to R170, R175). -/

namespace Sys2Proof.Machine

/-! ### A frame sent, and a hold begun -/

section
variable (s : State) (l : Line) (i : Nat) (todo : List Look) (what : Sent) (f : Frame) (after : Bool)

/-- The turn that a sent frame leaves on its line. -/
def sentTurn : Turn :=
  { station := i, todo := todo, exchange := { what := what, frame := f, waiting := false, holdAfter := after } }

theorem line_send : (s.send l i todo what f after).line l =
    { s.line l with turn := some (sentTurn i todo what f after) } := by
  unfold State.send
  cases what <;> exact (State.line_updLine_same _ _ _).trans (by cases l <;> rfl)

theorem line_send_other {l' : Line} (h : l' ≠ l) : (s.send l i todo what f after).line l' = s.line l' := by
  unfold State.send
  cases what <;> (dsimp only; rw [State.line_updLine, if_neg h]) <;> cases l' <;> rfl

theorem watch_send : (s.send l i todo what f after).watch = s.watch := by
  unfold State.send
  cases what <;> cases l <;> rfl

theorem container_send_inlet (slot d : Nat) : (s.send l i todo (.inlet slot) f after).container d =
    if d = containerOf i slot then { s.container (containerOf i slot) with
      inlet := { (s.container (containerOf i slot)).inlet with
        command := (s.container (containerOf i slot)).inlet.command.map (fun c => { c with sent := true }) } }
    else s.container d := by
  unfold State.send
  rw [State.container_updLine, State.container_updInlet]
  rfl

theorem containers_send (h : ∀ slot, what ≠ .inlet slot) : (s.send l i todo what f after).containers = s.containers := by
  unfold State.send
  cases what with
  | inlet slot => exact absurd rfl (h slot)
  | sample | relay | poll => cases l <;> rfl

end

theorem holdBegun_beginHold (s : State) (i : Nat) (p : Option Parked) (v : Nat) : s.holdBegun (s.beginHold i p v) i p v := by
  obtain ⟨_, _, hraise⟩ := raise_touches (s.updWatch (fun w =>
    { w with state := .held, held := some i, parked := p, stepMark := none, pass := none,
             timeoutLeft := some s.params.holdTimeout })) .watchHeld (some i) v
  refine ⟨?_, ?_, told_raise _ .watchHeld (some i) v, fun n hn => noticeClass_raise _ .watchHeld (some i) v n hn⟩
  · rw [State.beginHold, hraise]
    rfl
  · rw [State.beginHold, hraise]
    rfl

theorem line_beginHold (s : State) (i : Nat) (p : Option Parked) (v : Nat) (l : Line) :
    (s.beginHold i p v).line l = s.line l := by
  obtain ⟨_, _, hraise⟩ := raise_touches (s.updWatch (fun w =>
    { w with state := .held, held := some i, parked := p, stepMark := none, pass := none,
             timeoutLeft := some s.params.holdTimeout })) .watchHeld (some i) v
  rw [State.beginHold, hraise]
  cases l <;> rfl

theorem line_captureIf (s : State) (i : Nat) (f : Frame) (l : Line) : (s.captureIf i f).line l = s.line l := by
  unfold State.captureIf
  split <;> cases l <;> rfl

/-! ### A frame presented to the watch (R2, R167 to R170, R175) -/

section
variable (s : State) (l : Line) (i : Nat) (todo : List Look) (what : Sent) (f : Frame)

theorem presentFrame_poll : s.presentFrame l i todo .poll f = (s.send l i todo .poll f false, true) := rfl

variable {what}

theorem presentFrame_passed (hpoll : what ≠ .poll) (hpass : s.watch.pass = some { station := i, what := what }) :
    s.presentFrame l i todo what f = ((s.updWatch (fun w => { w with pass := none })).send l i todo what f false, true) := by
  unfold State.presentFrame
  rw [if_neg hpoll, if_pos hpass]

theorem presentFrame_compared (hpoll : what ≠ .poll) (hpass : s.watch.pass ≠ some { station := i, what := what }) :
    s.presentFrame l i todo what f = match s.verdict i f with
      | .goOn => ((s.captureIf i f).send l i todo what f false, true)
      | .holdAfter => ((s.captureIf i f).send l i todo what f true, true)
      | .holdBefore => ((s.captureIf i f).beginHold i
          (some { station := i, frame := f, how := .toSend what, received := s.now, age := 0 }) 2, false) := by
  unfold State.presentFrame
  rw [if_neg hpoll, if_neg hpass] <;> rfl

theorem captureIf_of_matches (h : s.watch.matches i f = true) :
    s.captureIf i f = s.updWatch (fun _ => s.watch.capture i f s.clock.time) := if_pos h

theorem captureIf_of_not_matches (h : s.watch.matches i f = false) : s.captureIf i f = s := if_neg (by simp [h])

theorem verdict_of_not_matches (h : s.watch.matches i f = false) : s.verdict i f = .goOn := by
  simp [State.verdict, h]

theorem verdict_of_not_free (h : s.holdFree = false) : s.verdict i f = .goOn := by
  simp [State.verdict, h]

theorem verdict_of_free (hmatches : s.watch.matches i f = true) (hfree : s.holdFree = true) :
    s.verdict i f = match s.watch.action with
      | .holdAfter => .holdAfter
      | .holdBefore => .holdBefore
      | _ => .goOn := by
  simp [State.verdict, hmatches, hfree] <;> rfl

theorem verdict_goOn (h : s.holdFree = false ∨ s.watch.action = .capture ∨ s.watch.action = .off) :
    s.verdict i f = .goOn := by
  obtain hfree | hcapture | hoff := h
  · exact verdict_of_not_free s i f hfree
  · simp [State.verdict, hcapture]
  · simp [State.verdict, hoff]

/-- What a frame presented to the watch leaves on the lines: a turn of its station where it was sent, and nothing else. -/
theorem line_presentFrame : (∀ l', l' ≠ l → (s.presentFrame l i todo what f).1.line l' = s.line l') ∧
    ((s.presentFrame l i todo what f).2 = true → ∃ t : Turn, t.station = i ∧
      (s.presentFrame l i todo what f).1.line l = { s.line l with turn := some t }) ∧
    ((s.presentFrame l i todo what f).2 = false → (s.presentFrame l i todo what f).1.line l = s.line l) := by
  have hsent : ∀ (u : State) (b : Bool), (∀ l', u.line l' = s.line l') →
      (∀ l', l' ≠ l → (u.send l i todo what f b).line l' = s.line l') ∧
        ∃ t : Turn, t.station = i ∧ (u.send l i todo what f b).line l = { s.line l with turn := some t } := fun u b hu =>
    ⟨fun l' hl => (line_send_other u l i todo what f b hl).trans (hu l'),
      sentTurn i todo what f b, rfl, by rw [line_send, hu]⟩
  unfold State.presentFrame
  split
  · obtain ⟨hothers, hline⟩ := hsent s false (fun _ => rfl)
    exact ⟨hothers, fun _ => hline, fun h => absurd h (by simp)⟩
  split
  · obtain ⟨hothers, hline⟩ := hsent (s.updWatch (fun w => { w with pass := none })) false (fun l' => by cases l' <;> rfl)
    exact ⟨hothers, fun _ => hline, fun h => absurd h (by simp)⟩
  dsimp only
  split
  · obtain ⟨hothers, hline⟩ := hsent (s.captureIf i f) false (line_captureIf s i f)
    exact ⟨hothers, fun _ => hline, fun h => absurd h (by simp)⟩
  · obtain ⟨hothers, hline⟩ := hsent (s.captureIf i f) true (line_captureIf s i f)
    exact ⟨hothers, fun _ => hline, fun h => absurd h (by simp)⟩
  · have hheld : ∀ l', State.line (State.beginHold (s.captureIf i f) i
        (some { station := i, frame := f, how := .toSend what, received := s.now, age := 0 }) 2) l' = s.line l' :=
      fun l' => (line_beginHold _ _ _ _ l').trans (line_captureIf s i f l')
    exact ⟨fun l' _ => hheld l', fun h => absurd h (by simp), fun _ => hheld l⟩

end

/-! ### The looks of a turn (R5) -/

section
variable (l : Line) (i : Nat)

theorem sendNext_none {s : State} {k : Look} (h : s.look i k = none) (ks : List Look) :
    State.sendNext l i (k :: ks) s = State.sendNext l i ks s := by
  simp only [State.sendNext, h]

theorem sendNext_some {s : State} {k : Look} {what : Sent} {f : Frame} (h : s.look i k = some (what, f)) (ks : List Look) :
    State.sendNext l i (k :: ks) s = s.presentFrame l i ks what f := by
  simp only [State.sendNext, h]

theorem line_sendNext (ks : List Look) (s : State) :
    (∀ l', l' ≠ l → (State.sendNext l i ks s).1.line l' = s.line l') ∧
      ((State.sendNext l i ks s).2 = true → ∃ t : Turn, t.station = i ∧
        (State.sendNext l i ks s).1.line l = { s.line l with turn := some t }) ∧
      ((State.sendNext l i ks s).2 = false → (State.sendNext l i ks s).1.line l = s.line l) := by
  induction ks with
  | nil => exact ⟨fun _ _ => rfl, fun h => absurd h (by simp [State.sendNext]), fun _ => rfl⟩
  | cons k ks ih =>
    cases hlook : s.look i k with
    | none => rwa [sendNext_none l i hlook]
    | some found =>
      rw [sendNext_some l i hlook]
      exact line_presentFrame s l i ks found.2

/-- The first look that finds a frame presents it. -/
theorem sendNext_of_findSome {s : State} {what : Sent} {f : Frame} {ks : List Look}
    (h : ks.findSome? (s.look i) = some (what, f)) : ∃ todo, State.sendNext l i ks s = s.presentFrame l i todo what f := by
  induction ks with
  | nil => simp at h
  | cons k ks ih =>
    cases hlook : s.look i k with
    | none =>
      rw [sendNext_none l i hlook]
      exact ih (by simpa [List.findSome?, hlook] using h)
    | some found =>
      obtain rfl : found = (what, f) := by simpa [List.findSome?, hlook] using h
      exact ⟨ks, sendNext_some l i hlook ks⟩

end

/-! ### The arbiter (R17 to R20) -/

theorem nextInRotation_some {s : State} {l : Line} {rot : Rotation} {i : Nat} (h : s.nextInRotation l rot = some i) :
    (∃ before after, stationsAfter l ((s.line l).cursor rot) = before ++ i :: after ∧
        ∀ j ∈ before, s.inRotation rot j = false) ∧
      (s.station i).cfg.enabled = true ∧ s.isHeld i = false ∧ (rot = .fast → s.fastNeed i = true) := by
  obtain ⟨hin, before, after, hsplit, hbefore⟩ := List.find?_eq_some_iff_append.mp h
  refine ⟨⟨before, after, hsplit, fun j hj => by simpa using hbefore j hj⟩, ?_⟩
  cases rot <;> simp_all [State.inRotation, State.eligible]

theorem nextInRotation_none {s : State} {l : Line} {rot : Rotation} (h : s.nextInRotation l rot = none) :
    ∀ j ∈ stationsAfter l ((s.line l).cursor rot), s.inRotation rot j = false := fun j hj => by
  simpa using List.find?_eq_none.mp h j hj

theorem choose_of_priority {s : State} {l : Line} {i : Nat} (h : (s.line l).priority.find? (fun i => !s.isHeld i) = some i) :
    s.choose l = some (i, none) := by
  simp only [State.choose, h]

theorem choose_of_rotations {s : State} {l : Line} (h : (s.line l).priority.find? (fun i => !s.isHeld i) = none) :
    s.choose l = match s.nextInRotation l (s.line l).mark with
      | some i => some (i, some (s.line l).mark)
      | none => (s.nextInRotation l (s.line l).mark.other).map (fun i => (i, some (s.line l).mark.other)) := by
  simp only [State.choose, h] <;> rfl

theorem Rotation.other_ne (rot : Rotation) : rot.other ≠ rot := by
  cases rot <;> simp [Rotation.other]

theorem Rotation.eq_or_eq_other (rot mark : Rotation) : rot = mark ∨ rot = mark.other := by
  cases rot <;> cases mark <;> simp [Rotation.other]

/-- The line as a turn begins: the station leaves the priority list, and the rotation used moves on (R17, R19). -/
def LineState.turnBegun (d : LineState) (i : Nat) (rot : Option Rotation) : LineState :=
  match rot with
  | some r => { d with priority := d.priority.filter (fun j => !(j == i)) }.rotated r i
  | none => { d with priority := d.priority.filter (fun j => !(j == i)) }

theorem beginTurn_eq (s : State) (l : Line) (i : Nat) (rot : Option Rotation) :
    s.beginTurn l i rot = State.sendNext l i turnLooks (s.updLine l (fun d => d.turnBegun i rot)) := by
  cases rot <;> rfl

theorem kick_choosing {s : State} {l : Line} (hphase : s.part.phase = .running) (hturn : (s.line l).turn = none) :
    s.kick l = State.arbitrate l 2 s := if_pos (by simp [State.running, hphase, hturn])

/-- Settles O21: by the two searches of the choice, the line a turn leaves, and the two rounds of the arbiter. -/
theorem arbiterChoosesByPriorityThenRotation : Obligations.ArbiterChoosesByPriorityThenRotation := by
  refine ⟨fun s l => ⟨fun i => ?_, fun i rot h => ?_, fun h => ?_⟩, fun l k hk => ?_, fun s l i rot => ?_,
    fun s l => ⟨fun h => ?_, fun hphase hturn => ⟨fun hnone => ?_, fun i rot hchoose => ⟨fun hsent => ?_, fun hkept hnone => ?_,
      fun hkept j rot' hagain => ?_⟩⟩⟩⟩
  · have hfind : (s.line l).priority.find? (fun i => !s.isHeld i) = some i ↔
        ∃ before after, (s.line l).priority = before ++ i :: after ∧ s.isHeld i = false ∧ ∀ j ∈ before, s.isHeld j = true := by
      rw [List.find?_eq_some_iff_append]
      simp only [Bool.not_eq_true', Bool.not_not]
      exact ⟨fun ⟨hheld, before, after, hsplit, hbefore⟩ => ⟨before, after, hsplit, hheld, hbefore⟩,
        fun ⟨before, after, hsplit, hheld, hbefore⟩ => ⟨hheld, before, after, hsplit, hbefore⟩⟩
    rw [← hfind]
    refine ⟨fun h => ?_, choose_of_priority⟩
    cases hpriority : (s.line l).priority.find? (fun i => !s.isHeld i) with
    | some j =>
      rw [choose_of_priority hpriority] at h
      simp only [Option.some.injEq, Prod.mk.injEq, and_true] at h
      rw [h]
    | none =>
      rw [choose_of_rotations hpriority] at h
      split at h
      · simp at h
      · cases hother : s.nextInRotation l (s.line l).mark.other <;> simp [hother] at h
  · cases hpriority : (s.line l).priority.find? (fun i => !s.isHeld i) with
    | some j =>
      rw [choose_of_priority hpriority] at h
      simp at h
    | none =>
      have hheld : ∀ j ∈ (s.line l).priority, s.isHeld j = true := fun j hj => by
        simpa using List.find?_eq_none.mp hpriority j hj
      rw [choose_of_rotations hpriority] at h
      split at h
      next j hmark =>
        obtain ⟨rfl, rfl⟩ : j = i ∧ (s.line l).mark = rot := by simpa using h
        obtain ⟨hfirst, henabled, hfree, hfast⟩ := nextInRotation_some hmark
        exact ⟨hheld, hfirst, henabled, hfree, hfast, fun hne => absurd rfl hne⟩
      next hmark =>
        cases hother : s.nextInRotation l (s.line l).mark.other with
        | none => simp [hother] at h
        | some j =>
          obtain ⟨rfl, rfl⟩ : j = i ∧ (s.line l).mark.other = rot := by simpa [hother] using h
          obtain ⟨hfirst, henabled, hfree, hfast⟩ := nextInRotation_some hother
          exact ⟨hheld, hfirst, henabled, hfree, hfast, fun _ => nextInRotation_none hmark⟩
  · cases hpriority : (s.line l).priority.find? (fun i => !s.isHeld i) with
    | some j =>
      rw [choose_of_priority hpriority] at h
      simp at h
    | none =>
      refine ⟨fun j hj => by simpa using List.find?_eq_none.mp hpriority j hj, fun rot => ?_⟩
      rw [choose_of_rotations hpriority] at h
      split at h
      · simp at h
      next hmark =>
        have hother : s.nextInRotation l (s.line l).mark.other = none := by simpa using h
        obtain rfl | rfl := rot.eq_or_eq_other (s.line l).mark
        · exact nextInRotation_none hmark
        · exact nextInRotation_none hother
  · cases l
    · exact (by decide : ∀ k, k < 16 → stationsAfter .a (0 + k) =
        ((List.range 16).map (fun j => 0 + j)).drop (k + 1) ++ ((List.range 16).map (fun j => 0 + j)).take (k + 1)) k hk
    · exact (by decide : ∀ k, k < 16 → stationsAfter .b (16 + k) =
        ((List.range 16).map (fun j => 16 + j)).drop (k + 1) ++ ((List.range 16).map (fun j => 16 + j)).take (k + 1)) k hk
  · intro d r e
    obtain ⟨hothers, hsent, hkept⟩ := line_sendNext l i turnLooks (s.updLine l (fun d => d.turnBegun i rot))
    rw [← beginTurn_eq] at hothers hsent hkept
    rw [State.line_updLine_same] at hsent hkept
    have hbegun : ∃ turn, e = { d.turnBegun i rot with turn := turn } := by
      cases hr : r.2 with
      | true =>
        obtain ⟨t, -, hline⟩ := hsent hr
        exact ⟨_, hline⟩
      | false => exact ⟨_, hkept hr⟩
    obtain ⟨turn, he⟩ := hbegun
    have hfilter : d.priority.filter (fun j => !(j == i)) = d.priority.filter (fun j => decide (j ≠ i)) := by
      congr 1
      funext j
      simp [beq_eq_decide]
    refine ⟨fun l' hl => ?_, ?_, ?_, ?_, fun hrot => ?_, fun hrot => ?_, fun hrot => ?_, fun hr => ?_, fun hr => ?_⟩
    · rw [hothers l' hl, State.line_updLine, if_neg hl]
    · rw [he, ← hfilter]
      obtain _ | (_ | _) := rot <;> rfl
    · rw [he]
      obtain _ | (_ | _) := rot <;> rfl
    · rw [he]
      obtain _ | (_ | _) := rot <;> rfl
    · subst hrot
      rw [he]
      exact ⟨rfl, rfl, rfl⟩
    · subst hrot
      rw [he]
      exact ⟨rfl, rfl, rfl⟩
    · subst hrot
      rw [he]
      exact ⟨rfl, rfl, rfl⟩
    · obtain ⟨t, hstation, hline⟩ := hsent hr
      exact ⟨t, by rw [show e = _ from hline], hstation⟩
    · rw [show e = _ from hkept hr]
      obtain _ | (_ | _) := rot <;> rfl
  · refine if_neg (fun hidle => ?_)
    simp only [State.running, Bool.and_eq_true, beq_iff_eq, Option.isNone_iff_eq_none] at hidle
    obtain ⟨hphase, hturn⟩ := hidle
    exact h.elim (fun hne => hne hphase) (fun hsome => by simp [hturn] at hsome)
  · rw [kick_choosing hphase hturn]
    simp only [State.arbitrate, hnone]
  · rw [kick_choosing hphase hturn]
    simp only [State.arbitrate, hchoose, hsent, if_true]
  · rw [kick_choosing hphase hturn]
    simp only [State.arbitrate, hchoose, hkept, hnone, if_false, Bool.false_eq_true]
  · rw [kick_choosing hphase hturn]
    simp only [State.arbitrate, hchoose, hkept, hagain, if_false, Bool.false_eq_true, ite_self]

end Sys2Proof.Machine
end

section
/-! PROOFS. What a turn sends first, and the watch's verdict on it (R4, R5, R166 to R170). -/

namespace Sys2Proof.Machine

/-! ### What each look finds (R4, R5) -/

section
variable {s : State} {i : Nat}

theorem look_inlet {slot : Nat} {c : InletCommand} (h : (s.container (containerOf i slot)).inlet.command = some c) :
    s.look i (.inlet slot) = some (.inlet slot, toStation i 0x02#8 0x00#8 (c.payload slot)) := by
  simp only [State.look, h]
  rfl

theorem look_inlet_none {slot : Nat} (h : (s.container (containerOf i slot)).inlet.command = none) :
    s.look i (.inlet slot) = none := by
  simp only [State.look, h]

theorem look_sample {slot : Nat} (h : (s.container (containerOf i slot)).fill.request = .pending) :
    s.look i (.sample slot) = some (.sample slot, toStation i 0x03#8 0x00#8 (be 1 slot)) := if_pos h

theorem look_sample_none {slot : Nat} (h : ¬(s.container (containerOf i slot)).fill.request = .pending) :
    s.look i (.sample slot) = none := if_neg h

theorem look_relay {e : RelayEntry} (h : (s.line (lineOf i)).relay.find? (fun e => e.station == i) = some e) :
    s.look i .relay = some (.relay e.number, toStation i 0x04#8 e.tag e.payload) := by
  simp only [State.look, h]
  rfl

theorem look_relay_none (h : (s.line (lineOf i)).relay.find? (fun e => e.station == i) = none) :
    s.look i .relay = none := by
  simp only [State.look, h]

theorem look_poll : s.look i .poll = some (.poll, toStation i 0x01#8 0x00#8 [ofYesNo (s.station i).acceptOwed]) := rfl

/-- Every frame a look finds goes from the part to the station (R2). -/
theorem look_addressed {k : Look} {what : Sent} {f : Frame} (h : s.look i k = some (what, f)) :
    f.dst = stationAddress i ∧ f.src = 0x00#8 := by
  have haddressed : ∀ kind tag payload, toStation i kind tag payload = f → f.dst = stationAddress i ∧ f.src = 0x00#8 :=
    fun kind tag payload hf => by subst hf; exact ⟨rfl, rfl⟩
  cases k with
  | inlet slot =>
    cases hcommand : (s.container (containerOf i slot)).inlet.command with
    | none => simp [look_inlet_none hcommand] at h
    | some c =>
      rw [look_inlet hcommand] at h
      exact haddressed _ _ _ (Prod.mk.inj (Option.some.inj h)).2
  | sample slot =>
    by_cases hasks : (s.container (containerOf i slot)).fill.request = .pending
    · rw [look_sample hasks] at h
      exact haddressed _ _ _ (Prod.mk.inj (Option.some.inj h)).2
    · simp [look_sample_none hasks] at h
  | relay =>
    cases hentry : (s.line (lineOf i)).relay.find? (fun e => e.station == i) with
    | none => simp [look_relay_none hentry] at h
    | some e =>
      rw [look_relay hentry] at h
      exact haddressed _ _ _ (Prod.mk.inj (Option.some.inj h)).2
  | poll =>
    rw [look_poll] at h
    exact haddressed _ _ _ (Prod.mk.inj (Option.some.inj h)).2

/-- The frame that the looks of a turn find first. -/
theorem firstFound_exists (s : State) (i : Nat) : ∃ what f, turnLooks.findSome? (s.look i) = some (what, f) ∧
    f.dst = stationAddress i ∧ f.src = 0x00#8 := by
  cases hfound : turnLooks.findSome? (s.look i) with
  | none =>
    have hpoll := List.findSome?_eq_none_iff.mp hfound .poll (by simp [turnLooks])
    rw [look_poll] at hpoll
    simp at hpoll
  | some found =>
    obtain ⟨k, -, hlook⟩ := List.exists_of_findSome?_eq_some hfound
    exact ⟨found.1, found.2, rfl, look_addressed hlook⟩

end

theorem windowField_eq (c : InletCommand) :
    c.windowField = if c.action = .unlock ∨ c.action = .serviceUnlock then c.window else 0 := by
  unfold InletCommand.windowField
  cases c.action <;> simp

/-- While the watch is OFF and no pass is given, every frame is sent. -/
theorem presentFrame_off {s : State} (hoff : s.watch.state = .off) (hpass : s.watch.pass = none) (l : Line) (i : Nat)
    (todo : List Look) (what : Sent) (f : Frame) :
    s.presentFrame l i todo what f = (s.send l i todo what f false, true) := by
  have hmatches : s.watch.matches i f = false := by simp [Watch.matches, hoff]
  by_cases hpoll : what = .poll
  · subst hpoll
    exact presentFrame_poll s l i todo f
  · rw [presentFrame_compared s l i todo f hpoll (by simp [hpass]), verdict_of_not_matches s i f hmatches,
      captureIf_of_not_matches s i f hmatches]

/-! ### What a sent frame leaves -/

section
variable (s : State) (l : Line) (i : Nat) (todo : List Look) (what : Sent) (f : Frame)

/-- A frame sent after at most the watch has changed: everything the statement says of a frame that is sent. -/
theorem sends_of_send (w : Watch) (after : Bool) :
    let u := State.send { s with watch := w } l i todo what f after
    s.onlyChose u ∧ u.watch = w ∧ (u.line l).turn = some
        { station := i, todo := todo, exchange := { what := what, frame := f, waiting := false, holdAfter := after } } ∧
      (∀ slot, what = .inlet slot →
        let n := (s.container (containerOf i slot)).inlet
        u.container (containerOf i slot) = { s.container (containerOf i slot) with
          inlet := { n with command := n.command.map (fun c => { c with sent := true }) } } ∧
        ∀ d, d ≠ containerOf i slot → u.container d = s.container d) ∧
      ((∀ slot, what ≠ .inlet slot) → u.containers = s.containers) := by
  refine ⟨onlyChose_trans (onlyChose_updWatch s (fun _ => w)) (onlyChose_send _ l i todo what f after), watch_send _ _ _ _ _ _ _,
    ?_, fun slot hslot => ?_, fun hother => containers_send _ _ _ _ _ _ _ hother⟩
  · rw [line_send]
    rfl
  · subst hslot
    refine ⟨?_, fun d hd => ?_⟩
    · rw [container_send_inlet, if_pos rfl]
      rfl
    · rw [container_send_inlet, if_neg hd]
      rfl

end

/-- Settles O22: the first look that finds a frame, and the branches of what the watch does to it. -/
theorem turnSendsInOrder : Obligations.TurnSendsInOrder := by
  refine ⟨fun s l i hoff hpass hl => ?_, fun s l i k ks => ⟨fun h => sendNext_none l i h ks, fun what f h =>
    sendNext_some l i h ks⟩, fun s l i todo what f => ?_⟩
  · intro command asks entry r
    obtain ⟨what, f, hfound, hdst, hsrc⟩ := firstFound_exists s i
    obtain ⟨todo, hnext⟩ := sendNext_of_findSome l i hfound
    rw [presentFrame_off hoff hpass] at hnext
    have hframe : ∀ {what' f'}, turnLooks.findSome? (s.look i) = some (what', f') → f = f' := fun h => by
      rw [hfound] at h
      exact (Prod.mk.inj (Option.some.inj h)).2
    have hnoCommand : ∀ {slot}, command slot = none → s.look i (.inlet slot) = none := look_inlet_none
    have hnoAsk : ∀ {slot}, ¬asks slot → s.look i (.sample slot) = none := look_sample_none
    refine ⟨congrArg Prod.snd hnext, sentTurn i todo what f false, ?_, rfl, rfl, hdst, hsrc, fun slot c hslot hc hbelow => ?_,
      fun hcommands => ⟨fun slot hslot hasks hbelow => ?_, fun hno => ⟨fun e he => ?_, fun hnone => ?_⟩⟩⟩
    · rw [show r.1 = _ from congrArg Prod.fst hnext, line_send]
    · have hlook := look_inlet hc
      have hf : f = toStation i 0x02#8 0x00#8 (c.payload slot) := hframe (what' := .inlet slot) (by
        simp only [List.mem_cons, List.not_mem_nil, or_false] at hslot
        obtain rfl | rfl | rfl | rfl := hslot
        · simp [turnLooks, hlook]
        · simp [turnLooks, hlook, hnoCommand (hbelow 1 (by decide) (by decide))]
        · simp [turnLooks, hlook, hnoCommand (hbelow 1 (by decide) (by decide)),
            hnoCommand (hbelow 2 (by decide) (by decide))]
        · simp [turnLooks, hlook, hnoCommand (hbelow 1 (by decide) (by decide)),
            hnoCommand (hbelow 2 (by decide) (by decide)), hnoCommand (hbelow 3 (by decide) (by decide))])
      rw [show (sentTurn i todo what f false).exchange.frame = f from rfl, hf]
      refine ⟨rfl, rfl, ?_⟩
      rw [← windowField_eq]
      rfl
    · have hlook := look_sample hasks
      have hcommand : ∀ k ∈ [1, 2, 3, 4], s.look i (.inlet k) = none := fun k hk => hnoCommand (hcommands k hk)
      simp only [List.forall_mem_cons, List.not_mem_nil, false_imp_iff, implies_true, and_true] at hcommand
      obtain ⟨h1, h2, h3, h4⟩ := hcommand
      have hf : f = toStation i 0x03#8 0x00#8 (be 1 slot) := hframe (what' := .sample slot) (by
        simp only [List.mem_cons, List.not_mem_nil, or_false] at hslot
        obtain rfl | rfl | rfl | rfl := hslot
        · simp [turnLooks, h1, h2, h3, h4, hlook]
        · simp [turnLooks, h1, h2, h3, h4, hlook, hnoAsk (hbelow 1 (by decide) (by decide))]
        · simp [turnLooks, h1, h2, h3, h4, hlook, hnoAsk (hbelow 1 (by decide) (by decide)),
            hnoAsk (hbelow 2 (by decide) (by decide))]
        · simp [turnLooks, h1, h2, h3, h4, hlook, hnoAsk (hbelow 1 (by decide) (by decide)),
            hnoAsk (hbelow 2 (by decide) (by decide)), hnoAsk (hbelow 3 (by decide) (by decide))])
      rw [show (sentTurn i todo what f false).exchange.frame = f from rfl, hf]
      exact ⟨rfl, rfl, rfl⟩
    all_goals
      have hslots : ∀ k ∈ [1, 2, 3, 4], s.look i (.inlet k) = none ∧ s.look i (.sample k) = none :=
        fun k hk => ⟨hnoCommand (hcommands k hk), hnoAsk (hno k hk)⟩
      simp only [List.forall_mem_cons, List.not_mem_nil, false_imp_iff, implies_true, and_true] at hslots
      obtain ⟨⟨h1, h1'⟩, ⟨h2, h2'⟩, ⟨h3, h3'⟩, h4, h4'⟩ := hslots
    · have hlook : s.look i .relay = some (.relay e.number, toStation i 0x04#8 e.tag e.payload) :=
        look_relay (by rw [hl]; exact he)
      have hf : f = toStation i 0x04#8 e.tag e.payload := hframe (what' := .relay e.number) (by
        simp [turnLooks, h1, h1', h2, h2', h3, h3', h4, h4', hlook])
      rw [show (sentTurn i todo what f false).exchange.frame = f from rfl, hf]
      exact ⟨rfl, rfl, rfl⟩
    · have hlook : s.look i .relay = none := look_relay_none (by rw [hl]; exact hnone)
      have hf : f = toStation i 0x01#8 0x00#8 [ofYesNo (s.station i).acceptOwed] := hframe (what' := .poll) (by
        simp [turnLooks, h1, h1', h2, h2', h3, h3', h4, h4', hlook, look_poll])
      rw [show (sentTurn i todo what f false).exchange.frame = f from rfl, hf]
      refine ⟨rfl, rfl, ?_⟩
      show [ofYesNo (s.station i).acceptOwed] = _
      cases (s.station i).acceptOwed <;> rfl
  · intro r captured sends passed
    have hsends : ∀ (w : Watch) (after : Bool), r = (State.send { s with watch := w } l i todo what f after, true) →
        sends w after := fun w after hr => by
      dsimp only [sends]
      rw [hr]
      exact ⟨rfl, sends_of_send s l i todo what f w after⟩
    refine ⟨fun hpoll => ?_, fun hpoll hpass => ?_, fun hpoll hpass hmatches => ?_, fun hpoll hpass hmatches =>
      ⟨fun hkept => ?_, fun hfree hafter => ?_, fun hfree hbefore => ?_⟩⟩
    · refine hsends s.watch false ?_
      subst hpoll
      exact presentFrame_poll s l i todo f
    · exact hsends { s.watch with pass := none } false (presentFrame_passed s l i todo f hpoll hpass)
    · refine hsends s.watch false ((presentFrame_compared s l i todo f hpoll hpass).trans ?_)
      rw [verdict_of_not_matches s i f hmatches, captureIf_of_not_matches s i f hmatches]
    · refine hsends captured false ((presentFrame_compared s l i todo f hpoll hpass).trans ?_)
      rw [verdict_goOn s i f hkept, captureIf_of_matches s i f hmatches]
      rfl
    · refine hsends captured true ((presentFrame_compared s l i todo f hpoll hpass).trans ?_)
      rw [verdict_of_free s i f hmatches hfree, hafter, captureIf_of_matches s i f hmatches]
      rfl
    · have hr : r = _ := presentFrame_compared s l i todo f hpoll hpass
      rw [verdict_of_free s i f hmatches hfree, hbefore, captureIf_of_matches s i f hmatches] at hr
      rw [hr]
      exact ⟨rfl, holdBegun_beginHold _ i _ 2⟩

end Sys2Proof.Machine
end

section
/-! PROOFS. The answer to a POLL (R3, R9 to R11), and the watch at received frames and at the end of exchanges (R166 to
R170, R174). -/

namespace Sys2Proof.Machine

/-! ### What a consumer gets of an item's bytes (R3, 11.7) -/

theorem slotAt_none {p : List Byte} {o : Nat} (h : p.length ≤ o) : slotAt p o = none :=
  if_neg (fun hslot => by omega)

theorem containerOf_eq {slot : Nat} (h : 1 ≤ slot) (i : Nat) : containerOf i slot = 4 * i + slot - 1 := by
  unfold containerOf
  omega

theorem yesNo_eq (b : Byte) : yesNo b = if b.toNat ≤ 1 then some (decide (b = 1#8)) else none := by
  by_cases h : b.toNat ≤ 1
  · rw [if_pos h]
    obtain rfl | rfl : b = 0#8 ∨ b = 1#8 := by bv_omega
    · rfl
    · rfl
  · rw [if_neg h, yesNo, if_neg (by rintro rfl; exact h (by decide)), if_neg (by rintro rfl; exact h (by decide))]

section
variable {s : State} {i age : Nat} {f : Frame}

theorem passFrame_item (h : f.kind ≠ 0x16#8) : s.passFrame i f age = s.passItem i f age := if_neg h

theorem passFrame_status (h : f.kind = 0x16#8) : s.passFrame i f age = s.passStatus i f := if_pos h

theorem passItem_none (h : parseItem f.kind f.payload = none) : s.passItem i f age = s := by
  simp only [State.passItem, h]

variable {slot : Byte}

theorem passCard {r d1 d0 x1 x0 : Byte} {more : List Byte} (hkind : f.kind = 0x11#8)
    (hpayload : f.payload = r :: slot :: d1 :: d0 :: x1 :: x0 :: more) :
    s.passFrame i f age = if (1 ≤ slot.toNat ∧ slot.toNat ≤ 4) ∧ r.toNat ≤ 1 then
        s.cardShown i (containerOf i slot.toNat) (decide (r = 1#8))
          (d1.toNat * 16777216 + d0.toNat * 65536 + x1.toNat * 256 + x0.toNat) age
      else s := by
  have hslot : slotAt f.payload 1 = if 1 ≤ slot.toNat ∧ slot.toNat ≤ 4 then some slot.toNat else none := by
    simp [slotAt, byteAt, hpayload]
  have hnumber : field f.payload 2 4 = d1.toNat * 16777216 + d0.toNat * 65536 + x1.toNat * 256 + x0.toNat := by
    simp [field, ofBe, hpayload]
    omega
  have hparse : parseItem f.kind f.payload = parseCard f.payload := by rw [hkind]; rfl
  rw [passFrame_item (by rw [hkind]; decide), State.passItem, hparse, parseCard, hslot, yesNo_eq,
    show byteAt f.payload 0 = r by simp [byteAt, hpayload], hnumber]
  have hlength : 6 ≤ f.payload.length := by simp [hpayload]
  by_cases hgood : 1 ≤ slot.toNat ∧ slot.toNat ≤ 4 <;> by_cases hreader : r.toNat ≤ 1 <;> simp [hgood, hreader, hlength]

theorem passDeposit {d1 d0 : Byte} {more : List Byte} (hkind : f.kind = 0x12#8)
    (hpayload : f.payload = slot :: d1 :: d0 :: more) :
    s.passFrame i f age = if 1 ≤ slot.toNat ∧ slot.toNat ≤ 4 then
        s.depositDone (containerOf i slot.toNat) (d1.toNat * 256 + d0.toNat)
      else s := by
  have hslot : slotAt f.payload 0 = if 1 ≤ slot.toNat ∧ slot.toNat ≤ 4 then some slot.toNat else none := by
    simp [slotAt, byteAt, hpayload]
  have hcount : field f.payload 1 2 = d1.toNat * 256 + d0.toNat := by simp [field, ofBe, hpayload]
  rw [passFrame_item (by rw [hkind]; decide), State.passItem, hkind]
  have hlength : 3 ≤ f.payload.length := by simp [hpayload]
  by_cases hgood : 1 ≤ slot.toNat ∧ slot.toNat ≤ 4 <;> simp [parseItem, hslot, hcount, hgood, hlength]

theorem passEcho {t1 t0 q temperature : Byte} {more : List Byte} (hkind : f.kind = 0x13#8)
    (hpayload : f.payload = slot :: t1 :: t0 :: q :: temperature :: more) :
    s.passFrame i f age = if (1 ≤ slot.toNat ∧ slot.toNat ≤ 4) ∧ q.toNat ≤ 15 then
        s.echoSample (containerOf i slot.toNat) (min 25000 (t1.toNat * 256 + t0.toNat)) q.toNat temperature.toInt
      else s := by
  have hslot : slotAt f.payload 0 = if 1 ≤ slot.toNat ∧ slot.toNat ≤ 4 then some slot.toNat else none := by
    simp [slotAt, byteAt, hpayload]
  have htime : field f.payload 1 2 = t1.toNat * 256 + t0.toNat := by simp [field, ofBe, hpayload]
  have hquality : field f.payload 3 1 = q.toNat := by simp [field, ofBe, hpayload]
  rw [passFrame_item (by rw [hkind]; decide), State.passItem, hkind]
  have hlength : 5 ≤ f.payload.length := by simp [hpayload]
  have htemperature : byteAt f.payload 4 = temperature := by simp [byteAt, hpayload]
  by_cases hgood : 1 ≤ slot.toNat ∧ slot.toNat ≤ 4 <;> by_cases hq : q.toNat ≤ 15 <;>
    simp [parseItem, parseEcho, hslot, htime, hquality, hgood, hq, hlength, htemperature]

theorem passLiftBegun {more : List Byte} (hkind : f.kind = 0x14#8) (hpayload : f.payload = slot :: more) :
    s.passFrame i f age = if 1 ≤ slot.toNat ∧ slot.toNat ≤ 4 then s.liftBegun i (containerOf i slot.toNat) else s := by
  have hslot : slotAt f.payload 0 = if 1 ≤ slot.toNat ∧ slot.toNat ≤ 4 then some slot.toNat else none := by
    simp [slotAt, byteAt, hpayload]
  rw [passFrame_item (by rw [hkind]; decide), State.passItem, hkind]
  by_cases hgood : 1 ≤ slot.toNat ∧ slot.toNat ≤ 4 <;> simp [parseItem, hslot, hgood]

theorem passLiftEnded {tipped : Byte} {more : List Byte} (hkind : f.kind = 0x15#8)
    (hpayload : f.payload = slot :: tipped :: more) :
    s.passFrame i f age = if (1 ≤ slot.toNat ∧ slot.toNat ≤ 4) ∧ tipped.toNat ≤ 1 then
        s.liftEnded i (containerOf i slot.toNat) (decide (tipped = 1#8))
      else s := by
  have hslot : slotAt f.payload 0 = if 1 ≤ slot.toNat ∧ slot.toNat ≤ 4 then some slot.toNat else none := by
    simp [slotAt, byteAt, hpayload]
  have htipped : byteAt f.payload 1 = tipped := by simp [byteAt, hpayload]
  rw [passFrame_item (by rw [hkind]; decide), State.passItem, hkind]
  have hlength : 2 ≤ f.payload.length := by simp [hpayload]
  by_cases hgood : 1 ≤ slot.toNat ∧ slot.toNat ≤ 4 <;> by_cases ht : tipped.toNat ≤ 1 <;>
    simp [parseItem, hslot, htipped, yesNo_eq, hgood, ht, hlength]

/-- A payload too short for its kind reaches no consumer. -/
theorem passFrame_short {kind : Byte} {length : Nat} (hq : (kind, length) ∈
    [(0x11#8, 6), (0x12#8, 3), (0x13#8, 5), (0x14#8, 1), (0x15#8, 2)]) (hkind : f.kind = kind)
    (hshort : f.payload.length < length) : s.passFrame i f age = s := by
  have hitem : f.kind ≠ 0x16#8 := by
    rintro h
    rw [hkind] at h
    subst h
    simp at hq
  rw [passFrame_item hitem]
  refine passItem_none ?_
  simp only [List.mem_cons, Prod.mk.injEq, List.not_mem_nil, or_false] at hq
  obtain ⟨rfl, rfl⟩ | ⟨rfl, rfl⟩ | ⟨rfl, rfl⟩ | ⟨rfl, rfl⟩ | ⟨rfl, rfl⟩ := hq <;> rw [hkind]
  · show parseCard f.payload = none
    unfold parseCard
    split
    · exact if_neg (by omega)
    · rfl
  · show (match slotAt f.payload 0 with
      | some slot => if 3 ≤ f.payload.length then some (Item.deposit slot (field f.payload 1 2)) else none
      | none => none) = none
    split
    · exact if_neg (by omega)
    · rfl
  · show parseEcho f.payload = none
    unfold parseEcho
    split
    · exact if_neg (fun h => by omega)
    · rfl
  · show (slotAt f.payload 0).map Item.liftBegun = none
    rw [slotAt_none (by omega)]
    rfl
  · show (match slotAt f.payload 0, yesNo (byteAt f.payload 1) with
      | some slot, some tipped => if 2 ≤ f.payload.length then some (Item.liftEnded slot tipped) else none
      | _, _ => none) = none
    split
    · exact if_neg (by omega)
    · rfl

end

/-! ### The answer to a POLL (R8 to R11) -/

theorem isItemKind_iff (k : Byte) : isItemKind k = true ↔ k ∈ [0x11#8, 0x12#8, 0x13#8, 0x14#8, 0x15#8, 0x17#8] := by
  have hcodes : isItemKind k = true ↔ 0x11 ≤ k.toNat ∧ k.toNat ≤ 0x17 ∧ k ≠ 0x16#8 := by
    simp only [isItemKind, Bool.and_eq_true, decide_eq_true_eq, and_assoc]
    rfl
  rw [hcodes]
  simp only [List.mem_cons, List.not_mem_nil, or_false]
  constructor
  · rintro ⟨hlow, hhigh, hne⟩
    bv_omega
  · rintro (rfl | rfl | rfl | rfl | rfl | rfl) <;> decide

theorem watch_goodFrame (s : State) (i : Nat) : (s.goodFrame i).watch = s.watch := by
  have hrevived : ∀ (u : State) (r : BarReason), (u.removeBars i r).watch = u.watch := fun u r =>
    (State.barsOnly.removeBars u i r).watch
  rw [goodFrame_eq]
  split_ifs <;> simp [hrevived]

theorem onlyChose_refusedPassesWatch (s : State) (i : Nat) (f : Frame) : s.onlyChose (s.refusedPassesWatch i f) := by
  unfold State.refusedPassesWatch
  dsimp only
  split
  · exact onlyChose_captureIf s i f
  · exact onlyChose_trans (onlyChose_captureIf s i f) (onlyChose_beginHold _ _ _ _)
  · exact onlyChose_trans (onlyChose_captureIf s i f) (onlyChose_beginHold _ _ _ _)

section
variable {s : State} {l : Line} {t : Turn} {f : Frame}

theorem pollAnswer_status (h : f.kind = 0x16#8) : s.pollAnswer l t f =
    ((s.oweAccept t.station true).passWatch t.station f).endTurn l t.station := if_pos h

theorem pollAnswer_item (h : isItemKind f.kind = true) : s.pollAnswer l t f = (s.itemAnswer t.station f).endTurn l t.station := by
  have hkind : f.kind ≠ 0x16#8 := by
    intro h'
    rw [h'] at h
    exact absurd h (by decide)
  exact (if_neg hkind).trans (if_pos h)

theorem pollAnswer_other (hitem : ¬isItemKind f.kind = true) (hstatus : f.kind ≠ 0x16#8) :
    s.pollAnswer l t f = s.nonAnswer l t := (if_neg hstatus).trans (if_neg hitem)

theorem itemAnswer_repeated {i : Nat} (h : (s.station i).lastItem = some f.tag.toNat) :
    s.itemAnswer i f = s.oweAccept i true := if_pos h

theorem itemAnswer_refused {i : Nat} (hnew : (s.station i).lastItem ≠ some f.tag.toNat)
    (hfull : f.kind = 0x17#8 ∧ 8 ≤ s.centerPlaces) :
    s.itemAnswer i f = (s.oweAccept i false).refusedPassesWatch i f := (if_neg hnew).trans (if_pos hfull)

theorem itemAnswer_taken {i : Nat} (hnew : (s.station i).lastItem ≠ some f.tag.toNat)
    (hroom : ¬(f.kind = 0x17#8 ∧ 8 ≤ s.centerPlaces)) :
    s.itemAnswer i f = (s.updStation i (fun k =>
      { k with lastItem := some f.tag.toNat, acceptOwed := true })).passWatch i f := (if_neg hnew).trans (if_neg hroom)

theorem takeAnswer_poll (h : t.exchange.what = .poll) : s.takeAnswer l t f = (s.goodFrame t.station).pollAnswer l t f :=
  if_pos h

theorem takeAnswer_other (hpoll : t.exchange.what ≠ .poll) (hkind : f.kind ≠ 0x05#8) :
    s.takeAnswer l t f = (s.goodFrame t.station).nonAnswer l t := by
  unfold State.takeAnswer
  dsimp only
  rw [if_neg hpoll]
  exact if_neg hkind

theorem nonAnswer_poll (h : t.exchange.what = .poll) : s.nonAnswer l t =
    ((s.updStation t.station (fun k => { k with acceptOwed := false })).holdIf t.station t.exchange.holdAfter).endTurn l
      t.station := by
  unfold State.nonAnswer
  rw [if_pos h]
  rfl

theorem nonAnswer_command (h : t.exchange.what ≠ .poll) : s.nonAnswer l t =
    (s.holdIf t.station t.exchange.holdAfter).endTurn l t.station := by
  unfold State.nonAnswer
  rw [if_neg h]

end

/-- Settles O19: by the kinds of an answer, and for the consumers by the bytes of each item. -/
theorem pollIsAnswered : Obligations.PollIsAnswered := by
  refine ⟨fun s l t f bytes h hgood hdst hsrc hpoll => ?_, fun s l t f bytes h hgood hdst hsrc hpoll hkind hhold => ?_,
    fun s i age f => ?_⟩
  · intro v isItem repeated refused
    have hitems : isItem ↔ isItemKind f.kind = true := (isItemKind_iff f.kind).symm
    refine ⟨v.pollAnswer l t f, ?_, ?_⟩
    · rw [exec_lineFrameReceived_of h, State.frameArrives_good hgood hdst hsrc, takeAnswer_poll hpoll]
    have hrepeated : isItem → repeated →
        v.pollAnswer l t f = (v.updStation t.station (fun k => { k with acceptOwed := true })).endTurn l t.station :=
      fun hitem hsame => by rw [pollAnswer_item (hitems.mp hitem), itemAnswer_repeated hsame]; rfl
    have hrefused : isItem → ¬repeated → refused → v.pollAnswer l t f =
        ((v.updStation t.station (fun k => { k with acceptOwed := false })).refusedPassesWatch t.station f).endTurn l
          t.station := fun hitem hnew hfull => by rw [pollAnswer_item (hitems.mp hitem), itemAnswer_refused hnew hfull]; rfl
    have htaken : isItem → ¬repeated → ¬refused → v.pollAnswer l t f = ((v.updStation t.station (fun k =>
        { k with lastItem := some f.tag.toNat, acceptOwed := true })).passWatch t.station f).endTurn l t.station :=
      fun hitem hnew hroom => by rw [pollAnswer_item (hitems.mp hitem), itemAnswer_taken hnew hroom]
    have hother : ¬isItem → f.kind ≠ 0x16#8 → v.pollAnswer l t f =
        ((v.updStation t.station (fun k => { k with acceptOwed := false })).holdIf t.station t.exchange.holdAfter).endTurn l
          t.station := fun hitem hstatus => by
      rw [pollAnswer_other (fun hkind => hitem (hitems.mpr hkind)) hstatus, nonAnswer_poll hpoll]
    refine ⟨fun hitem hsame => ?_, fun hitem hnew hfull => ?_, fun hitem hnew hroom => ?_, fun hstatus => ?_,
      fun hitem hstatus => ?_, hrepeated, hrefused, htaken, fun hstatus => pollAnswer_status hstatus,
      fun hitem hstatus hhold => ?_⟩
    · rw [hrepeated hitem hsame]
      exact onlyChose_endTurn _ _ _
    · rw [hrefused hitem hnew hfull]
      exact onlyChose_trans (onlyChose_refusedPassesWatch _ _ _) (onlyChose_endTurn _ _ _)
    · rw [htaken hitem hnew hroom]
      exact onlyChose_endTurn _ _ _
    · rw [pollAnswer_status hstatus]
      exact onlyChose_endTurn _ _ _
    · rw [hother hitem hstatus]
      exact onlyChose_trans (onlyChose_holdIf _ _ _) (onlyChose_endTurn _ _ _)
    · dsimp only
      rw [hother hitem hstatus, State.holdIf_of_kept (hhold.imp_right (fun hheld => ?_))]
      exact (congrArg Watch.state (watch_goodFrame s t.station)).trans hheld
  · rw [exec_lineFrameReceived_of h, State.frameArrives_good hgood hdst hsrc, takeAnswer_other hpoll hkind,
      nonAnswer_command hpoll, State.holdIf_of_kept (hhold.imp_right (fun hheld => ?_))]
    exact (congrArg Watch.state (watch_goodFrame s t.station)).trans hheld
  · intro u good place
    have hplace : ∀ slot : Byte, good slot → containerOf i slot.toNat = place slot := fun slot hslot =>
      containerOf_eq hslot.1 i
    refine ⟨fun r slot d1 d0 x1 x0 more hkind hpayload => ?_, fun slot d1 d0 more hkind hpayload => ?_,
      fun slot t1 t0 q temperature more hkind hpayload => ?_, fun slot more hkind hpayload => ?_,
      fun slot tipped more hkind hpayload => ?_, fun q hq hkind hshort => passFrame_short hq hkind hshort, fun hkind => ?_,
      fun b more hkind hpayload => ?_, fun hkind hpayload => ?_⟩
    · have hu : u = _ := passCard hkind hpayload
      refine ⟨fun hreader hgood => ?_, fun hbad => hu.trans (if_neg (fun h => hbad h.symm))⟩
      rw [hu, if_pos ⟨hgood, hreader⟩, hplace slot hgood]
    · have hu : u = _ := passDeposit hkind hpayload
      refine ⟨fun hgood => ?_, fun hbad => hu.trans (if_neg hbad)⟩
      rw [hu, if_pos hgood, hplace slot hgood]
    · have hu : u = _ := passEcho hkind hpayload
      refine ⟨fun hgood hq => ?_, fun hbad => hu.trans (if_neg hbad)⟩
      rw [hu, if_pos ⟨hgood, hq⟩, hplace slot hgood]
    · have hu : u = _ := passLiftBegun hkind hpayload
      refine ⟨fun hgood => ?_, fun hbad => hu.trans (if_neg hbad)⟩
      rw [hu, if_pos hgood, hplace slot hgood]
    · have hu : u = _ := passLiftEnded hkind hpayload
      refine ⟨fun hgood ht => ?_, fun hbad => hu.trans (if_neg hbad)⟩
      rw [hu, if_pos ⟨hgood, ht⟩, hplace slot hgood]
    · have hparse : parseItem f.kind f.payload = some (.maint f.payload) := by rw [hkind]; rfl
      show s.passFrame i f age = _
      rw [passFrame_item (by rw [hkind]; decide), State.passItem, hparse]
      rfl
    · show s.passFrame i f age = _
      rw [passFrame_status hkind, State.passStatus, hpayload]
      rfl
    · show s.passFrame i f age = _
      rw [passFrame_status hkind, State.passStatus, hpayload]

/-! ### Received frames at the watch (R167 to R170) -/

section
variable {s : State} {i : Nat} {f : Frame}

theorem passWatch_eq (s : State) (i : Nat) (f : Frame) : s.passWatch i f = match s.verdict i f with
    | .goOn => (s.captureIf i f).passFrame i f 0
    | .holdAfter => ((s.captureIf i f).passFrame i f 0).beginHold i none 1
    | .holdBefore => (s.captureIf i f).beginHold i (some (s.parkReceived i f)) 2 := by
  unfold State.passWatch
  rfl

theorem passWatch_of_not_matches (h : s.watch.matches i f = false) : s.passWatch i f = s.passFrame i f 0 := by
  rw [passWatch_eq, verdict_of_not_matches s i f h, captureIf_of_not_matches s i f h]

theorem holdFree_of_held (h : s.watch.state = .held) : s.holdFree = false := by
  simp [State.holdFree, h]

theorem refusedPassesWatch_eq (s : State) (i : Nat) (f : Frame) : s.refusedPassesWatch i f = match s.verdict i f with
    | .goOn => s.captureIf i f
    | .holdAfter => (s.captureIf i f).beginHold i none 1
    | .holdBefore => (s.captureIf i f).beginHold i none 2 := by
  unfold State.refusedPassesWatch
  rfl

end

theorem watch_beginHold (s : State) (i : Nat) (p : Option Parked) (v : Nat) : (s.beginHold i p v).watch =
    { s.watch with state := .held, held := some i, parked := p, stepMark := none, pass := none,
                   timeoutLeft := some s.params.holdTimeout } := (holdBegun_beginHold s i p v).2.1

theorem endTurn_beginHold (s : State) (i : Nat) (p : Option Parked) (v : Nat) (l : Line) :
    (s.beginHold i p v).endTurn l i = ((s.beginHold i p v).clearTurn l).kick l :=
  endTurn_unmarked (by simp [watch_beginHold]) l

theorem holdIf_begins {s : State} {i : Nat} {b : Bool} (hb : b = true) (h : s.watch.state ≠ .held) :
    s.holdIf i b = s.beginHold i none 1 := if_pos ⟨hb, h⟩

theorem watch_acked (s : State) (i : Nat) (what : Sent) : (s.acked i what).watch = s.watch := by
  cases what with
  | inlet _ | sample _ | poll => rfl
  | relay _ =>
    unfold State.acked
    cases lineOf i <;> rfl

/-- Settles O20: by the verdict on the frame, and by the hold that an exchange of a HOLD_AFTER match leaves at its end. -/
theorem watchLetsReceivedFramesThrough : Obligations.WatchLetsReceivedFramesThrough := by
  refine ⟨fun s i f => ⟨fun hoff => ?_, passWatch_of_not_matches, fun hmatches hkept => ?_, fun hmatches hafter hfree => ?_,
      fun hmatches hbefore hfree => ?_⟩, fun s l t bytes h hafter hpoll hheld => ?_, fun s i f => ?_,
    fun s l t f bytes h hgood hdst hsrc hpoll hkind => ?_, fun s l i hmark => ?_, fun s l t h hpoll hafter => ?_⟩
  · exact passWatch_of_not_matches (by simp [Watch.matches, hoff])
  · have hverdict : s.verdict i f = .goOn := hkept.elim (fun hcapture => verdict_goOn s i f (Or.inr (Or.inl hcapture)))
      (fun hheld => verdict_of_not_free s i f (holdFree_of_held hheld))
    rw [passWatch_eq, hverdict, captureIf_of_matches s i f hmatches]
    rfl
  · rw [passWatch_eq, verdict_of_free s i f hmatches hfree, hafter, captureIf_of_matches s i f hmatches]
    exact holdBegun_beginHold _ i none 1
  · intro u
    have hu : u = (s.updWatch (fun _ => s.watch.capture i f s.clock.time)).beginHold i
        (some { station := i, frame := f, how := .received, received := s.clock.time, age := 0 }) 2 := by
      show s.passWatch i f = _
      rw [passWatch_eq, verdict_of_free s i f hmatches hfree, hbefore, captureIf_of_matches s i f hmatches]
      rfl
    obtain ⟨hframe, hwatch, ⟨hflag, hlast⟩, -⟩ := holdBegun_beginHold
      (s.updWatch (fun _ => s.watch.capture i f s.clock.time)) i
      (some { station := i, frame := f, how := .received, received := s.clock.time, age := 0 }) 2
    rw [← hu] at hframe hwatch hflag hlast
    refine ⟨hwatch, ?_, hlast, hflag⟩
    have hsame := congrArg (fun x : State => { x with watch := s.watch }) hframe
    exact hsame
  · intro ends
    have hends : ∀ (cmd : Instr) (v : State), v.watch.state ≠ .held →
        exec cmd s = .next ((v.holdIf t.station t.exchange.holdAfter).endTurn l t.station) → ends cmd v :=
      fun cmd v hv hcmd => ⟨_, holdBegun_beginHold v t.station none 1, by
        rw [hcmd, holdIf_begins hafter hv, endTurn_beginHold]⟩
    have hmiss : (s.miss t.station).watch.state ≠ .held := by rwa [watch_miss]
    have hfailed : s.exchangeFailed l t = ((s.miss t.station).holdIf t.station t.exchange.holdAfter).endTurn l t.station := by
      unfold State.exchangeFailed
      rw [if_neg hpoll]
    refine ⟨hends _ _ hmiss ?_, fun hbad => hends _ _ hmiss ?_, fun f hgood hdst hsrc => ⟨fun hack => ?_, fun hother => ?_⟩⟩
    · rw [exec_responseWindowExpired_of h, hfailed]
    · rw [exec_lineFrameReceived_of h, State.frameArrives_bad hbad, hfailed]
    · have hstate : ((s.goodFrame t.station).acked t.station t.exchange.what).watch.state ≠ .held := by
        rwa [watch_acked, watch_goodFrame]
      refine hends _ _ hstate ?_
      rw [exec_lineFrameReceived_of h, State.frameArrives_good hgood hdst hsrc, takeAnswer_ack hack hpoll, ackReceived_eq,
        if_pos ⟨hafter, hstate⟩, holdIf_begins hafter hstate]
    · have hstate : (s.goodFrame t.station).watch.state ≠ .held := by rwa [watch_goodFrame]
      refine hends _ _ hstate ?_
      rw [exec_lineFrameReceived_of h, State.frameArrives_good hgood hdst hsrc, takeAnswer_other hpoll hother,
        nonAnswer_command hpoll]
  · intro u captured
    have hu : u = _ := refusedPassesWatch_eq s i f
    refine ⟨fun hno => ?_, fun hmatches => ⟨fun hkept => ?_, fun hafter hfree => ?_, fun hbefore hfree => ?_⟩⟩
    · rw [hu, verdict_of_not_matches s i f hno, captureIf_of_not_matches s i f hno]
    · have hverdict : s.verdict i f = .goOn := verdict_goOn s i f (by tauto)
      rw [hu, hverdict, captureIf_of_matches s i f hmatches]
      rfl
    · rw [hu, verdict_of_free s i f hmatches hfree, hafter, captureIf_of_matches s i f hmatches]
      exact holdBegun_beginHold _ i none 1
    · rw [hu, verdict_of_free s i f hmatches hfree, hbefore, captureIf_of_matches s i f hmatches]
      exact holdBegun_beginHold _ i none 2
  · intro v hnew hfull
    rw [exec_lineFrameReceived_of h, State.frameArrives_good hgood hdst hsrc, takeAnswer_poll hpoll,
      pollAnswer_item (by rw [hkind]; decide), itemAnswer_refused hnew ⟨hkind, hfull⟩]
    rfl
  · refine ⟨(s.clearTurn l).beginHold i none (rehold s.watch.action), rehold s.watch.action, holdBegun_beginHold _ i none _, ?_,
      fun h => by rw [h]; rfl, fun h => by rw [h]; rfl⟩
    have hmarked : (s.clearTurn l).watch.stepMark = some i := by rw [watch_clearTurn]; exact hmark
    unfold State.endTurn State.stepRehold
    rw [if_pos hmarked, watch_clearTurn]
  · refine ⟨?_, watch_miss s t.station⟩
    rw [exec_responseWindowExpired_of h]
    unfold State.exchangeFailed
    rw [if_neg hpoll]
    dsimp only
    rw [State.holdIf_of_kept (Or.inl hafter)]

end Sys2Proof.Machine
end

section
/-! PROOFS. How holds end (R173 to R176): the parked frame dealt with, the station released, the lines choosing. -/

namespace Sys2Proof.Machine

/-! ### The receive buffer stands at every event but a request's own -/

theorem small_rx (k : List Frame) : Small (fun t => t.link.rx = k) where
  fillOnly := fun _ _ _ _ _ _ h => h
  setStatus := fun s c st n h => by
    obtain ⟨_, _, htouches⟩ := setStatus_touches s c st n
    rw [htouches]
    exact h
  setForced := fun _ _ _ h => h
  setMissed := fun _ _ h => h
  clearMarks := fun _ _ h => h
  station := fun _ _ _ _ h => h
  card := fun _ _ _ _ h => h
  household := fun _ _ _ _ h => h
  round := fun _ _ _ _ h => h
  appendStop := fun _ _ _ _ _ _ h => h
  rounds := fun _ _ _ _ h => h
  planner := fun _ _ _ h => h
  watch := fun _ _ _ h => h
  line := fun s l f _ h => by rw [s.updLine_link l f]; exact h
  journal := fun _ _ h => h
  raise := fun s n a v h => by
    obtain ⟨_, _, htouches⟩ := raise_touches s n a v
    rw [htouches]
    exact h
  toCenter := fun _ _ _ _ h => h
  takeParked := fun _ _ _ _ h => h
  containers := fun _ _ _ _ _ h => h
  container := fun _ _ _ _ _ h => h

theorem acts_rx (k : List Frame) : Acts (fun t => t.link.rx = k) := Acts.of_small (small_rx k)

theorem rx_passFrame (s : State) (i : Nat) (f : Frame) (age : Nat) : (s.passFrame i f age).link.rx = s.link.rx := by
  by_cases hmaint : f.kind = 0x17#8
  · have hparse : parseItem f.kind f.payload = some (.maint f.payload) := by rw [hmaint]; rfl
    rw [passFrame_item (by rw [hmaint]; decide), State.passItem, hparse]
    rfl
  · exact (acts_rx s.link.rx).passFrame rfl i f age (fun h => absurd h hmaint)

theorem rx_kickBoth (s : State) : s.kickBoth.link.rx = s.link.rx := (acts_rx s.link.rx).kickBoth rfl

theorem relay_filter_eq (relay : List RelayEntry) (n : Nat) :
    relay.filter (fun e => !(e.number == n)) = relay.filter (fun e => decide (e.number ≠ n)) := by
  congr 1
  funext e
  simp [beq_eq_decide]

/-! ### The parked frame dealt with (R173, R175) -/

section
variable {s : State} (mode : ResumeMode)

theorem dealParked_none (h : s.watch.parked = none) :
    s.dealParked mode = (s.updWatch (fun w => { w with parked := none }), .noFrame) := by
  simp only [State.dealParked, h]

variable {p : Parked} (hp : s.watch.parked = some p)
include hp

theorem dealParked_some : s.dealParked mode =
    if mode = .discard then (s.updWatch (fun w => { w with parked := none })).discardParked p
    else (s.updWatch (fun w => { w with parked := none })).resumeParked p := by
  simp only [State.dealParked, hp]

theorem dealParked_received (hhow : p.how = .received) : s.dealParked mode =
    if mode = .discard then (s.updWatch (fun w => { w with parked := none }), .dropped)
    else ((s.updWatch (fun w => { w with parked := none })).passFrame p.station p.frame p.age, .actedOn) := by
  rw [dealParked_some mode hp]
  simp only [State.discardParked, State.resumeParked, hhow]

theorem dealParked_passed {what : Sent} (hhow : p.how = .toSend what)
    (hpasses : mode ≠ .discard ∨ ∀ n, what ≠ .relay n) : s.dealParked mode =
    ((s.updWatch (fun w => { w with parked := none })).updWatch (fun w =>
      { w with pass := some { station := p.station, what := what } }), .passGiven) := by
  rw [dealParked_some mode hp]
  split
  next hdiscard =>
    have hrelay := hpasses.resolve_left (fun hne => hne hdiscard)
    cases what with
    | relay n => exact absurd rfl (hrelay n)
    | inlet _ | sample _ | poll => simp only [State.discardParked, hhow, State.givePass]
  · simp only [State.resumeParked, hhow, State.givePass]

theorem dealParked_removed {n : Nat} (hhow : p.how = .toSend (.relay n)) : s.dealParked .discard =
    ((s.updWatch (fun w => { w with parked := none })).updLine (lineOf p.station) (fun d =>
      { d with relay := d.relay.filter (fun e => decide (e.number ≠ n)) }), .removed) := by
  rw [dealParked_some .discard hp, if_pos rfl]
  simp only [State.discardParked, hhow, relay_filter_eq]

end

/-! ### WATCH_RESUME (R173, R174) -/

/-- The three rows of WATCH_RESUME, by the mode each takes. -/
theorem resumeRow_mode {q : Byte × Instr}
    (hq : q ∈ [(0x00#8, Instr.watchResumeContinue), (0x01#8, .watchResumeStep), (0x02#8, .watchResumeDiscard)]) :
    ∃ mode, (∀ s, exec q.2 s = .next (s.handleOldest (resumeRow mode) (busyWhileLoading watchResumeBody))) ∧
      ResumeMode.ofCode q.1.toNat = some mode ∧ (mode = .step ↔ q.1 = 0x01#8) ∧ (mode = .discard ↔ q.1 = 0x02#8) := by
  simp only [List.mem_cons, List.not_mem_nil, or_false] at hq
  obtain rfl | rfl | rfl := hq
  · exact ⟨.continue, fun _ => rfl, rfl, by decide, by decide⟩
  · exact ⟨.step, fun _ => rfl, rfl, by decide, by decide⟩
  · exact ⟨.discard, fun _ => rfl, rfl, by decide, by decide⟩

section
variable {s : State} {f : Frame} {rest : List Frame} (ht : s.takes f rest)
include ht

/-- A row of WATCH_RESUME that takes the frame: the body's state with the reply. -/
theorem handleResume {t : State} {a : Answer} {mode : ResumeMode} {o : List Byte} (hf : f.asks 0x15#8 o)
    (hmine : resumeRow mode f = true) (hb : watchResumeBody f (s.dropFrame rest) = (t, a)) :
    s.handleOldest (resumeRow mode) (busyWhileLoading watchResumeBody) =
      t.withReply (f.reply 0x22#8 (BitVec.ofNat 8 a.result.code) 0x15#8 a.data) := by
  have hphase : (s.dropFrame rest).part.phase = .running := ht.1
  have hrequest : requestOf f = .watchResume := requestOf_asks hf
  have hbody : busyWhileLoading watchResumeBody f (s.dropFrame rest) = (t, a) := by simp [busyWhileLoading, hphase, hb]
  rw [State.handleOldest_of ht.mayHandle ht.2.1 hmine hbody, replyKind_eq, hrequest, replyCode_asks hf]
  rfl

end

theorem withReply_answered {t : State} {f : Frame} {rest : List Frame} (h : t.link.rx = rest) (result code : Byte)
    (data : List Byte) : t.withReply (f.reply 0x22#8 result code data) = t.answered f rest result code data := by
  subst h
  rfl

theorem resumeRow_of_length {mode : ResumeMode} {f : Frame} {o : List Byte} (hf : f.asks 0x15#8 o) (ho : o.length ≠ 1) :
    resumeRow mode f = true := by
  have hrequest : requestOf f = .watchResume := requestOf_asks hf
  simp only [resumeRow, hrequest, decide_true, Bool.true_and, operandsOf_asks hf]
  split
  · simp at ho
  · rfl

theorem resumeMode_none {b : Byte} (h : 2 < b.toNat) : ResumeMode.ofCode b.toNat = none := by
  unfold ResumeMode.ofCode
  split <;> first | omega | rfl

/-- Settles O52: by what is parked and how, for each mode. -/
theorem holdsEnd : Obligations.HoldsEnd := by
  refine ⟨fun s f rest ht q hq => ?_, fun s i hphase hheld hleft => ?_⟩
  · obtain ⟨mode, hexec, hcode, hstep, hdiscard⟩ := resumeRow_mode hq
    have hno : ∀ (o : List Byte) (r : Result), f.asks 0x15#8 o → resumeRow mode f = true →
        watchResumeBody f (s.dropFrame rest) = (s.dropFrame rest, replyOnly r) →
        exec q.2 s = .next (s.answered f rest (BitVec.ofNat 8 r.code) 0x15#8 []) := fun o r hf hmine hb => by
      rw [hexec, handleResume ht hf hmine hb]
      rfl
    refine ⟨fun o hf ho => hno o .badLength hf (resumeRow_of_length hf ho) ?_, fun b hf hb => hno [b] .badValue hf ?_ ?_,
      fun hf => ?_⟩
    · simp only [watchResumeBody, operandsOf_asks hf]
      exact if_pos ho
    · simp [resumeRow, requestOf_asks hf, operandsOf_asks hf, resumeMode_none hb]
      rfl
    · have hfield : field [b] 0 1 = b.toNat := ofBe_one b
      simp [watchResumeBody, operandsOf_asks hf, hfield, resumeMode_none hb]
    · intro mark v free done
      have hmine := resumeRow_own hf hcode
      have hfield : field [q.1] 0 1 = q.1.toNat := ofBe_one q.1
      have hbody : ∀ u : State, watchResumeBody f u = match u.watch.held with
          | some i => if u.watch.state = .held then ((u.resume mode i).1, replyWith .ok (be 1 (u.resume mode i).2.code))
            else (u, replyOnly .badState)
          | none => (u, replyOnly .badState) := fun u => by
        simp [watchResumeBody, operandsOf_asks hf, hfield, hcode] <;> rfl
      refine ⟨fun hfree => hno [q.1] .badState hf hmine ?_, fun i hheld hi => ?_⟩
      · rw [hbody]
        split
        · exact if_neg hfree
        · rfl
      have hdone : ∀ (w : State) (out : ResumeOutcome), (s.dropFrame rest).dealParked mode = (w, out) → w.link.rx = rest →
          exec q.2 s = .next (done (free w i) (BitVec.ofNat 8 out.code)) := fun w out hdeal hrx => by
        have hmark : (if mode = .step then some i else none) = mark i := by
          simp only [mark, hstep]
        have hresume : (s.dropFrame rest).resume mode i = ((free w i).kickBoth, out) := by
          simp only [State.resume, hdeal, hmark]
          rfl
        have hb : watchResumeBody f (s.dropFrame rest) = ((free w i).kickBoth, replyWith .ok (be 1 out.code)) := by
          rw [hbody, show (s.dropFrame rest).watch.held = some i from hi]
          dsimp only
          rw [if_pos (show (s.dropFrame rest).watch.state = .held from hheld), hresume]
        rw [hexec, handleResume ht hf hmine hb, withReply_answered ((rx_kickBoth (free w i)).trans hrx)]
        cases out <;> rfl
      refine ⟨fun hnone => hdone v .noFrame (dealParked_none mode hnone) rfl, fun p hp hhow => ⟨fun hpasses => ?_, fun hdrops => ?_⟩,
        fun p what hp hhow => ⟨fun hpasses => ?_, fun n hremoves hwhat => ?_⟩⟩
      · refine hdone (v.passFrame p.station p.frame p.age) .actedOn ?_ (rx_passFrame v _ _ _)
        rw [dealParked_received mode (s := s.dropFrame rest) hp hhow, if_neg (fun h => hpasses (hdiscard.mp h))]
        rfl
      · refine hdone v .dropped ?_ rfl
        rw [dealParked_received mode (s := s.dropFrame rest) hp hhow, if_pos (hdiscard.mpr hdrops)]
        rfl
      · exact hdone _ .passGiven (dealParked_passed mode (s := s.dropFrame rest) hp hhow
          (hpasses.imp_left (fun hne h => hne (hdiscard.mp h)))) rfl
      · refine hdone _ .removed ?_ (congrArg Endpoint.rx (State.updLine_link _ _ _))
        subst hwhat
        obtain rfl := hdiscard.mpr hremoves
        exact dealParked_removed (s := s.dropFrame rest) hp hhow
  · intro v after
    have hrun : ∀ w out, s.dealParked .continue = (w, out) → exec .holdTimeout s = .next (after w) := fun w out hdeal => by
      have hrunning : s.running = true := by simp [State.running, hphase]
      show Host.Outcome.next (if s.running then s.takeHold else s) = _
      rw [if_pos hrunning]
      simp only [State.takeHold, hheld, hleft, State.holdExpired, hdeal]
      rfl
    refine ⟨fun hnone => hrun v _ (dealParked_none .continue hnone), fun p hp hhow => hrun _ .actedOn ?_, fun p what hp hhow =>
      hrun _ _ (dealParked_passed .continue hp hhow (Or.inl (by decide)))⟩
    rw [dealParked_received .continue hp hhow]
    rfl

end Sys2Proof.Machine
end

section
/-! PROOFS. RUNNING is entered (R189, R190): the start values of every block, and the notices of a start. -/

namespace Sys2Proof.Machine

/-! ### The notices of a start (R190) -/

theorem announceStart_eq (s : State) : s.announceStart =
    if s.part.image = .corrupt then
      (s.raise .restarted (some s.part.cause.code) (if s.part.kind = .warm then 1 else 0)).raise .imageFault none 0
    else s.raise .restarted (some s.part.cause.code) (if s.part.kind = .warm then 1 else 0) := by
  unfold State.announceStart
  cases s.part.kind <;> rfl

theorem announceStart_touches (s : State) :
    ∃ cs q, s.announceStart = { s with classes := cs, link := { s.link with notices := q } } := by
  obtain ⟨_, _, hfirst⟩ := raise_touches s .restarted (some s.part.cause.code) (if s.part.kind = .warm then 1 else 0)
  rw [announceStart_eq, hfirst]
  split
  · obtain ⟨_, _, hsecond⟩ := raise_touches (s.raise .restarted (some s.part.cause.code)
      (if s.part.kind = .warm then 1 else 0)) .imageFault none 0
    rw [hfirst] at hsecond
    exact ⟨_, _, hsecond⟩
  · exact ⟨_, _, rfl⟩

theorem restarted_announceStart (s : State) :
    s.announceStart.told 1 (some s.part.cause.code) (if s.part.kind = .warm then 1 else 0) := by
  have htold := told_raise s .restarted (some s.part.cause.code) (if s.part.kind = .warm then 1 else 0)
  rw [announceStart_eq]
  split
  · unfold State.told at htold ⊢
    rw [noticeClass_raise _ .imageFault none 0 _ (by decide)]
    exact htold
  · exact htold

theorem imageFault_announceStart {s : State} (h : s.part.image = .corrupt) : s.announceStart.told 2 none 0 := by
  rw [announceStart_eq, if_pos h]
  exact told_raise _ .imageFault none 0

theorem noticeClass_announceStart (s : State) {n : Nat} (hone : n ≠ 1) (htwo : n ≠ 2 ∨ s.part.image ≠ .corrupt) :
    s.announceStart.noticeClass n = s.noticeClass n := by
  rw [announceStart_eq]
  split
  next hcorrupt =>
    rw [noticeClass_raise _ .imageFault none 0 n (htwo.resolve_right (fun h => h hcorrupt)),
      noticeClass_raise _ .restarted _ _ n hone]
  · exact noticeClass_raise _ .restarted _ _ n hone

/-- The part as RUNNING begins, before the start's notices (R189, R190). -/
def State.started (s : State) : State :=
  s.startValues.updPart (fun p => { p with phase := .running, openMode := p.strap && decide (p.image ≠ .valid) })

theorem exec_enterRunning {s : State} (h : s.part.phase = .loading) :
    exec .enterRunning s = .next s.started.announceStart.kickBoth := congrArg Host.Outcome.next (if_pos h)

theorem announceStart_started_touches (s : State) : ∃ cs q, s.started.announceStart =
    { s.startValues with classes := cs, link := { s.startValues.link with notices := q }, part := s.started.part } := by
  obtain ⟨_, _, htouches⟩ := announceStart_touches s.started
  exact ⟨_, _, htouches⟩

/-- Settles O60: the start values are read off record by record, and the notices of the start touch two classes. -/
theorem enterRunningTakesStartValues : Obligations.EnterRunningTakesStartValues := by
  intro s hcan
  refine ⟨fun hphase => congrArg Host.Outcome.next (if_neg hphase), fun hphase => ?_⟩
  have hwf := (State.canonical_iff s).mp hcan
  obtain ⟨_, _, htouches⟩ := announceStart_started_touches s
  have hstations : ∀ i, s.started.announceStart.station i = s.startValues.station i := fun i => by rw [htouches]; rfl
  have hcontainers : ∀ c, s.started.announceStart.container c = s.startValues.container c := fun c => by rw [htouches]; rfl
  have hrounds : ∀ r, s.started.announceStart.round r = s.startValues.round r := fun r => by rw [htouches]; rfl
  have hcards : ∀ i, s.started.announceStart.card i = s.startValues.card i := fun i => by rw [htouches]; rfl
  have hhouseholds : ∀ h, s.started.announceStart.household h = s.startValues.household h := fun h => by rw [htouches]; rfl
  have hclass : ∀ n, s.started.noticeClass n =
      { priority := (s.noticeClass n).priority, flag := false, overrun := false, last := none } :=
    fun n => noticeClass_startValues hwf.classes n
  obtain ⟨hflag, hlast⟩ := restarted_announceStart s.started
  refine ⟨s.started.announceStart, _, exec_enterRunning hphase, onlyChose_kickBoth _, by rw [htouches]; rfl, fun i hi => ?_,
    fun c hc => ?_, by rw [htouches]; rfl, by rw [htouches]; rfl, fun r hr => ?_, by rw [htouches]; rfl, by rw [htouches]; rfl,
    by rw [htouches]; rfl, by rw [htouches]; rfl, fun h => ?_, fun i => ?_, hflag, hlast, ?_, ?_, fun n hn => ?_⟩
  · rw [hstations, station_startValues, if_pos hi]
    rfl
  · rw [hcontainers, container_startValues, if_pos hc]
    exact ⟨rfl, rfl, rfl, rfl, rfl⟩
  · rw [hrounds, round_startValues, if_pos hr]
    refine ⟨rfl, rfl, rfl, rfl, ?_, ?_⟩
    · simp [Round.atStart]
    · simp [Round.atStart, Round.cfgStops, plannedStop]
  · rw [hhouseholds, household_startValues hwf.households]
  · rw [hcards, card_startValues hwf.cards]
  · by_cases hcorrupt : s.part.image = .corrupt
    · rw [(imageFault_announceStart (s := s.started) hcorrupt).1]
      simp [hcorrupt]
    · rw [noticeClass_announceStart s.started (by decide) (Or.inr hcorrupt), hclass]
      simp [hcorrupt]
  · by_cases hcorrupt : s.part.image = .corrupt
    · rw [(imageFault_announceStart (s := s.started) hcorrupt).2, if_pos hcorrupt]
    · rw [noticeClass_announceStart s.started (by decide) (Or.inr hcorrupt), hclass, if_neg hcorrupt]
  · rw [noticeClass_announceStart s.started (by omega) (Or.inl (by omega)), hclass]

end Sys2Proof.Machine
end

section
/-! PROOFS. Supplies, the RESET pin and the starts they make (R187, R188, R191): what the part holds as it enters LOADING. -/

namespace Sys2Proof.Machine

/-! ### The records of a part that has entered LOADING -/

section
variable (s : State) (kind : StartKind) (cause : StartCause) (levels : StartLevels)

/-- The configuration and the retained domain that the start takes over. -/
def State.loadedAt : State := s.loadedFor kind (s.foundAt cause levels)

theorem station_enterLoading (i : Nat) : (s.enterLoading kind cause levels).station i =
    if i < 32 then Station.start ((s.loadedAt kind cause levels).station i).cfg .unknown else Station.blank := by
  rw [enterLoading_eq]
  refine (station_stationsUnknown (s.loadedAt kind cause levels).startValues i).trans ?_
  rw [station_startValues]
  split <;> rfl

theorem container_enterLoading (c : Nat) : (s.enterLoading kind cause levels).container c =
    if c < 128 then Container.atStart c ((s.loadedAt kind cause levels).container c).cfg
      ((s.loadedAt kind cause levels).station (stationOf c)).cfg.enabled else Container.blank := by
  rw [enterLoading_eq]
  exact container_startValues (s.loadedAt kind cause levels) c

theorem round_enterLoading (r : Nat) : (s.enterLoading kind cause levels).round r =
    if r < 4 then ((s.loadedAt kind cause levels).round r).atStart else Round.blank := by
  rw [enterLoading_eq]
  exact round_startValues (s.loadedAt kind cause levels) r

variable {s} (hcan : s.canonical = true)
include hcan

theorem canonical_loadedAt : (s.loadedAt kind cause levels).Canonical :=
  ((State.canonical_iff s).mp hcan).loadedFor kind _

theorem card_enterLoading (i : Nat) : (s.enterLoading kind cause levels).card i =
    { (s.loadedAt kind cause levels).card i with lastSeen := none } := by
  rw [enterLoading_eq]
  exact card_startValues (canonical_loadedAt kind cause levels hcan).cards i

theorem household_enterLoading (h : Nat) : (s.enterLoading kind cause levels).household h =
    { (s.loadedAt kind cause levels).household h with held := PerFraction.zero } := by
  rw [enterLoading_eq]
  exact household_startValues (canonical_loadedAt kind cause levels hcan).households h

theorem noticeClass_enterLoading (n : Nat) : (s.enterLoading kind cause levels).noticeClass n =
    { NoticeClass.blank with priority := ((s.loadedAt kind cause levels).noticeClass n).priority } := by
  rw [enterLoading_eq]
  exact noticeClass_startValues (canonical_loadedAt kind cause levels hcan).classes n

end

/-! ### What a start loads -/

/-- The retained domain as the start leaves it: as it stands, or initialized by a cold start (R188). -/
def State.retainedFor (s : State) (kind : StartKind) : State :=
  if kind = .cold then s.abandonSave.initRetained else s.abandonSave

section
variable (s : State) {kind : StartKind} {cause : StartCause} {levels : StartLevels}

theorem loadedAt_valid (h : s.foundAt cause levels = .valid) :
    s.loadedAt kind cause levels = (s.retainedFor kind).loadImage := if_pos h

theorem loadedAt_defaults (h : s.foundAt cause levels ≠ .valid) :
    s.loadedAt kind cause levels = (s.retainedFor kind).loadDefaults := if_neg h

theorem params_loadImage : s.loadImage.params = loadedParams s.flash := rfl

/-- What a start does not load, it takes from the retained domain. -/
theorem loadedAt_keeps : (s.loadedAt kind cause levels).clock = (s.retainedFor kind).clock ∧
    (s.loadedAt kind cause levels).journal = (s.retainedFor kind).journal ∧
    (s.loadedAt kind cause levels).power = (s.retainedFor kind).power ∧
    (s.loadedAt kind cause levels).flash = (s.retainedFor kind).flash := by
  by_cases h : s.foundAt cause levels = .valid
  · rw [loadedAt_valid s h]
    exact ⟨rfl, rfl, rfl, rfl⟩
  · rw [loadedAt_defaults s h]
    exact ⟨rfl, rfl, rfl, rfl⟩

theorem retainedFor_warm : s.retainedFor .warm = s.abandonSave := rfl

theorem retainedFor_cold : s.retainedFor .cold = s.abandonSave.initRetained := rfl

theorem abandonSave_keeps : s.abandonSave.clock = s.clock ∧ s.abandonSave.journal = s.journal ∧
    s.abandonSave.households = s.households ∧ s.abandonSave.power = s.power ∧ s.abandonSave.lineA = s.lineA ∧
    s.abandonSave.lineB = s.lineB := by
  unfold State.abandonSave
  split <;> exact ⟨rfl, rfl, rfl, rfl, rfl, rfl⟩

theorem abandonSave_idle (h : s.part.saving = false) : s.abandonSave = s := if_neg (by simp [h])

theorem flash_retainedFor (kind : StartKind) : (s.retainedFor kind).flash = s.abandonSave.flash := by
  cases kind <;> rfl

/-- The counts of a household over a start, but for the held ones (R50, R188). -/
theorem household_loadedAt {s : State} (hcan : s.canonical = true) {h : Nat} (hh : h < 2048) :
    ((s.loadedAt kind cause levels).household h).used = ((s.retainedFor kind).household h).used ∧
      ((s.loadedAt kind cause levels).household h).epoch = ((s.retainedFor kind).household h).epoch := by
  have hwf : (s.retainedFor kind).Canonical := by
    have habandoned := ((State.canonical_iff s).mp hcan).abandonSave
    cases kind with
    | cold => exact habandoned.initRetained
    | warm => exact habandoned
  by_cases hvalid : s.foundAt cause levels = .valid
  · rw [loadedAt_valid s hvalid, household_loadImage, if_pos hh]
    exact ⟨rfl, rfl⟩
  · rw [loadedAt_defaults s hvalid, household_loadDefaults hwf.households]
    exact ⟨rfl, rfl⟩

theorem cfgStops_planned {d : Round} {l : List Nat} (h : d.stops = l.map plannedStop) : d.cfgStops = l := by
  simp [Round.cfgStops, h, List.filter_map, plannedStop, Function.comp_def]

/-- A round that a start loads from a configuration (R135). -/
theorem atStart_planned (cfg : RoundCfg) (l : List Nat) :
    ({ Round.blank with cfg := cfg, stops := l.map plannedStop } : Round).atStart =
      { cfg := cfg, stops := l.map plannedStop, state := if l.map plannedStop = [] then .free else .loaded
        requested := none, deadline := none, closing := none } := by
  have hstops := cfgStops_planned (d := { Round.blank with cfg := cfg, stops := l.map plannedStop }) (l := l) rfl
  simp only [Round.atStart, hstops, List.map_eq_nil_iff]

/-- A start from an image of a legal configuration holds that configuration (R185, R188, R50). -/
theorem configuredAs_enterLoading {s : State} (hcan : s.canonical = true) (hvalid : s.foundAt cause levels = .valid)
    {v : State} (hlegal : v.configLegal) (hstops : ∀ r, (v.round r).stopsLegal)
    (hflash : s.abandonSave.flash = Memory.ofBytes 0 v.storedImage) :
    (s.enterLoading kind cause levels).configuredAs v := by
  have hloaded := loadedAt_valid s (kind := kind) hvalid
  have hcells : (s.retainedFor kind).flash = Memory.ofBytes 0 v.storedImage := (flash_retainedFor s kind).trans hflash
  have hparams : (s.enterLoading kind cause levels).params = (s.loadedAt kind cause levels).params := rfl
  have hbank : ∀ i, (s.enterLoading kind cause levels).bank i = (s.loadedAt kind cause levels).bank i := fun _ => rfl
  have hfraction : ∀ f, (s.enterLoading kind cause levels).fraction f = (s.loadedAt kind cause levels).fraction f :=
    fun _ => rfl
  have hshape : ∀ i, (s.enterLoading kind cause levels).shape i = (s.loadedAt kind cause levels).shape i := fun _ => rfl
  refine ⟨?_, fun i hi => ?_, fun i hi => ?_, fun f => ?_, fun i hi => ?_, fun c hc => ?_, ?_, fun i h1 hi => ?_, fun h hh => ?_,
    fun r hr => ?_, fun n h1 hn => ?_⟩
  · rw [hparams, hloaded, params_loadImage, hcells, loadedParams_storedImage hlegal]
  · rw [station_enterLoading, if_pos hi, hloaded, station_loadImage, if_pos hi, hcells, loadedStation_storedImage hlegal hi]
    rfl
  · rw [hbank, hloaded, bank_loadImage, if_pos hi, hcells, loadedBank_storedImage hlegal hi]
  · rw [hfraction, hloaded, fraction_loadImage, if_pos (by cases f <;> decide), hcells,
      loadedFraction_storedImage hlegal f]
  · rw [hshape, hloaded, shape_loadImage, if_pos hi, hcells, loadedShape_storedImage hlegal hi]
  · rw [container_enterLoading, if_pos hc, hloaded, container_loadImage, if_pos hc, hcells,
      loadedContainer_storedImage hlegal hc]
    rfl
  · rw [card_enterLoading kind cause levels hcan, hloaded, card_loadImage, if_pos (by decide)]
    rfl
  · rw [card_enterLoading kind cause levels hcan, hloaded, card_loadImage, if_pos hi, hcells,
      loadedCard_storedImage hlegal h1 hi]
  · rw [household_enterLoading kind cause levels hcan, hloaded, household_loadImage, if_pos hh, hcells,
      loadedHousehold_storedImage hlegal hh]
  · rw [round_enterLoading, if_pos hr, hloaded, round_loadImage, if_pos hr, hcells,
      loadedRound_storedImage hlegal hr (hstops r)]
    have hplanned : ∀ stops : List Stop, stops.map (fun p =>
        ({ container := p.container, state := none, origin := .planned, doneTime := none } : Stop)) =
          (stops.map Stop.container).map plannedStop := fun stops => by simp [plannedStop]
    rw [atStart_planned]
    simp only [hplanned]
    rfl
  · rw [noticeClass_enterLoading kind cause levels hcan, hloaded, noticeClass_loadImage, if_pos (by omega),
      if_neg (by omega), hcells, loadedPriority_storedImage hlegal h1 hn]

end

/-- What a part holds as it enters LOADING. -/
theorem loadingFrom_enterLoading {s : State} (hcan : s.canonical = true) (kind : StartKind) (cause : StartCause)
    (levels : StartLevels) : s.loadingFrom (s.enterLoading kind cause levels) kind cause levels := by
  obtain ⟨hclock, hjournal, hpower, hflash⟩ := loadedAt_keeps s (kind := kind) (cause := cause) (levels := levels)
  obtain ⟨hclock', hjournal', hhouseholds', -, -, -⟩ := abandonSave_keeps s
  have hcells : (s.enterLoading kind cause levels).flash = s.abandonSave.flash := hflash.trans (flash_retainedFor s kind)
  have hfound : (if cause = .tablesClear then ImageState.blank
      else judge levels.flashResponds (s.enterLoading kind cause levels).flash) = s.foundAt cause levels := by
    rw [hcells]
    rfl
  have hclockAt : (s.enterLoading kind cause levels).clock = { (s.loadedAt kind cause levels).clock with pending := none } :=
    rfl
  have hjournalAt : (s.enterLoading kind cause levels).journal =
    { (s.loadedAt kind cause levels).journal with reserved := 0 } := rfl
  have hbank : ∀ i, (s.enterLoading kind cause levels).bank i = (s.loadedAt kind cause levels).bank i := fun _ => rfl
  have hfraction : ∀ f, (s.enterLoading kind cause levels).fraction f = (s.loadedAt kind cause levels).fraction f :=
    fun _ => rfl
  have hshape : ∀ i, (s.enterLoading kind cause levels).shape i = (s.loadedAt kind cause levels).shape i := fun _ => rfl
  unfold State.loadingFrom
  simp only [hfound]
  refine ⟨rfl, fun hsaving => by rw [hcells, abandonSave_idle s hsaving], rfl, rfl, rfl, rfl, rfl, rfl, rfl, rfl, fun c => ?_,
    fun i => ?_, fun h => ?_, fun hwarm => ⟨?_, ?_, fun h hh => ?_⟩, fun hcold => ⟨?_, ?_, ?_, fun h => ?_⟩,
    fun hvalid v hlegal hstops hv => configuredAs_enterLoading hcan hvalid hlegal hstops (hcells.symm.trans hv),
    fun hinvalid => ?_⟩
  · rw [container_enterLoading]
    split <;> exact ⟨rfl, rfl, rfl, rfl⟩
  · rw [card_enterLoading kind cause levels hcan]
  · rw [household_enterLoading kind cause levels hcan]
  · subst hwarm
    rw [hclockAt, hclock, retainedFor_warm, hclock']
  · subst hwarm
    rw [hjournalAt, hjournal, retainedFor_warm, hjournal']
  · subst hwarm
    obtain ⟨hused, hepoch⟩ := household_loadedAt (kind := .warm) (cause := cause) (levels := levels) hcan hh
    have hsame : (s.retainedFor .warm).household h = s.household h := by
      unfold State.household
      rw [retainedFor_warm, hhouseholds']
    rw [household_enterLoading .warm cause levels hcan]
    exact ⟨hused.trans (by rw [hsame]), hepoch.trans (by rw [hsame])⟩
  · subst hcold
    rw [hclockAt, hclock]
    rfl
  · subst hcold
    rw [hjournalAt, hjournal]
    rfl
  · subst hcold
    show (s.loadedAt .cold cause levels).power.marker = true
    rw [hpower]
    rfl
  · subst hcold
    rw [household_enterLoading .cold cause levels hcan]
    by_cases hh : h < 2048
    · exact household_loadedAt (kind := .cold) (cause := cause) (levels := levels) hcan hh
    · by_cases hvalid : s.foundAt cause levels = .valid
      · rw [loadedAt_valid s hvalid, household_loadImage, if_neg hh]
        exact ⟨rfl, rfl⟩
      · rw [loadedAt_defaults s hvalid, retainedFor_cold]
        exact ⟨rfl, rfl⟩
  · have hloaded := loadedAt_defaults s (kind := kind) hinvalid
    have hwf : (s.retainedFor kind).Canonical := by
      have habandoned := ((State.canonical_iff s).mp hcan).abandonSave
      cases kind with
      | cold => exact habandoned.initRetained
      | warm => exact habandoned
    refine ⟨?_, fun i => ?_, fun c => ?_, fun i => ?_, fun h => ?_, fun r => ?_, fun n => ?_, fun i => ?_, fun i => ?_, fun f => ?_⟩
    · show (s.loadedAt kind cause levels).params = _
      rw [hloaded]
      rfl
    · rw [station_enterLoading, hloaded]
      split <;> rfl
    · rw [container_enterLoading, hloaded]
      split <;> rfl
    · rw [card_enterLoading kind cause levels hcan, hloaded]
      rfl
    · rw [household_enterLoading kind cause levels hcan, hloaded, household_loadDefaults hwf.households]
    · rw [round_enterLoading, hloaded]
      split <;> rfl
    · rw [noticeClass_enterLoading kind cause levels hcan, hloaded]
      rfl
    · rw [hbank, hloaded]
      rfl
    · rw [hshape, hloaded]
      rfl
    · rw [hfraction, hloaded]
      rfl

/-! ### The events that stop and start the part (R187, R191) -/

theorem settle_mainLost (p : Power) : Power.settle { p with main := false } =
    { p with main := false, marker := p.marker && p.backup } := by
  cases p.backup <;> simp [Power.settle]

theorem settle_backupLost (p : Power) : Power.settle { p with backup := false } =
    { p with backup := false, marker := p.marker && p.main } := by
  cases p.main <;> simp [Power.settle]

/-- A stopped part: lines idle, no pending time, no requested start; journal and households kept (R21, R24, R186, R187). -/
theorem stopPart_stops (s : State) (power : Power) :
    let u := { s.stopPart with power := power }
    u.part.phase = .stopped ∧ u.power = power ∧ u.lineA.turn = none ∧ u.lineB.turn = none ∧
      u.clock = { s.clock with pending := none } ∧ u.journal = s.journal ∧ u.households = s.households ∧
      u.part.requested = none ∧ (s.part.saving = false → u.flash = s.flash) := by
  obtain ⟨hclock, hjournal, hhouseholds, -, -, -⟩ := abandonSave_keeps s
  refine ⟨rfl, rfl, rfl, rfl, ?_, hjournal, hhouseholds, rfl, fun hsaving => ?_⟩
  · show { s.abandonSave.clock with pending := none } = _
    rw [hclock]
  · show s.abandonSave.flash = _
    rw [abandonSave_idle s hsaving]

theorem power_stopPart (s : State) : s.stopPart.power = s.power := by
  obtain ⟨-, -, -, hpower, -, -⟩ := abandonSave_keeps s
  exact hpower

theorem power_enterLoading (s : State) (kind : StartKind) (cause : StartCause) (levels : StartLevels) :
    (s.enterLoading kind cause levels).power =
      { s.power with marker := if kind = .cold then true else s.power.marker, backup := levels.backupPresent } := by
  obtain ⟨-, -, hpower, -⟩ := loadedAt_keeps s (kind := kind) (cause := cause) (levels := levels)
  obtain ⟨-, -, -, hsame, -, -⟩ := abandonSave_keeps s
  show { (s.loadedAt kind cause levels).power with backup := levels.backupPresent } = _
  rw [hpower]
  cases kind with
  | cold =>
    show { { s.abandonSave.power with marker := true } with backup := levels.backupPresent } = _
    rw [hsame]
    rfl
  | warm =>
    show { s.abandonSave.power with backup := levels.backupPresent } = _
    rw [hsame]
    rfl

theorem requestedStart_waits {s : State} (levels : StartLevels)
    (h : s.part.requested = none ∨ s.part.phase ≠ .running ∨ s.link.replies ≠ [] ∨
      ∃ t, s.link.tx = some t ∧ t.rank = .reply) : exec (.requestedStart levels) s = .next s := by
  refine congrArg Host.Outcome.next ?_
  cases hrequested : s.part.requested with
  | none => rfl
  | some cause =>
    refine if_neg (fun hready => ?_)
    simp only [State.running, Endpoint.sendingReply, Bool.and_eq_true, beq_iff_eq, List.isEmpty_iff, Bool.not_eq_true'] at hready
    obtain ⟨⟨hphase, hreplies⟩, hsending⟩ := hready
    obtain hnone | hstopped | hwaiting | ⟨t, htx, hrank⟩ := h
    · simp [hnone] at hrequested
    · exact hstopped hphase
    · exact hwaiting hreplies
    · rw [htx] at hsending
      simp [hrank] at hsending

theorem requestedStart_made {s : State} (levels : StartLevels) {cause : StartCause} (h : s.part.requested = some cause)
    (hphase : s.part.phase = .running) (hreplies : s.link.replies = []) (htx : ∀ t, s.link.tx = some t → t.rank ≠ .reply) :
    exec (.requestedStart levels) s = .next (s.enterLoading .warm cause levels) := by
  have hsending : s.link.sendingReply = false := by
    unfold Endpoint.sendingReply
    cases ht : s.link.tx with
    | none => rfl
    | some t => simpa using htx t ht
  show Host.Outcome.next (match s.part.requested with
    | some cause =>
      if s.running && s.link.replies.isEmpty && !s.link.sendingReply then s.enterLoading .warm cause levels else s
    | none => s) = _
  rw [h]
  exact congrArg Host.Outcome.next (if_pos (by simp [State.running, hphase, hreplies, hsending]))

/-- Settles O59: each event's condition, and for a start what the part holds as it enters LOADING. -/
theorem suppliesAndRequestsMakeStarts : Obligations.SuppliesAndRequestsMakeStarts := by
  intro s levels hcan
  have hloading : ∀ (p : Power) (kind : StartKind) (cause : StartCause),
      s.loadingFrom (State.enterLoading { s with power := p } kind cause levels) kind cause levels := fun p kind cause =>
    loadingFrom_enterLoading (s := { s with power := p }) hcan kind cause levels
  refine ⟨fun hmain => congrArg Host.Outcome.next (if_pos hmain), fun hmain => ⟨fun hreset => ?_, fun hreset hmarker => ?_,
      fun hreset hmarker => ?_⟩, fun hreset => congrArg Host.Outcome.next (if_pos (by simp [hreset])),
    fun hreset => ⟨fun hmain => ?_, fun hmain hmarker => ?_, fun hmain hmarker => ?_⟩,
    fun hmain => congrArg Host.Outcome.next (if_neg (by simp [hmain])), fun hmain => ?_, ?_, ?_,
    requestedStart_waits levels, fun cause hrequested hphase hreplies htx =>
      ⟨_, requestedStart_made levels hrequested hphase hreplies htx, loadingFrom_enterLoading hcan _ _ _⟩⟩
  · exact congrArg Host.Outcome.next ((if_neg (by simp [hmain])).trans (if_pos hreset))
  · refine ⟨_, congrArg Host.Outcome.next ((if_neg (by simp [hmain])).trans ((if_neg (by simp [hreset])).trans (if_pos hmarker))),
      hloading _ .warm .power, ?_⟩
    rw [power_enterLoading]
    rfl
  · refine ⟨_, congrArg Host.Outcome.next ((if_neg (by simp [hmain])).trans ((if_neg (by simp [hreset])).trans
      (if_neg (by simp [State.updPower, hmarker])))), hloading _ .cold .power, ?_⟩
    rw [power_enterLoading]
    rfl
  · exact congrArg Host.Outcome.next ((if_neg (by simp [hreset])).trans (if_neg (by simp [hmain])))
  · exact ⟨_, congrArg Host.Outcome.next ((if_neg (by simp [hreset])).trans ((if_pos hmain).trans (if_pos hmarker))),
      hloading _ .warm .resetPin⟩
  · exact ⟨_, congrArg Host.Outcome.next ((if_neg (by simp [hreset])).trans ((if_pos hmain).trans
      (if_neg (by simp [State.updPower, hmarker])))), hloading _ .cold .power⟩
  · refine ⟨{ s.stopPart with power := { s.power with main := false, marker := s.power.marker && s.power.backup } },
      congrArg Host.Outcome.next ((if_pos hmain).trans ?_), stopPart_stops s _⟩
    rw [State.updPower, power_stopPart, settle_mainLost]
  · refine ⟨{ s.stopPart with power := { s.power with resetAsserted := true } }, congrArg Host.Outcome.next ?_, stopPart_stops s _⟩
    rw [State.updPower, power_stopPart]
  · refine congrArg Host.Outcome.next ?_
    rw [State.updPower, settle_backupLost]

end Sys2Proof.Machine
end

section
/-! PROOFS. The image: saves, the starts that are asked for, and what the stored image is (R185, R186, R191). -/

namespace Sys2Proof.Machine

/-! ### The three requests -/

section
variable {f : Frame} {s : State}

theorem imageSaveBody_busy (h : s.part.saving = true) : imageSaveBody f s = (s, replyOnly .busy) := if_pos h

theorem imageSaveBody_badLength (h : s.part.saving = false) (hf : operandsOf f ≠ []) :
    imageSaveBody f s = (s, replyOnly .badLength) := (if_neg (by simp [h])).trans (if_pos hf)

theorem imageSaveBody_ok (h : s.part.saving = false) (hf : operandsOf f = []) :
    imageSaveBody f s = ({ s with part := { s.part with saving := true } }, replyOnly .ok) :=
  (if_neg (by simp [h])).trans (if_neg (not_not_intro hf))

theorem tablesClearBody_busy (h : s.part.saving = true) : tablesClearBody f s = (s, replyOnly .busy) := if_pos h

theorem tablesClearBody_badLength (h : s.part.saving = false) (hf : operandsOf f ≠ []) :
    tablesClearBody f s = (s, replyOnly .badLength) := (if_neg (by simp [h])).trans (if_pos hf)

theorem tablesClearBody_ok (h : s.part.saving = false) (hf : operandsOf f = []) :
    tablesClearBody f s = ({ s with part := { s.part with requested := some .tablesClear } }, replyOnly .ok) :=
  (if_neg (by simp [h])).trans (if_neg (not_not_intro hf))

theorem restartBody_ok (hf : operandsOf f = []) : restartBody f s =
    (s.abandonSave.updPart (fun p => { p with requested := some .restart }), replyOnly .ok) :=
  if_neg (not_not_intro hf)

/-- An abandoned save leaves the flash and the free values, and no save in progress (R186). -/
theorem abandonSave_touches (s : State) : ∃ flash draws, (s.part.saving = false → flash = s.flash) ∧
    s.abandonSave = { s with part := { s.part with saving := false }, flash := flash, draws := draws } := by
  by_cases h : s.part.saving = true
  · exact ⟨_, _, fun hno => absurd h (by simp [hno]), if_pos h⟩
  · have hno : s.part.saving = false := by simpa using h
    exact ⟨s.flash, s.draws, fun _ => rfl, by rw [abandonSave_idle s hno, ← hno]⟩

end

/-! ### The end of a save (R186) -/

theorem exec_imageSaveComplete {s : State} (hphase : s.part.phase = .running) (hsaving : s.part.saving = true)
    (success : Bool) : exec (.imageSaveComplete success) s =
      .next (if success then s.finishSave.raise .imageSaved none 0 else s.failSave.raise .imageSaveFailed none 0) :=
  congrArg Host.Outcome.next (if_pos (by simp [State.running, hphase, hsaving]))

theorem judge_empty : judge true [] = .blank := by
  decide

theorem judge_failSave (s : State) : judge true s.failSave.flash ≠ .valid := by
  unfold State.failSave
  dsimp only
  split
  · rw [judge_empty]
    decide
  next hinvalid => exact hinvalid

/-! ### The stored image (R185) -/

theorem length_storedImage (s : State) : s.storedImage.length = 50676 := by
  simp only [State.storedImage, List.length_append, length_imageBody, length_be, imageHeader, bodyLength]

theorem take_storedImage (s : State) : s.storedImage.take 50672 = imageHeader ++ s.imageBody := by
  unfold State.storedImage
  exact List.take_left' (by simp only [List.length_append, length_imageBody, length_be, imageHeader, bodyLength])

/-- Settles O58: the bodies of the three requests, the two ends of a save, and the parts of the stored image. -/
theorem imageIsSavedAndJudged : Obligations.ImageIsSavedAndJudged := by
  refine ⟨fun s f rest o ht => ⟨fun q hq hf => ?_, fun hf hsaving => ?_, fun hf hsaving => ?_, fun hf ho => ?_, fun hf => ?_⟩,
    fun s success => ⟨fun h => ?_, fun hphase hsaving => ⟨?_, ?_⟩⟩, fun s => ⟨length_storedImage s, ?_, ?_, judge_storedImage s,
      rfl, judge_empty⟩⟩
  · simp only [List.mem_cons, List.not_mem_nil, or_false] at hq
    obtain rfl | rfl := hq
    · exact ⟨fun hsaving => congrArg Host.Outcome.next (State.handle_refused ht hf rfl (by decide) .busy
          (imageSaveBody_busy hsaving)),
        fun hsaving ho => congrArg Host.Outcome.next (State.handle_refused ht hf rfl (by decide) .badLength
          (imageSaveBody_badLength hsaving (by rwa [operandsOf_asks hf])))⟩
    · exact ⟨fun hsaving => congrArg Host.Outcome.next (State.handle_refused ht hf rfl (by decide) .busy
          (tablesClearBody_busy hsaving)),
        fun hsaving ho => congrArg Host.Outcome.next (State.handle_refused ht hf rfl (by decide) .badLength
          (tablesClearBody_badLength hsaving (by rwa [operandsOf_asks hf])))⟩
  · exact congrArg Host.Outcome.next (State.handle_done ht hf rfl (by decide)
      (imageSaveBody_ok (s := s.dropFrame rest) hsaving (operandsOf_asks hf)))
  · exact congrArg Host.Outcome.next (State.handle_done ht hf rfl (by decide)
      (tablesClearBody_ok (s := s.dropFrame rest) hsaving (operandsOf_asks hf)))
  · exact congrArg Host.Outcome.next (State.handle_refused ht hf rfl (by decide) .badLength
      (if_pos (by rwa [operandsOf_asks hf])))
  · obtain ⟨flash, draws, hflash, habandon⟩ := abandonSave_touches (s.dropFrame rest)
    refine ⟨_, congrArg Host.Outcome.next (State.handle_done ht hf rfl (by decide)
      (restartBody_ok (s := s.dropFrame rest) (operandsOf_asks hf))), fun hsaving => ?_, ?_⟩
    · rw [habandon]
      exact hflash hsaving
    · rw [habandon]
      rfl
  · refine congrArg Host.Outcome.next (if_neg (fun hready => ?_))
    simp only [State.running, Bool.and_eq_true, beq_iff_eq] at hready
    exact h.elim (fun hstopped => hstopped hready.1) (fun hno => by simp [hno] at hready)
  · obtain ⟨_, _, hraise⟩ := raise_touches s.finishSave .imageSaved none 0
    obtain ⟨hflag, hlast⟩ := told_raise s.finishSave .imageSaved none 0
    refine ⟨_, exec_imageSaveComplete hphase hsaving true, ?_, ?_, hflag, hlast, fun n hn =>
      noticeClass_raise s.finishSave .imageSaved none 0 n hn⟩
    · rw [if_pos rfl, hraise]
      rfl
    · rw [if_pos rfl, hraise]
      rfl
  · obtain ⟨_, _, hraise⟩ := raise_touches s.failSave .imageSaveFailed none 0
    obtain ⟨hflag, hlast⟩ := told_raise s.failSave .imageSaveFailed none 0
    refine ⟨_, exec_imageSaveComplete hphase hsaving false, ?_, ?_, hflag, hlast, fun n hn =>
      noticeClass_raise s.failSave .imageSaveFailed none 0 n hn⟩
    · rw [if_neg (by simp), hraise]
      exact judge_failSave s
    · rw [if_neg (by simp), hraise]
      rfl
  · unfold State.storedImage
    rw [List.append_assoc]
    exact List.take_left' rfl
  · rw [take_storedImage]
    unfold State.storedImage
    exact List.drop_left' (by simp only [List.length_append, length_imageBody, length_be, imageHeader, bodyLength])

end Sys2Proof.Machine
end

section
/-! PROOFS. What a read shows: the record images and the status data spell the layouts of 11.7 (R183, R184). -/

namespace Sys2Proof.Machine

/-! ### Positions that repeat -/

/-- Position by position over a list. -/
theorem spells_map {α : Type} {l : List α} {b : α → List Byte} {p : α → Position} (h : ∀ x ∈ l, spells (b x) [p x]) :
    spells (l.flatMap b) (l.map p) := by
  induction l with
  | nil => rfl
  | cons x l ih =>
    exact spells_cons (h x List.mem_cons_self) (ih (fun y hy => h y (List.mem_cons_of_mem x hy)))

/-- Group by group over a list. -/
theorem spells_flatMap {α : Type} {l : List α} {b : α → List Byte} {p : α → List Position}
    (h : ∀ x ∈ l, spells (b x) (p x)) : spells (l.flatMap b) (l.flatMap p) := by
  induction l with
  | nil => rfl
  | cons x l ih =>
    exact spells_append (h x List.mem_cons_self) (ih (fun y hy => h y (List.mem_cons_of_mem x hy)))

theorem spells_ofYesNo (b : Bool) : spells [ofYesNo b] [num 1 b.toNat] := spells_num (by cases b <;> rfl) rfl

theorem spells_byte (b : Byte) : spells [b] [num 1 b.toNat] := spells_num (be_one_toNat b).symm rfl

theorem spells_index1 (i : Option Nat) : spells (index1 i) [num 1 (i.getD 0xFF)] := spells_be 1 _

theorem spells_index2 (i : Option Nat) : spells (index2 i) [num 2 (i.getD 0xFFFF)] := spells_be 2 _

/-- FFh throughout, byte by byte. -/
theorem spells_ffBytes (n : Nat) : spells (ffBytes n) (List.replicate n (num 1 0xFF)) := by
  induction n with
  | zero => rfl
  | succ n ih => exact spells_cons (a := [0xFF#8]) (spells_byte 0xFF#8) ih

/-- A list cut to a length, with a byte beyond its end. -/
theorem padded_eq (l : List Byte) (n : Nat) (z : Byte) :
    (l ++ List.replicate n z).take n = (List.range n).flatMap (fun k => [(l[k]?).getD z]) := by
  rw [← List.map_eq_flatMap]
  refine List.ext_getElem (by simp) (fun k hk _ => ?_)
  have hlt : k < n := by simp at hk; omega
  rw [List.getElem_take, List.getElem_map, List.getElem_range]
  by_cases hin : k < l.length
  · rw [List.getElem_append_left hin, List.getElem?_eq_getElem hin, Option.getD_some]
  · rw [List.getElem_append_right (by omega), List.getElem_replicate, List.getElem?_eq_none (by omega), Option.getD_none]

/-- The entries of a stop list, one byte a stop, FFh beyond the stop count. -/
theorem spells_stopEntries {α : Type} (l : List α) (b : α → Byte) (v : α → Nat) (hb : ∀ x, [b x] = be 1 (v x)) :
    spells (stopEntries (l.map b)) ((List.range 24).map (fun k => num 1 ((l[k]?.map v).getD 0xFF))) := by
  rw [stopEntries, padded_eq]
  refine spells_map (fun k _ => ?_)
  rw [List.getElem?_map]
  cases l[k]? with
  | none => exact spells_byte 0xFF#8
  | some x => exact spells_num (hb x) rfl

/-! ### The record images -/

theorem spells_params (p : Params) : spells p.bytes
    [num 2 p.districtCode, num 2 p.cardLimit, num 1 p.periodLength, num 2 p.anchorDay, num 1 p.invalidLimit,
     num 2 p.serviceWindow, num 2 p.settleTime, num 2 p.holdTimeout] := by
  simp only [Params.bytes, List.append_assoc]
  exact spells_cons (spells_be 2 _) (spells_cons (spells_be 2 _) (spells_cons (spells_be 1 _) (spells_cons (spells_be 2 _)
    (spells_cons (spells_be 1 _) (spells_cons (spells_be 2 _) (spells_cons (spells_be 2 _) (spells_be 2 _)))))))

theorem spells_stationImage (s : State) (i : Nat) : spells (s.image .station i) (s.layout .station i) := by
  have hflags : ∀ a b c d e f : Bool, bit a 0 + bit b 1 + bit c 2 + bit d 3 + bit e 4 + bit f 5 =
      flagBits [a, b, c, d, e, f] := fun a b c d e f => by
    simp only [bit_eq, flagBits]; omega
  have hhealth : (s.station i).health.code = flagBits [(s.station i).health.tamper, (s.station i).health.flood,
      (s.station i).health.supplyLow] := by
    simp only [Health.code, bit_eq, flagBits]; omega
  simp only [State.image, State.layout, State.configBytes, StationCfg.bytes, State.stationRuntime, List.append_assoc, hflags,
    hhealth]
  exact spells_cons (spells_ofYesNo _) (spells_cons (spells_be 1 _) (spells_cons (spells_be 1 _) (spells_cons (spells_be 1 _)
    (spells_cons (spells_be 1 _) (spells_cons (spells_be 1 _) (spells_cons (spells_be 1 _)
      (spells_cons (spells_optBytes 1 1 _) (spells_be 1 _))))))))

theorem spells_containerCfg (p : ContainerCfg) : spells p.bytes p.layout := by
  simp only [ContainerCfg.bytes, ContainerCfg.layout, List.append_assoc]
  exact spells_cons (spells_ofYesNo _) (spells_cons (spells_be 1 _) (spells_cons (spells_be 2 _) (spells_cons (spells_be 2 _)
    (spells_cons (spells_be 2 _) (spells_cons (spells_be 1 _) (spells_cons (spells_be 1 _) (spells_cons (spells_be 2 _)
    (spells_cons (spells_be 1 _) (spells_cons (spells_be 1 _) (spells_cons (spells_be 1 _) (spells_cons (spells_be 1 _)
    (spells_cons (spells_be 2 _) (spells_cons (spells_be 2 _) (spells_cons (spells_be 1 _) (spells_cons (spells_be 2 _)
    (spells_index1 _))))))))))))))))

theorem spells_request (q : SampleRequest) : spells q.bytes
    [num 1 q.code, { width := 1, shown := match q with
      | .outstanding age => some age
      | _ => none }] := by
  cases q with
  | outstanding age => exact spells_cons (spells_be 1 _) (spells_be 1 age)
  | idle => exact spells_cons (spells_be 1 _) (spells_absent 2 1)
  | deferred => exact spells_cons (spells_be 1 _) (spells_absent 2 1)
  | pending => exact spells_cons (spells_be 1 _) (spells_absent 2 1)

/-- The eight flags of a container's record. -/
theorem containerFlags_eq (k : Container) : k.flags = flagBits [k.fill.risePending, k.fill.postLift, k.forced, k.missed,
    k.inlet.lastDrum.isSome, k.fill.lastTof.isSome, k.inlet.grant.isSome, k.inlet.service.isSome] := by
  simp only [Container.flags, bit_eq, flagBits]; omega

theorem barsCode_eq (b : BarSet) : b.code = flagBits [b.center, b.stationLost, b.stationDisabled, b.notSeen, b.notPresent,
    b.liftOpen] := by
  simp only [BarSet.code, bit_eq, flagBits]; omega

/-- The positions of a pending command. -/
def commandPositions : Option InletCommand → List Position
  | some c => [num 1 c.action.code, num 2 (if c.action = .unlock ∨ c.action = .serviceUnlock then c.window else 0),
      num 1 c.code.code, num 1 c.value]
  | none => [num 1 0xFF, { width := 4, shown := none }]

theorem spells_command : ∀ x : Option InletCommand, spells (commandBytes x) (commandPositions x)
  | none => spells_cons (spells_byte 0xFF#8) (spells_absent 3 4)
  | some c => by
    have hwindow : c.windowField = if c.action = .unlock ∨ c.action = .serviceUnlock then c.window else 0 := by
      cases h : c.action <;> simp [InletCommand.windowField, h]
    simp only [commandBytes, List.append_assoc, hwindow]
    exact spells_cons (spells_be 1 _) (spells_cons (spells_be 2 _) (spells_cons (spells_be 1 _) (spells_be 1 _)))

/-- The positions of a grant. -/
def grantPositions : Option Grant → List Position
  | some g => [num 2 g.card, num 2 (g.household.getD 0xFFFF), num 1 g.fraction.code, num 2 g.period, num 1 g.windowLeft]
  | none => List.replicate 8 (num 1 0xFF)

theorem spells_grant : ∀ x : Option Grant, spells (grantBytes x) (grantPositions x)
  | none => spells_ffBytes 8
  | some g => by
    simp only [grantBytes, List.append_assoc]
    exact spells_cons (spells_be 2 _) (spells_cons (spells_index2 _) (spells_cons (spells_be 1 _)
      (spells_cons (spells_be 2 _) (spells_be 1 _))))

/-- The positions of a service. -/
def servicePositions : Option Service → List Position
  | some v => [num 2 (v.crew.getD 0xFFFF), num 1 (v.round.getD 0xFF), num 1 (v.stop.getD 0xFF),
      num 2 (v.windowLeft.getD 0xFFFF), num 2 (v.limitLeft.getD 0xFFFF)]
  | none => List.replicate 8 (num 1 0xFF)

theorem spells_service : ∀ x : Option Service, spells (serviceBytes x) (servicePositions x)
  | none => spells_ffBytes 8
  | some v => by
    simp only [serviceBytes, List.append_assoc]
    exact spells_cons (spells_index2 _) (spells_cons (spells_index1 _) (spells_cons (spells_index1 _)
      (spells_cons (spells_index2 _) (spells_index2 _))))

/-- The place of an entry that stands in the due list. -/
theorem duePlace_of_mem {due : List DueEntry} {c n : Nat} (h : ∃ e ∈ due, e.container = c) :
    duePlace due c n = some (due.findIdx (fun e => e.container == c) + n) := by
  induction due generalizing n with
  | nil => obtain ⟨e, he, _⟩ := h; exact absurd he List.not_mem_nil
  | cons x due ih =>
    by_cases hx : x.container = c
    · rw [duePlace, if_pos hx, List.findIdx_cons, show (x.container == c) = true by simpa using hx, cond_true, Nat.zero_add]
    · obtain ⟨e, he, hc⟩ := h
      have htail : ∃ e ∈ due, e.container = c := by
        rcases List.mem_cons.mp he with rfl | he
        · exact absurd hc hx
        · exact ⟨e, he, hc⟩
      rw [duePlace, if_neg hx, ih htail, List.findIdx_cons, show (x.container == c) = false by simpa using hx, cond_false]
      congr 1
      omega

theorem spells_due (s : State) (c : Nat) : spells (s.dueBytes c) (s.dueLayout c) := by
  unfold State.dueBytes State.dueLayout
  rw [dueEntry]
  cases hfind : s.planner.due.find? (fun e => e.container == c) with
  | none => exact spells_ffBytes 8
  | some e =>
    have hplace := duePlace_of_mem (n := 1) ⟨e, List.mem_of_find?_eq_some hfind, by simpa using List.find?_some hfind⟩
    simp only [hplace, List.append_assoc, List.cons_append, List.nil_append]
    exact spells_cons (spells_be 1 _) (spells_cons (spells_be 1 _) (spells_append (spells_time _) (spells_index1 _)))

/-- The bytes of the Fill Estimator's fields. -/
def Container.fillBytes (k : Container) : List Byte :=
  index2 k.fill.estimate ++ (be 1 k.fill.status.code ++ (be 1 k.fill.fullCount ++ (be 1 k.fill.sensor.code ++
    (be 1 k.fill.streak ++ (be 1 k.fill.stuck ++ (be 1 k.flags ++ (optBytes 4 2 k.fill.lastTof ++ (be 2 k.fill.deposits ++
    (be 1 (k.fill.countdown.getD 0) ++ k.fill.request.bytes)))))))))

/-- The bytes of Inlet Control's fields. -/
def Inlet.bytes (n : Inlet) : List Byte :=
  be 1 n.state.code ++ (be 1 n.bars.code ++ (commandBytes n.command ++ ((optBytes 5 2 n.lastDrum ++ be 2 n.unattributed) ++
    (grantBytes n.grant ++ (serviceBytes n.service ++ be 1 n.reservedFlags)))))

theorem spells_fill (k : Container) : spells k.fillBytes k.fillLayout := by
  unfold Container.fillBytes Container.fillLayout
  rw [containerFlags_eq]
  exact spells_cons (spells_index2 _) (spells_cons (spells_be 1 _) (spells_cons (spells_be 1 _) (spells_cons (spells_be 1 _)
    (spells_cons (spells_be 1 _) (spells_cons (spells_be 1 _) (spells_cons (spells_be 1 _) (spells_cons (spells_optBytes 4 2 _)
    (spells_cons (spells_be 2 _) (spells_cons (spells_be 1 _) (spells_request _))))))))))

theorem Inlet.layout_eq (n : Inlet) : n.layout =
    num 1 n.state.code :: num 1 n.bars.code :: (commandPositions n.command ++
      ({ width := 2, shown := n.lastDrum } :: num 2 n.unattributed :: (grantPositions n.grant ++
        (servicePositions n.service ++ [num 1 n.reservedFlags])))) := by
  have hreserved : n.reservedFlags = flagBits [(n.grant.map Grant.reserved).getD false,
      (n.service.map Service.reserved).getD false] := by
    simp only [Inlet.reservedFlags, bit_eq, flagBits]; omega
  unfold Inlet.layout
  rw [barsCode_eq, hreserved]
  simp only [List.append_assoc, List.cons_append, List.nil_append]
  rfl

theorem spells_inlet (n : Inlet) : spells n.bytes n.layout := by
  rw [Inlet.layout_eq, Inlet.bytes, List.append_assoc]
  exact spells_cons (spells_be 1 _) (spells_cons (spells_be 1 _) (spells_append (spells_command _)
    (spells_cons (spells_optBytes 5 2 _) (spells_cons (spells_be 2 _) (spells_append (spells_grant _)
    (spells_append (spells_service _) (spells_be 1 _)))))))

theorem containerImage_eq (s : State) (c : Nat) : s.image .container c =
    (s.container c).cfg.bytes ++ ((s.container c).fillBytes ++ ((s.container c).inlet.bytes ++ s.dueBytes c)) := by
  show (s.container c).cfg.bytes ++ s.containerRuntime c = _
  unfold State.containerRuntime Container.fillBytes Inlet.bytes
  generalize s.container c = k
  simp only [List.append_assoc]

theorem spells_containerImage (s : State) (c : Nat) : spells (s.image .container c) (s.layout .container c) := by
  rw [containerImage_eq]
  simp only [State.layout, List.append_assoc]
  exact spells_append (spells_containerCfg _) (spells_append (spells_fill _) (spells_append (spells_inlet _) (spells_due s c)))

theorem spells_lastSeen : ∀ l : Option LastSeen, spells (lastSeenBytes l) (match l with
       | some l => timePositions (some l.time) ++ [num 1 l.container, num 1 l.code.code]
       | none => [{ width := 6, shown := none }, num 1 0xFF])
  | none => spells_cons (spells_absent 6 6) (spells_byte 0xFF#8)
  | some l => by
    simp only [lastSeenBytes, List.append_assoc]
    exact spells_append (spells_time _) (spells_cons (spells_be 1 _) (spells_be 1 _))

theorem spells_cardImage (s : State) (i : Nat) : spells (s.image .card i) (s.layout .card i) := by
  simp only [State.image, State.layout, State.configBytes, CardCfg.bytes, List.append_assoc, List.cons_append,
    List.nil_append]
  exact spells_cons (spells_be 1 _) (spells_cons (spells_be 1 _) (spells_cons (spells_be 1 _) (spells_cons (spells_index2 _)
    (spells_cons (spells_be 1 _) (spells_cons (spells_be 2 _) (spells_lastSeen _))))))

theorem spells_perFraction (p : PerFraction) : spells (p.toList.flatMap (be 1))
    [num 1 p.residual, num 1 p.paper, num 1 p.glass, num 1 p.packaging, num 1 p.organic, num 1 p.textile] :=
  spells_map (l := p.toList) (p := num 1) (fun v _ => spells_be 1 v)

theorem spells_householdImage (s : State) (h : Nat) : spells (s.image .household h) (s.layout .household h) := by
  simp only [State.image, State.layout, State.configBytes, HouseholdCfg.bytes, Household.runtime, List.append_assoc]
  exact spells_append (spells_ofYesNo _) (spells_append (spells_perFraction _) (spells_append (spells_perFraction _)
    (spells_cons (spells_ofYesNo _) (spells_cons (spells_optBytes 7 2 _) (spells_perFraction _)))))

theorem spells_round (d : Round) : spells d.image d.layout := by
  have hstops : (d.stops.map Stop.container).flatMap (be 1) = d.stops.map (fun p => BitVec.ofNat 8 p.container) := by
    rw [List.flatMap_map, List.map_eq_flatMap]
    refine List.flatMap_congr (fun p _ => ?_)
    simp [be]
  simp only [Round.image, Round.layout, RoundCfg.bytes, hstops, List.length_map, List.append_assoc, List.cons_append,
    List.nil_append]
  exact spells_cons (spells_be 1 _) (spells_cons (spells_be 2 _) (spells_cons (spells_ofYesNo _) (spells_cons (spells_be 3 _)
    (spells_cons (spells_be 2 _) (spells_cons (spells_be 1 _)
    (spells_append (spells_stopEntries _ _ Stop.container (fun p => by simp [be]))
    (spells_cons (spells_be 1 _) (spells_cons (spells_be 1 _) (spells_cons (spells_be 1 _) (spells_append (spells_timeOrFF _)
    (spells_stopEntries _ _ _ (fun p => by simp [be, Stop.byte]))))))))))))

theorem spells_roundImage (s : State) (i : Nat) : spells (s.image .round i) (s.layout .round i) := by
  simp only [State.image, State.layout]
  split
  · exact spells_round _
  · have hhalf : (i - 4) % 2 = i % 2 := by omega
    rw [hhalf]
    exact spells_flatMap (fun k _ => spells_timeOrFF _)

theorem spells_raise (site : Nat) : ∀ r : Option Raise, spells (raiseBytes site r) (match r with
       | some r => [num 2 (r.subject.getD 0), num 2 r.value]
       | none => [{ width := 4, shown := none }])
  | none => spells_absent site 4
  | some _ => spells_cons (spells_be 2 _) (spells_be 2 _)

theorem spells_noticeClassImage (s : State) (n : Nat) : spells (s.image .noticeClass n) (s.layout .noticeClass n) := by
  have hflags : ∀ a b c d : Bool, bit a 0 + bit b 1 + bit c 2 + bit d 3 = flagBits [a, b, c, d] := fun a b c d => by
    simp only [bit_eq, flagBits]; omega
  simp only [State.image, State.layout, State.configBytes, NoticeClass.runtime, hflags, List.cons_append,
    List.nil_append]
  exact spells_cons (spells_be 1 _) (spells_cons (spells_be 1 _) (spells_raise 8 _))

/-- Every record image spells its layout (R183, 11.7). -/
theorem spells_image (s : State) : ∀ (t : Table) (i : Nat), spells (s.image t i) (s.layout t i)
  | .parameters, _ => spells_params _
  | .station, i => spells_stationImage s i
  | .bank, _ => spells_cons (spells_ofYesNo _) (spells_be 1 _)
  | .fraction, _ => spells_cons (spells_be 1 _) (spells_ofYesNo _)
  | .shape, _ => spells_map (fun _ _ => spells_be 2 _)
  | .container, c => spells_containerImage s c
  | .card, i => spells_cardImage s i
  | .household, h => spells_householdImage s h
  | .round, i => spells_roundImage s i
  | .noticeClass, n => spells_noticeClassImage s n

theorem codesFollowTheLists_holds : codesFollowTheLists := by
  refine ⟨?_, ?_, ?_, ?_, ?_, ?_, ?_, ?_, ?_, ?_, ?_, ?_, ?_, ?_, ?_, ?_, ?_, ?_, ?_, ?_, ?_, rfl, fun _ => rfl⟩
  all_goals intro x; cases x <;> rfl

end Sys2Proof.Machine
end

section
/-! PROOFS. TABLE_READ and STATUS_READ: what they report (R183, R184). -/

namespace Sys2Proof.Machine

/-! ### How many images a read returns (R183) -/

/-- With images of one length the count, the last index and the room bound the number of images. -/
theorem Table.fit_uniform {t : Table} {len : Nat} (hpos : 0 < len) (hlen : ∀ j, t.readLength j = len) (count room i : Nat) :
    t.fit count room i = min (min count (t.readRange.2 + 1 - i)) (room / len) := by
  induction count generalizing room i with
  | zero => simp [Table.fit]
  | succ n ih =>
    rw [Table.fit, hlen, ih]
    split
    · rename_i hfits
      obtain ⟨hin, hroom⟩ := hfits
      have hdiv := Nat.div_eq_sub_div hpos hroom
      omega
    · rename_i hfull
      by_cases hin : i ≤ t.readRange.2
      · rw [Nat.div_eq_of_lt (by omega)]
        simp
      · generalize room / len = k
        omega

/-- Two rounds, or two halves of done times, do not fit into one reply. -/
theorem fit_round (count i : Nat) : Table.round.fit count 106 i = min (min count (11 + 1 - i)) 1 := by
  have hlong : ∀ j, 60 ≤ Table.round.readLength j ∧ Table.round.readLength j ≤ 66 := fun j => by
    unfold Table.readLength
    split <;> simp [Table.imageLength]
  cases count with
  | zero => simp [Table.fit]
  | succ n =>
    have htail : Table.round.fit n (106 - Table.round.readLength i) (i + 1) = 0 := by
      have hi := hlong i
      have hnext := hlong (i + 1)
      cases n with
      | zero => rfl
      | succ n => exact if_neg (fun h => by omega)
    have hi := hlong i
    rw [Table.fit, htail]
    have hlast : Table.round.readRange.2 = 11 := rfl
    rw [hlast]
    split <;> omega

/-- The images of a read into one reply, by the length 11.7 gives for the table. -/
theorem Table.fit_eq (t : Table) (count i : Nat) :
    t.fit count 106 i = min (min count (t.readRange.2 + 1 - i)) (106 / t.imageLength) := by
  by_cases ht : t = .round
  · subst ht
    exact fit_round count i
  · refine t.fit_uniform (by cases t <;> decide) (fun j => ?_) count 106 i
    exact if_neg (fun h => ht h.1)

/-- What 11.3 and 11.7 give for a table is what the model holds for its code. -/
theorem tableForms_ofCode {q : TableForm} (hq : q ∈ tableForms) : ∃ t : Table,
    Table.ofCode q.code.toNat = some t ∧ t.imageLength = q.length ∧
      t.readRange = (if q.code = 0x06#8 then 0 else q.first, if q.code = 0x08#8 then 11 else q.last) := by
  simp only [tableForms, List.mem_cons, List.not_mem_nil, or_false] at hq
  obtain rfl | rfl | rfl | rfl | rfl | rfl | rfl | rfl | rfl | rfl := hq
  all_goals exact ⟨_, rfl, rfl, rfl⟩

theorem Table.ofCode_code (t : Table) : Table.ofCode t.code = some t := by cases t <;> rfl

theorem Table.ofCode_outside {n : Nat} (h : 9 < n) : Table.ofCode n = none := by
  obtain ⟨k, rfl⟩ := Nat.exists_eq_add_of_lt h
  rw [show 9 + k + 1 = k + 10 by omega]
  rfl

theorem Table.ofCode_inside {n : Nat} (h : n ≤ 9) : ∃ t, Table.ofCode n = some t := by
  interval_cases n <;> exact ⟨_, rfl⟩

theorem image_dropFrame (s : State) (rest : List Frame) (t : Table) (i : Nat) :
    (s.dropFrame rest).image t i = s.image t i := by
  cases t <;> rfl

/-! ### TABLE_READ -/

section
variable {s : State} {f : Frame} {rest : List Frame} {o : List Byte}

/-- What TABLE_READ answers: it changes nothing. -/
theorem exec_tableRead (ht : s.takes f rest) (hf : f.asks 0x02#8 o) {a : Answer}
    (hb : tableReadBody f (s.dropFrame rest) = (s.dropFrame rest, a)) :
    exec .tableRead s = .next (s.answered f rest (BitVec.ofNat 8 a.result.code) 0x02#8 a.data) :=
  congrArg Host.Outcome.next (State.handle_answered ht hf rfl (by decide) hb)

/-- The answer to a TABLE_READ whose table is known, by its index and its length. -/
theorem tableReadBody_known {t : State} {code hi lo : Byte} {more : List Byte} {table : Table}
    (hf : f.asks 0x02#8 (code :: hi :: lo :: more)) (hcode : Table.ofCode code.toNat = some table) :
    tableReadBody f t =
      if !inRange table.readRange (hi.toNat * 256 + lo.toNat) then (t, replyOnly .badIndex)
      else if more.length ≠ 1 then (t, replyOnly .badLength)
      else
        let first := hi.toNat * 256 + lo.toNat
        let count := field (code :: hi :: lo :: more) 3 1
        let n := table.fit count 106 first
        (t, replyWith (if n < count then .okClamped else .ok)
          (be 1 table.code ++ be 2 first ++ be 1 n ++ (List.range n).flatMap (fun k => t.image table (first + k)))) := by
  have htable : field (code :: hi :: lo :: more) 0 1 = code.toNat := ofBe_one code
  have hfirst : field (code :: hi :: lo :: more) 1 2 = hi.toNat * 256 + lo.toNat := ofBe_two hi lo
  simp only [tableReadBody, operandsOf_asks hf, htable, hcode, hfirst]
  have hlength : (code :: hi :: lo :: more).length = more.length + 3 := rfl
  rw [hlength, if_neg (by omega), if_neg (by omega)]
  simp only [show ∀ n : Nat, (n + 3 ≠ 4) = (n ≠ 1) from fun n => by simp]

theorem tableReadAnswers (ht : s.takes f rest) (hf : f.asks 0x02#8 o) :
    let no := fun (result : Byte) => exec .tableRead s = .next (s.answered f rest result 0x02#8 [])
    (o = [] → no 0x06#8) ∧
    (∀ t more, o = t :: more → 9 < t.toNat → no 0x04#8) ∧
    (∀ t more, o = t :: more → t.toNat ≤ 9 → more.length < 2 → no 0x06#8) ∧
    (∀ q ∈ tableForms, ∀ hi lo more, o = q.code :: hi :: lo :: more →
      let i := hi.toNat * 256 + lo.toNat
      let first := if q.code = 0x06#8 then 0 else q.first
      let last := if q.code = 0x08#8 then 11 else q.last
      (i < first ∨ last < i → no 0x05#8) ∧
      (first ≤ i → i ≤ last → more.length ≠ 1 → no 0x06#8) ∧
      (∀ (t : Table) (count : Byte), t.code = q.code.toNat → more = [count] → first ≤ i → i ≤ last →
        let n := min (min count.toNat (last + 1 - i)) (106 / q.length)
        exec .tableRead s = .next (s.answered f rest (if n < count.toNat then 0x01#8 else 0x00#8) 0x02#8
          ([q.code, hi, lo] ++ be 1 n ++ (List.range n).flatMap (fun k => s.image t (i + k)))))) := by
  refine ⟨fun ho => ?_, fun t more ho hout => ?_, fun t more ho hin hshort => ?_, fun q hq hi lo more ho => ?_⟩
  · refine exec_tableRead ht hf (a := replyOnly .badLength) ?_
    subst ho
    simp only [tableReadBody, operandsOf_asks hf]
    exact if_pos Nat.one_pos
  · subst ho
    have htable : field (t :: more) 0 1 = t.toNat := ofBe_one t
    refine exec_tableRead ht hf (a := replyOnly .badTable) ?_
    simp only [tableReadBody, operandsOf_asks hf, htable, Table.ofCode_outside hout]
    exact if_neg (by simp)
  · subst ho
    have htable : field (t :: more) 0 1 = t.toNat := ofBe_one t
    obtain ⟨table, hcode⟩ := Table.ofCode_inside hin
    refine exec_tableRead ht hf (a := replyOnly .badLength) ?_
    simp only [tableReadBody, operandsOf_asks hf, htable, hcode]
    rw [if_neg (by simp), if_pos (by simp only [List.length_cons]; omega)]
  · intro i first last
    subst ho
    obtain ⟨table, hcode, hlength, hrange⟩ := tableForms_ofCode hq
    have hbody := tableReadBody_known (t := s.dropFrame rest) hf hcode
    have hin : inRange table.readRange i = (decide (first ≤ i) && decide (i ≤ last)) := by rw [hrange]; rfl
    refine ⟨fun hout => ?_, fun hlo hhi hlen => ?_, fun t count ht' hmore hlo hhi => ?_⟩
    · refine exec_tableRead ht hf (a := replyOnly .badIndex) (hbody.trans (if_pos ?_))
      rw [hin]
      simp only [Bool.not_eq_true', Bool.and_eq_false_iff, decide_eq_false_iff_not]
      omega
    · refine exec_tableRead ht hf (a := replyOnly .badLength) (hbody.trans ?_)
      rw [if_neg (by rw [hin]; simp [hlo, hhi]), if_pos hlen]
    · intro n
      subst hmore
      have hsame : table = t := by
        have hof := Table.ofCode_code t
        rw [ht', hcode] at hof
        exact Option.some.inj hof
      subst hsame
      have hcount : field [q.code, hi, lo, count] 3 1 = count.toNat := ofBe_one count
      have hfit : table.fit count.toNat 106 i = n := by
        rw [Table.fit_eq, hlength, hrange]
      have htablebyte : be 1 table.code = [q.code] := by rw [ht', be_one_toNat]
      have hindex : be 2 i = [hi, lo] := by
        have hspelled := be_ofBe [hi, lo]
        rwa [ofBe_two] at hspelled
      refine (exec_tableRead ht hf (a := replyWith (if n < count.toNat then .okClamped else .ok)
        ([q.code, hi, lo] ++ be 1 n ++ (List.range n).flatMap (fun k => s.image table (i + k)))) (hbody.trans ?_)).trans ?_
      · rw [if_neg (by rw [hin]; simp [hlo, hhi]), if_neg (by simp)]
        simp only [hcount, image_dropFrame]
        rw [show hi.toNat * 256 + lo.toNat = i from rfl, hfit, htablebyte, hindex]
        rfl
      · split <;> rfl

end

/-! ### STATUS_READ (R184) -/

/-- The positions of the pending SET_TIME. -/
def pendingPositions : Option Time → List Position
  | some t => timePositions (some t)
  | none => [{ width := 5, shown := none }]

theorem spells_pending : ∀ t : Option Time, spells (pendingBytes t) (pendingPositions t)
  | some t => spells_time t
  | none => spells_absent 11 5

/-- The positions of the parked frame. -/
def parkedPositions : Option Parked → List Position
  | some p => [num 1 p.frame.kind.toNat, num 2 p.age]
  | none => [num 1 0, { width := 2, shown := none }]

theorem spells_parked : ∀ p : Option Parked, spells (parkedBytes p) (parkedPositions p)
  | some _ => spells_cons (spells_byte _) (spells_be 2 _)
  | none => spells_cons (spells_byte 0#8) (spells_absent 12 2)

/-- The positions of the capture record. -/
def capturedPositions : Option CapturedFrame → List Position
  | some c => [num 1 c.kind.toNat, num 1 c.tag.toNat, num 1 c.src.toNat, num 1 c.dst.toNat, num 1 c.station,
      num 1 c.length] ++ (List.range 24).map (fun k => num 1 ((c.bytes[k]?).getD 0#8).toNat) ++ timePositions (some c.time)
  | none => [{ width := 35, shown := none }]

theorem spells_captured : ∀ c : Option CapturedFrame, spells (capturedBytes c) (capturedPositions c)
  | some c => by
    simp only [capturedBytes, capturedPositions, padded_eq, List.append_assoc, List.cons_append, List.nil_append]
    exact spells_cons (spells_byte _) (spells_cons (spells_byte _) (spells_cons (spells_byte _) (spells_cons (spells_byte _)
      (spells_cons (spells_be 1 _) (spells_cons (spells_be 1 _)
      (spells_append (spells_map (fun k _ => spells_byte _)) (spells_time _)))))))
  | none => spells_absent 13 35

/-- The positions of the watch. -/
def Watch.positions (w : Watch) : List Position :=
  [num 1 w.keyKind.code, num 4 w.keyValue, num 1 w.filter.toNat, num 1 w.action.code, num 1 w.state.code,
    num 1 (w.held.getD 0xFF)] ++ (parkedPositions w.parked ++ (num 1 (w.stepMark.getD 0xFF) ::
    (capturedPositions w.captured ++ [num 2 w.matchCount])))

theorem spells_watch (w : Watch) : spells w.bytes w.positions := by
  simp only [Watch.bytes, Watch.positions, List.append_assoc, List.cons_append, List.nil_append]
  exact spells_cons (spells_be 1 _) (spells_cons (spells_be 4 _) (spells_cons (spells_be 1 _) (spells_cons (spells_be 1 _)
    (spells_cons (spells_be 1 _) (spells_cons (spells_index1 _) (spells_append (spells_parked _)
    (spells_cons (spells_index1 _) (spells_append (spells_captured _) (spells_be 2 _)))))))))

/-- The status flags, in order. -/
def State.statusBits (s : State) : List Bool :=
  [s.part.phase == .running, s.part.openMode, s.part.kind == .warm, s.part.saving, s.clock.set, s.clock.pending.isSome,
    !s.journal.records.isEmpty, s.watch.captured.isSome]

theorem statusFlags_eq (s : State) : s.statusFlags = flagBits s.statusBits := by
  have holdest : s.journal.oldest.isSome = !s.journal.records.isEmpty := by
    unfold Journal.oldest
    cases s.journal.records <;> rfl
  simp only [State.statusFlags, State.statusBits, holdest, State.running, bit_eq, flagBits]
  omega

/-- The status data up to the stations. -/
def State.statusHead (s : State) : List Byte :=
  be 1 s.statusFlags ++ (be 1 s.part.cause.code ++ (be 1 s.part.image.code ++ (timeBytes s.clock.time ++
    (pendingBytes s.clock.pending ++ (be 2 s.period ++ (be 2 s.journal.records.length ++ (be 2 s.journal.reserved ++
    (optBytes 10 2 s.journal.oldest ++ (be 2 s.journal.serial ++ (be 1 (s.countNow s.link.notices.length) ++
    (be 1 (16 * s.link.rx.length + s.link.replies.length) ++
    (be 1 (16 * s.countNow s.lineA.relay.length + s.countNow s.lineB.relay.length) ++
    (be 1 (s.countNow s.link.toCenter.length) ++ be 1 (s.countNow s.planner.due.length))))))))))))))

theorem statusData_eq (s : State) : s.statusData =
    s.statusHead ++ ((List.range 32).map s.stationStatus ++ s.watch.bytes) := by
  unfold State.statusData State.statusHead
  simp only [List.append_assoc]

/-- The positions of the status data up to the stations. -/
def State.headPositions (s : State) : List Position :=
  let running := fun n : Nat => if s.part.phase = .loading then 0 else n
  num 1 (flagBits s.statusBits) :: num 1 s.part.cause.code :: num 1 s.part.image.code ::
    (timePositions (some s.clock.time) ++ (pendingPositions s.clock.pending ++
    [num 2 s.period, num 2 s.journal.records.length, num 2 s.journal.reserved,
     { width := 2, shown := s.journal.oldest }, num 2 s.journal.serial,
     num 1 (running s.link.notices.length), num 1 (16 * s.link.rx.length + s.link.replies.length),
     num 1 (16 * running s.lineA.relay.length + running s.lineB.relay.length), num 1 (running s.link.toCenter.length),
     num 1 (running s.planner.due.length)]))

theorem countNow_eq (s : State) (n : Nat) : s.countNow n = if s.part.phase = .loading then 0 else n := by
  simp [State.countNow, State.loading]

theorem spells_statusHead (s : State) : spells s.statusHead s.headPositions := by
  unfold State.statusHead State.headPositions
  simp only [statusFlags_eq, countNow_eq]
  exact spells_cons (spells_be 1 _) (spells_cons (spells_be 1 _) (spells_cons (spells_be 1 _) (spells_append (spells_time _)
    (spells_append (spells_pending _) (spells_cons (spells_be 2 _) (spells_cons (spells_be 2 _) (spells_cons (spells_be 2 _)
    (spells_cons (spells_optBytes 10 2 _) (spells_cons (spells_be 2 _) (spells_cons (spells_be 1 _)
    (spells_cons (spells_be 1 _) (spells_cons (spells_be 1 _) (spells_cons (spells_be 1 _) (spells_be 1 _))))))))))))))

theorem stationStatus_eq (s : State) (i : Nat) :
    [s.stationStatus i] = be 1 ((s.station i).state.code + 16 * (s.station i).health.code) := by
  simp [be, State.stationStatus]

/-- The positions of the stations. -/
def State.stationPositions (s : State) : List Position :=
  (List.range 32).map (fun i => num 1 ((s.station i).state.code +
    16 * flagBits [(s.station i).health.tamper, (s.station i).health.flood, (s.station i).health.supplyLow]))

theorem spells_stationStatuses (s : State) : spells ((List.range 32).map s.stationStatus) s.stationPositions := by
  rw [List.map_eq_flatMap]
  refine spells_map (fun i _ => ?_)
  have hhealth : flagBits [(s.station i).health.tamper, (s.station i).health.flood, (s.station i).health.supplyLow] =
      (s.station i).health.code := by
    simp only [Health.code, bit_eq, flagBits]; omega
  rw [hhealth]
  exact spells_num (stationStatus_eq s i) rfl

theorem statusLayout_eq (s : State) : s.statusLayout = s.headPositions ++ (s.stationPositions ++ s.watch.positions) := by
  unfold State.statusLayout State.headPositions State.stationPositions Watch.positions
  simp only [List.append_assoc, List.cons_append, List.nil_append]
  rfl

/-- The status data spell their layout (R184, 11.7). -/
theorem spells_statusData (s : State) : spells s.statusData s.statusLayout := by
  rw [statusData_eq, statusLayout_eq]
  exact spells_append (spells_statusHead s) (spells_append (spells_stationStatuses s) (spells_watch _))

theorem length_pendingBytes (t : Option Time) : (pendingBytes t).length = 5 := by
  rw [length_of_spells (spells_pending t)]; cases t <;> rfl

theorem length_timeBytes (t : Time) : (timeBytes t).length = 5 := (length_of_spells (spells_time t)).trans rfl

theorem length_parkedBytes (p : Option Parked) : (parkedBytes p).length = 3 := by
  cases p <;> simp [parkedBytes]

theorem length_capturedBytes (c : Option CapturedFrame) : (capturedBytes c).length = 35 := by
  cases c <;> simp [capturedBytes, length_timeBytes]

theorem length_watchBytes (w : Watch) : w.bytes.length = 50 := by
  simp only [Watch.bytes, List.length_append, length_be, length_parkedBytes, length_capturedBytes, index1]

theorem length_statusHead (s : State) : s.statusHead.length = 28 := by
  simp only [State.statusHead, List.length_append, length_be, length_pendingBytes, length_timeBytes, length_optBytes]

/-- A flag of a set, by its place. -/
theorem testBit_flagBits (l : List Bool) (n : Nat) : (flagBits l).testBit n = (l[n]?).getD false := by
  induction l generalizing n with
  | nil => simp [flagBits]
  | cons b l ih =>
    cases n with
    | zero =>
      rw [Nat.testBit_zero, flagBits]
      cases b <;> simp
    | succ n =>
      rw [Nat.testBit_succ, flagBits, show (b.toNat + 2 * flagBits l) / 2 = flagBits l by
        have hb := b.toNat_lt
        omega, ih]
      rfl

theorem getLsbD_statusFlags (s : State) {n : Nat} (h : n < 8) :
    (BitVec.ofNat 8 s.statusFlags).getLsbD n = (s.statusBits[n]?).getD false := by
  rw [BitVec.getLsbD_ofNat, statusFlags_eq, testBit_flagBits]
  simp [h]

/-- Bytes of the status data before the stations. -/
theorem statusData_slice (s : State) {i n : Nat} (h : i + n ≤ 28) :
    (s.statusData.drop i).take n = (s.statusHead.drop i).take n := by
  rw [statusData_eq, take_drop_left (length_statusHead s) h]

/-- A piece between two others. -/
theorem slice_between {a b c : List Byte} {i n : Nat} (ha : a.length = i) (hb : b.length = n) :
    ((a ++ (b ++ c)).drop i).take n = b := by
  rw [List.drop_left' ha, List.take_left' hb]

section
variable (s : State)

theorem statusHead_start : (s.statusHead.drop 1).take 2 = be 1 s.part.cause.code ++ be 1 s.part.image.code := by
  unfold State.statusHead
  rw [take_drop_right (length_be 1 _) (by omega), ← List.append_assoc]
  exact List.take_left' (by simp)

theorem statusHead_time : (s.statusHead.drop 3).take 5 = timeBytes s.clock.time := by
  unfold State.statusHead
  rw [take_drop_right (length_be 1 _) (by omega), take_drop_right (length_be 1 _) (by omega)]
  exact slice_between (length_be 1 _) (length_timeBytes _)

theorem statusHead_period : (s.statusHead.drop 13).take 2 = be 2 s.period := by
  unfold State.statusHead
  rw [take_drop_right (length_be 1 _) (by omega), take_drop_right (length_be 1 _) (by omega),
    take_drop_right (length_be 1 _) (by omega), take_drop_right (length_timeBytes _) (by omega)]
  exact slice_between (length_pendingBytes _) (length_be 2 _)

/-- The status data from the journal figures on. -/
theorem statusHead_figures {i n : Nat} (h : 15 ≤ i) : (s.statusHead.drop i).take n =
    ((be 2 s.journal.records.length ++ (be 2 s.journal.reserved ++
    (optBytes 10 2 s.journal.oldest ++ (be 2 s.journal.serial ++ (be 1 (s.countNow s.link.notices.length) ++
    (be 1 (16 * s.link.rx.length + s.link.replies.length) ++
    (be 1 (16 * s.countNow s.lineA.relay.length + s.countNow s.lineB.relay.length) ++
    (be 1 (s.countNow s.link.toCenter.length) ++ be 1 (s.countNow s.planner.due.length))))))))).drop (i - 15)).take n := by
  unfold State.statusHead
  rw [take_drop_right (length_be 1 _) (by omega), take_drop_right (length_be 1 _) (by omega),
    take_drop_right (length_be 1 _) (by omega), take_drop_right (length_timeBytes _) (by omega),
    take_drop_right (length_pendingBytes _) (by omega), take_drop_right (length_be 2 _) (by omega)]
  simp only [Nat.sub_sub, Nat.reduceAdd]

theorem statusHead_journal :
    (s.statusHead.drop 15).take 4 = be 2 s.journal.records.length ++ be 2 s.journal.reserved := by
  rw [statusHead_figures s (by omega), ← List.append_assoc]
  exact List.take_left' (by simp)

theorem statusHead_serial : (s.statusHead.drop 21).take 2 = be 2 s.journal.serial := by
  rw [statusHead_figures s (by omega), take_drop_right (length_be 2 _) (by omega), take_drop_right (length_be 2 _) (by omega)]
  exact slice_between (length_optBytes _ _ _) (length_be 2 _)

theorem statusHead_queues : (s.statusHead.drop 24).take 1 = be 1 (16 * s.link.rx.length + s.link.replies.length) := by
  rw [statusHead_figures s (by omega), take_drop_right (length_be 2 _) (by omega), take_drop_right (length_be 2 _) (by omega),
    take_drop_right (length_optBytes _ _ _) (by omega), take_drop_right (length_be 2 _) (by omega)]
  exact slice_between (length_be 1 _) (length_be 1 _)

end

/-- The byte of a station in the status data. -/
theorem statusData_station (s : State) {i : Nat} (h : i < 32) : (s.statusData.drop (28 + i)).take 1 = [s.stationStatus i] := by
  rw [statusData_eq, take_drop_right (length_statusHead s) (by omega), Nat.add_sub_cancel_left,
    take_drop_left (m := 32) (by simp) (by omega), List.take_one, List.head?_drop, List.getElem?_map,
    List.getElem?_range h]
  rfl

/-- What STATUS_READ answers: it changes nothing, in LOADING as well as in RUNNING. -/
theorem exec_statusRead {s : State} {f : Frame} {rest : List Frame} {o : List Byte} (hphase : s.part.phase ≠ .stopped)
    (hx : s.link.rx = f :: rest) (hroom : s.link.replies.length < 4) (hnone : s.part.requested = none)
    (hf : f.asks 0x08#8 o) {a : Answer} (hb : statusReadBody f (s.dropFrame rest) = (s.dropFrame rest, a)) :
    exec .statusRead s = .next (s.answered f rest (BitVec.ofNat 8 a.result.code) 0x08#8 a.data) := by
  have hawake : s.awake = true := by
    unfold State.awake
    cases hp : s.part.phase with
    | stopped => exact absurd hp hphase
    | loading => rfl
    | running => rfl
  have hm : s.mayHandle = true := by simp [State.mayHandle, hawake, hroom, hnone]
  have hq : requestOf f = .statusRead := requestOf_asks hf
  refine congrArg Host.Outcome.next ((State.handleOldest_of hm hx (by simp [hq]) hb).trans ?_)
  rw [replyCode_asks hf, replyKind_eq, hq]
  rfl

theorem statusReadAnswers (s : State) (f : Frame) (rest : List Frame) (o : List Byte) (hphase : s.part.phase ≠ .stopped)
    (hx : s.link.rx = f :: rest) (hroom : s.link.replies.length < 4) (hnone : s.part.requested = none)
    (hf : f.asks 0x08#8 o) :
    (o ≠ [] → exec .statusRead s = .next (s.answered f rest 0x06#8 0x08#8 [])) ∧
    (o = [] → exec .statusRead s = .next (s.answered f rest 0x00#8 0x08#8 (s.dropFrame rest).statusData)) := by
  have hrun := fun a => exec_statusRead hphase hx hroom hnone hf (a := a)
  refine ⟨fun ho => hrun (replyOnly .badLength) ?_, fun ho => hrun (replyWith .ok _) ?_⟩
  · rw [statusReadBody, operandsOf_asks hf, if_pos ho]
  · simp only [statusReadBody, operandsOf_asks hf]
    exact if_neg (not_not.mpr ho)

/-- Settles O57: both reads change nothing, and what they show spells the layouts of 11.7. -/
theorem readsReportAndChangeNothing : Obligations.ReadsReportAndChangeNothing := by
  refine ⟨fun s f rest o ht hf => tableReadAnswers ht hf, spells_image, codesFollowTheLists_holds,
    fun s f rest o hphase hx hroom hnone hf => ?_⟩
  obtain ⟨hlong, hempty⟩ := statusReadAnswers s f rest o hphase hx hroom hnone hf
  refine ⟨hlong, fun ho => ⟨_, hempty ho, ?_, spells_statusData _, fun flags hflags => ?_, ?_, ?_, ?_, ?_, ?_, ?_,
    fun i hi => ?_⟩⟩
  · rw [statusData_eq]
    simp only [List.length_append, length_statusHead, List.length_map, List.length_range, length_watchBytes]
  · have hfirst : flags = BitVec.ofNat 8 (s.dropFrame rest).statusFlags := by
      rw [statusData_eq] at hflags
      simp only [State.statusHead, be, List.cons_append, List.nil_append, List.head?_cons, Option.some.injEq] at hflags
      simpa using hflags.symm
    have hbit := fun n hn => getLsbD_statusFlags (s.dropFrame rest) (n := n) hn
    rw [hfirst]
    refine ⟨(hbit 0 (by decide)).trans ?_, (hbit 1 (by decide)).trans rfl, (hbit 2 (by decide)).trans ?_,
      (hbit 3 (by decide)).trans rfl, (hbit 4 (by decide)).trans rfl, (hbit 5 (by decide)).trans rfl,
      (hbit 6 (by decide)).trans ?_, (hbit 7 (by decide)).trans rfl⟩
    · exact Bool.eq_iff_iff.mpr (by simp [State.statusBits, State.dropFrame])
    · exact Bool.eq_iff_iff.mpr (by simp [State.statusBits, State.dropFrame])
    · exact Bool.eq_iff_iff.mpr (by simp [State.statusBits, State.dropFrame])
  · exact (statusData_slice _ (by omega)).trans (statusHead_start _)
  · exact (statusData_slice _ (by omega)).trans (statusHead_time _)
  · exact (statusData_slice _ (by omega)).trans (statusHead_period _)
  · exact (statusData_slice _ (by omega)).trans (statusHead_journal _)
  · exact (statusData_slice _ (by omega)).trans (statusHead_serial _)
  · exact (statusData_slice _ (by omega)).trans (statusHead_queues _)
  · rw [statusData_station _ hi, stationStatus_eq]
    rfl

end Sys2Proof.Machine
end

section
/-! PROOFS. A card shown: validation, and the refusals in their order (R38, R41, R49, R112 to R116, R149, R150). -/

namespace Sys2Proof.Machine

/-! ### The card's last seen (R45, R49) -/

section
variable (s : State) (idx c : Nat) (code : DisplayCode)

/-- What a card's last seen becomes: open mode writes none. -/
def State.seenAt : Option LastSeen :=
  if s.part.openMode then (s.card idx).lastSeen else some { time := s.clock.time, container := c, code := code }

theorem see_touches : ∃ t, s.see idx c code = { s with cards := t } := by
  unfold State.see
  split
  · exact ⟨_, rfl⟩
  · exact ⟨_, rfl⟩

theorem card_see (j : Nat) : (s.see idx c code).card j =
    if j = idx then { s.card idx with lastSeen := s.seenAt idx c code } else s.card j := by
  unfold State.see State.seenAt
  split
  · split
    · rename_i hj
      rw [hj]
    · rfl
  · rw [State.card_updCard]
    rfl

theorem card_see_same : (s.see idx c code).card idx = { s.card idx with lastSeen := s.seenAt idx c code } := by
  rw [card_see, if_pos rfl]

theorem card_see_other {j : Nat} (h : j ≠ idx) : (s.see idx c code).card j = s.card j := by
  rw [card_see, if_neg h]

/-- A refusal that writes last seen: the state whose SHOW it is. -/
theorem refuseSeen_shows (value : Nat) : ∃ w : State, s.refuseSeen idx c code value = w.show c code value ∧
    { w with cards := s.cards } = s ∧
    (w.card idx = { s.card idx with lastSeen := s.seenAt idx c code } ∧ ∀ j, j ≠ idx → w.card j = s.card j) := by
  refine ⟨_, rfl, ?_, card_see_same s idx c code, fun j hj => card_see_other s idx c code hj⟩
  obtain ⟨_, htouches⟩ := see_touches s idx c code
  rw [htouches]

end

/-! ### Which path a card takes (R112 to R114, R127, R149, R163) -/

section
variable {s : State} {c number age : Nat} (station : Nat) (reader : Bool)

theorem cardShown_absent (h : (s.container c).cfg.present = false) :
    s.cardShown station c reader number age = s.show c .noSlot 0 :=
  if_pos (by rw [State.present, h]; rfl)

/-- At a container that is present validation speaks first. -/
theorem cardShown_present (h : (s.container c).cfg.present = true) : s.cardShown station c reader number age =
    match s.validate number with
    | some code => (if code = .lostCard then s.raise .cardLostSeen (some (cardIndex number)) station else s).show c code 0
    | none =>
      if 10 < age then s.refuseSeen (cardIndex number) c .stale 0
      else if s.part.openMode then
        (if reader then s.crewDecision c (cardIndex number) else s.openDecision c (cardIndex number))
      else if (s.card (cardIndex number)).cfg.cls = .crew then s.crewDecision c (cardIndex number)
      else if reader then s.refuseSeen (cardIndex number) c .wrongReader 0
      else s.residentDecision c (cardIndex number) := by
  have hpresent : s.present c = true := h
  rw [State.cardShown, hpresent]
  rfl

variable (hpresent : (s.container c).cfg.present = true)
include hpresent

theorem cardShown_invalid {code : DisplayCode} (hcode : s.validate number = some code) :
    s.cardShown station c reader number age =
      (if code = .lostCard then s.raise .cardLostSeen (some (cardIndex number)) station else s).show c code 0 := by
  rw [cardShown_present station reader hpresent, hcode]

variable (hvalid : s.validate number = none)
include hvalid

theorem cardShown_stale (h : 10 < age) :
    s.cardShown station c reader number age = s.refuseSeen (cardIndex number) c .stale 0 := by
  rw [cardShown_present station reader hpresent, hvalid]
  exact if_pos h

variable (hage : age ≤ 10)
include hage

theorem cardShown_crew (h : s.part.openMode = false ∧ (s.card (cardIndex number)).cfg.cls = .crew ∨
      s.part.openMode = true ∧ reader = true) :
    s.cardShown station c reader number age = s.crewDecision c (cardIndex number) := by
  rw [cardShown_present station reader hpresent, hvalid]
  obtain ⟨hopen, hcrew⟩ | ⟨hopen, hreader⟩ := h
  · simp [hopen, hcrew, Nat.not_lt.mpr hage]
  · simp [hopen, hreader, Nat.not_lt.mpr hage]

theorem cardShown_open (hopen : s.part.openMode = true) :
    s.cardShown station c false number age = s.openDecision c (cardIndex number) := by
  rw [cardShown_present station false hpresent, hvalid]
  simp [hopen, Nat.not_lt.mpr hage]

theorem cardShown_wrongReader (hopen : s.part.openMode = false) (hclass : (s.card (cardIndex number)).cfg.cls ≠ .crew) :
    s.cardShown station c true number age = s.refuseSeen (cardIndex number) c .wrongReader 0 := by
  rw [cardShown_present station true hpresent, hvalid]
  simp [hopen, hclass, Nat.not_lt.mpr hage]

theorem cardShown_resident (hopen : s.part.openMode = false) (hclass : (s.card (cardIndex number)).cfg.cls ≠ .crew) :
    s.cardShown station c false number age = s.residentDecision c (cardIndex number) := by
  rw [cardShown_present station false hpresent, hvalid]
  simp [hopen, hclass, Nat.not_lt.mpr hage]

end

/-! ### The service path (R149, R150) -/

section
variable {s : State} {c : Nat} (idx : Nat)

theorem crewDecision_barred (h : (s.container c).inlet.state = .barred) :
    s.crewDecision c idx = s.refuseSeen idx c .outOfService 0 := by
  simp [State.crewDecision, h]

theorem crewDecision_lift (h : (s.container c).inlet.state = .lifting ∨ (s.container c).inlet.state = .settling) :
    s.crewDecision c idx = s.refuseSeen idx c .servicing 0 := by
  obtain h | h := h <;> simp [State.crewDecision, h]

theorem crewDecision_service {v : Service} (h : (s.container c).inlet.state = .service)
    (hv : (s.container c).inlet.service = some v) :
    s.crewDecision c idx = if v.crew = some idx then s.restartService c idx v else s.refuseSeen idx c .servicing 0 := by
  simp only [State.crewDecision, h, hv]

theorem crewDecision_locked (h : (s.container c).inlet.state = .locked) :
    s.crewDecision c idx = s.serviceRoom c idx false := by
  simp [State.crewDecision, h]

theorem crewDecision_opened (h : (s.container c).inlet.state = .opened) :
    s.crewDecision c idx = (s.dropGrant c).serviceRoom c idx true := by
  simp [State.crewDecision, h]

theorem turnAsked_see {t : State} (h : s.turnAsked t c) (i d : Nat) (code : DisplayCode) :
    s.turnAsked (t.see i d code) c := by
  obtain ⟨_, htouches⟩ := see_touches t i d code
  have hlines : ∀ l, (t.see i d code).line l = t.line l := fun l => by rw [htouches]; cases l <;> rfl
  obtain ⟨hothers, hline⟩ := h
  exact ⟨fun l hl => (hlines l).trans (hothers l hl), (hlines _).trans hline⟩

theorem seenAt_congr {t : State} {i : Nat} (hpart : t.part = s.part) (hclock : t.clock = s.clock)
    (hcard : t.card i = s.card i) (d : Nat) (code : DisplayCode) : t.seenAt i d code = s.seenAt i d code := by
  unfold State.seenAt
  rw [hpart, hclock, hcard]

/-- The window of a service starts again, and its command is set again (R150). -/
def State.serviceAgain (s : State) (c : Nat) (v : Service) : State :=
  (s.updInlet c (fun n => { n with service := some { v with windowLeft := some s.params.serviceWindow } })).setCommand c
    .serviceUnlock s.params.serviceWindow .serviceGranted (serviceValue v.round)

theorem serviceAgain_touches (s : State) (c : Nat) (v : Service) :
    ∃ ks x y, s.serviceAgain c v = { s with containers := ks, lineA := x, lineB := y } := by
  obtain ⟨_, _, _, hcommand⟩ := setCommand_touches
    (s.updInlet c (fun n => { n with service := some { v with windowLeft := some s.params.serviceWindow } })) c
    .serviceUnlock s.params.serviceWindow .serviceGranted (serviceValue v.round)
  exact ⟨_, _, _, hcommand⟩

theorem serviceAgain_sets (s : State) (c : Nat) (v : Service) :
    { s.serviceAgain c v with containers := s.containers, lineA := s.lineA, lineB := s.lineB } = s ∧
      (∀ d, d ≠ c → (s.serviceAgain c v).container d = s.container d) ∧
      (s.serviceAgain c v).container c = { s.container c with inlet := { (s.container c).inlet with
        service := some { v with windowLeft := some s.params.serviceWindow }
        command := some { action := .serviceUnlock, window := s.params.serviceWindow, code := .serviceGranted,
                          value := serviceValue v.round, sent := false } } } ∧
      s.turnAsked (s.serviceAgain c v) c := by
  obtain ⟨-, hothers, hsame, hasked⟩ := setCommand_sets
    (s.updInlet c (fun n => { n with service := some { v with windowLeft := some s.params.serviceWindow } })) c
    .serviceUnlock s.params.serviceWindow .serviceGranted (serviceValue v.round)
  refine ⟨?_, fun d hd => ?_, ?_, turnAsked_congr hasked rfl (fun _ => rfl) (fun _ => rfl)⟩
  · obtain ⟨_, _, _, htouches⟩ := serviceAgain_touches s c v
    rw [htouches]
  · exact (hothers d hd).trans (by rw [State.container_updInlet, if_neg hd])
  · refine hsame.trans ?_
    rw [State.container_updInlet, if_pos rfl]

/-- A crew card shown again to its own service: the window, the command, the turn and last seen. -/
theorem restartService_restarts (s : State) (c : Nat) (v : Service) :
    let u := s.restartService c idx v
    { u with containers := s.containers, cards := s.cards, lineA := s.lineA, lineB := s.lineB } = s ∧
    (∀ d, d ≠ c → u.container d = s.container d) ∧
    u.container c = { s.container c with inlet := { (s.container c).inlet with
      service := some { v with windowLeft := some s.params.serviceWindow }
      command := some { action := .serviceUnlock, window := s.params.serviceWindow, code := .serviceGranted,
                        value := serviceValue v.round, sent := false } } } ∧
    u.card idx = { s.card idx with lastSeen := s.seenAt idx c .serviceGranted } ∧ (∀ j, j ≠ idx → u.card j = s.card j) ∧
    s.turnAsked u c := by
  intro u
  obtain ⟨hframe, hothers, hsame, hasked⟩ := serviceAgain_sets s c v
  obtain ⟨_, _, _, htouches⟩ := serviceAgain_touches s c v
  obtain ⟨_, hsees⟩ := see_touches (s.serviceAgain c v) idx c .serviceGranted
  have hu : u = (s.serviceAgain c v).see idx c .serviceGranted := rfl
  have hcards : ∀ j, (s.serviceAgain c v).card j = s.card j := fun j => by rw [htouches]; rfl
  have hcontainer : ∀ d, u.container d = (s.serviceAgain c v).container d := fun d => by rw [hu, hsees]; rfl
  refine ⟨?_, fun d hd => (hcontainer d).trans (hothers d hd), (hcontainer c).trans hsame, ?_, fun j hj => ?_,
    turnAsked_see hasked _ _ _⟩
  · rw [hu, hsees, htouches]
  · rw [hu, card_see_same, hcards]
    exact congrArg (fun x => { s.card idx with lastSeen := x })
      (seenAt_congr (by rw [htouches]) (by rw [htouches]) (hcards idx) c _)
  · rw [hu, card_see_other _ _ _ _ hj, hcards]

end

/-! ### The inlet-reader decision (R113 to R116) -/

section
variable {s : State} {c : Nat}

theorem inletCheck_of_refusal {code : DisplayCode} (h : (s.container c).inlet.state.inletRefusal = some code) :
    s.inletCheck c = some (code, 0) := by
  simp only [State.inletCheck, h]

/-- A LOCKED inlet refuses for its fill status alone. -/
theorem inletCheck_locked (h : (s.container c).inlet.state = .locked) : s.inletCheck c =
    if (s.container c).fill.status = .full ∨ (s.container c).fill.status = .overfull then some (.full, s.alternateHint c)
    else none := by
  simp only [State.inletCheck, h, InletState.inletRefusal]

theorem openDecision_refused {idx : Nat} {code : DisplayCode} {value : Nat} (h : s.inletCheck c = some (code, value)) :
    s.openDecision c idx = s.refuseSeen idx c code value := by
  simp only [State.openDecision, h]

theorem residentDecision_noAccount {idx : Nat} (h : (s.card idx).cfg.household = none) :
    s.residentDecision c idx = s.refuseSeen idx c .noAccount 0 := by
  simp only [State.residentDecision, h]

theorem residentDecision_inlet {idx hh : Nat} {code : DisplayCode} {value : Nat} (h : (s.card idx).cfg.household = some hh)
    (hcheck : s.inletCheck c = some (code, value)) : s.residentDecision c idx = s.refuseSeen idx c code value := by
  simp only [State.residentDecision, h, hcheck]

/-- Past the inlet the card's sets decide. -/
theorem residentDecision_sets {idx hh : Nat} {code : DisplayCode} (h : (s.card idx).cfg.household = some hh)
    (hcheck : s.inletCheck c = none) (hsets : s.setsCheck c (s.card idx).cfg = some code) :
    s.residentDecision c idx = s.refuseSeen idx c code 0 := by
  simp only [State.residentDecision, h, hcheck, hsets]

/-- Past the card's sets the quota and the room decide. -/
theorem residentDecision_quota {idx hh : Nat} (h : (s.card idx).cfg.household = some hh) (hcheck : s.inletCheck c = none)
    (hsets : s.setsCheck c (s.card idx).cfg = none) : s.residentDecision c idx = s.quotaAndRoom c idx hh := by
  simp only [State.residentDecision, h, hcheck, hsets]

/-- What the quota check looks at: the household after its lazy reset. -/
theorem household_lazyReset (s : State) (h j : Nat) : (s.lazyReset h).household j =
    if j = h then (s.household h).lazyReset s.period else s.household j := State.household_updHousehold s h j _

theorem quotaPasses_iff (r : Household) (f : Fraction) :
    r.quotaPasses f = true ↔ r.cfg.allowance.get f = 255 ∨ r.used.get f + r.held.get f < r.cfg.allowance.get f := by
  simp [Household.quotaPasses]

theorem cfg_lazyReset (r : Household) (p : Nat) : (r.lazyReset p).cfg = r.cfg := by
  unfold Household.lazyReset
  split <;> rfl

theorem grantReserves_lazyReset (s : State) (c h : Nat) : (s.lazyReset h).grantReserves c h = s.grantReserves c h := by
  unfold State.grantReserves
  rw [household_lazyReset, if_pos rfl, cfg_lazyReset]
  rfl

/-- The refusals of the sets in their order. -/
theorem setsCheck_eq (s : State) (c : Nat) (card : CardCfg) : s.setsCheck c card =
    if card.banks.getLsbD (s.station (stationOf c)).cfg.bank = false ∨
        card.cls = .business ∧ (s.bank (s.station (stationOf c)).cfg.bank).residentialOnly = true then some .bank
    else if card.fractions.getLsbD (s.container c).cfg.fraction.code = false then some .fraction else none := by
  unfold State.setsCheck
  dsimp only
  cases card.banks.getLsbD (s.station (stationOf c)).cfg.bank with
  | false => rfl
  | true =>
    cases card.fractions.getLsbD (s.container c).cfg.fraction.code with
    | false => simp
    | true => simp

end

/-! ### Validation in its order -/

/-- A card number is its district code, its index and its generation (R34). -/
theorem cardNumber_splits (number : Nat) :
    number = cardDistrict number * 65536 + cardIndex number * 16 + cardGeneration number ∧ cardIndex number < 4096 ∧
      cardGeneration number < 16 := by
  unfold cardDistrict cardIndex cardGeneration
  omega

/-- The alternate hint is given by the alternate as it stands (R115). -/
theorem alternateHint_eq (s : State) (c : Nat) : s.alternateHint c = match (s.container c).cfg.alternate with
    | none => 0
    | some a =>
      let o := s.container a
      if o.cfg.present = false ∨ o.fill.status = .full ∨ o.fill.status = .overfull ∨ o.inlet.state = .barred then 0
      else (s.bank (s.station (stationOf a)).cfg.bank).displayNumber := by
  unfold State.alternateHint
  cases (s.container c).cfg.alternate with
  | none => rfl
  | some a => simp

section
variable {s : State} {c idx h : Nat}

/-- With the quota used up the reset stands and the card is refused (R52, R116). -/
theorem quotaAndRoom_quota
    (hquota : ((s.household h).lazyReset s.period).quotaPasses (s.container c).cfg.fraction = false) :
    s.quotaAndRoom c idx h = (s.lazyReset h).refuseSeen idx c .quota 0 := by
  refine if_pos ?_
  rw [household_lazyReset, if_pos rfl]
  show (!Household.quotaPasses _ (s.container c).cfg.fraction) = true
  rw [hquota]
  rfl

/-- Within the quota, a grant that reserves asks for room (R61). -/
theorem quotaAndRoom_room
    (hquota : ((s.household h).lazyReset s.period).quotaPasses (s.container c).cfg.fraction = true) :
    s.quotaAndRoom c idx h = if s.grantReserves c h = true ∧ 991 < s.journal.places then
        ((s.lazyReset h).refuseSeen idx c .journalFull 0).raise .journalFull (some s.journal.places) c
      else (s.lazyReset h).grant c idx h := by
  have hpass : ((s.lazyReset h).household h).quotaPasses ((s.lazyReset h).container c).cfg.fraction = true := by
    rw [household_lazyReset, if_pos rfl]
    exact hquota
  unfold State.quotaAndRoom
  dsimp only
  rw [hpass, grantReserves_lazyReset]
  rfl

/-- A refusal after the lazy reset: the reset stands, and last seen is written. -/
theorem refuseSeen_afterReset (s : State) (h idx c : Nat) (code : DisplayCode) :
    ∃ w : State, (s.lazyReset h).refuseSeen idx c code 0 = w.show c code 0 ∧
      ({ w with cards := s.cards, households := s.households } = s ∧
      (w.card idx = { s.card idx with lastSeen := s.seenAt idx c code } ∧ ∀ j, j ≠ idx → w.card j = s.card j) ∧
      w.household h = (s.household h).lazyReset s.period ∧ ∀ j, j ≠ h → w.household j = s.household j) := by
  obtain ⟨_, htouches⟩ := see_touches (s.lazyReset h) idx c code
  have hhousehold : ∀ j, ((s.lazyReset h).see idx c code).household j = (s.lazyReset h).household j := fun j => by
    rw [htouches]; rfl
  refine ⟨(s.lazyReset h).see idx c code, rfl, ?_, ⟨?_, fun j hj => ?_⟩, ?_, fun j hj => ?_⟩
  · rw [htouches]
    rfl
  · exact card_see_same (s.lazyReset h) idx c code
  · exact card_see_other (s.lazyReset h) idx c code hj
  · rw [hhousehold, household_lazyReset, if_pos rfl]
  · rw [hhousehold, household_lazyReset, if_neg hj]

end

/-- Settles O30: by the paths a card takes, each with its refusals in order. -/
theorem validationRunsInOrder : Obligations.ValidationRunsInOrder := by
  intro s station c number age reader idx r k u seen wrote refusedWith refused
  have hrefused : ∀ code value, u = s.refuseSeen idx c code value → refusedWith code value := fun code value hu => by
    obtain ⟨w, hw⟩ := refuseSeen_shows s idx c code value
    exact ⟨w, hu.trans hw.1, hw.2⟩
  obtain ⟨hnumber, hidx, hgeneration⟩ := cardNumber_splits number
  refine ⟨hnumber, hidx, hgeneration, rfl, fun h => cardShown_absent station reader h,
    fun h code hcode => cardShown_invalid station reader h hcode,
    fun h hvalid hage => hrefused _ _ (cardShown_stale station reader h hvalid hage),
    fun h hvalid hage => ⟨fun hopen hclass hreader => ?_, fun hpath => ?_⟩, fun h hvalid hage hreader hpath => ?_⟩
  · subst hreader
    exact hrefused _ _ (cardShown_wrongReader station h hvalid hage hopen hclass)
  · have hcrew : u = s.crewDecision c idx := cardShown_crew station reader h hvalid hage hpath
    refine ⟨fun hs => hrefused _ _ (hcrew.trans (crewDecision_barred idx hs)),
      fun hs => hrefused _ _ (hcrew.trans (crewDecision_lift idx hs)), fun v hs hv => ⟨fun hother => ?_, fun hown => ?_⟩⟩
    · exact hrefused _ _ (hcrew.trans ((crewDecision_service idx hs hv).trans (if_neg hother)))
    · rw [hcrew, crewDecision_service idx hs hv, if_pos hown]
      exact restartService_restarts idx s c v
  · subst hreader
    intro full hint
    have hinlet : ∀ code value, s.inletCheck c = some (code, value) →
        s.part.openMode = true ∨ r.household.isSome = true → refusedWith code value := fun code value hcheck hwho => by
      refine hrefused _ _ ?_
      cases hopen : s.part.openMode with
      | true => exact (cardShown_open station h hvalid hage hopen).trans (openDecision_refused hcheck)
      | false =>
        have hclass : r.cls ≠ .crew := hpath.resolve_left (by rw [hopen]; decide)
        obtain ⟨hh, hhouse⟩ := Option.isSome_iff_exists.mp (hwho.resolve_left (by rw [hopen]; decide))
        exact (cardShown_resident station h hvalid hage hopen hclass).trans (residentDecision_inlet hhouse hcheck)
    refine ⟨fun hopen hnone => ?_, fun hwho => ⟨fun hs => ?_, fun hs => ?_, fun hs => ?_, fun hs hfull => ?_⟩,
      fun hh hhouse hopen hs hroom => ?_⟩
    · have hclass : r.cls ≠ .crew := hpath.resolve_left (by rw [hopen]; decide)
      exact hrefused _ _ ((cardShown_resident station h hvalid hage hopen hclass).trans (residentDecision_noAccount hnone))
    · exact hinlet _ _ (inletCheck_of_refusal (by rw [hs]; rfl)) hwho
    · exact hinlet _ _ (inletCheck_of_refusal (by rw [hs]; rfl)) hwho
    · refine hinlet _ _ (inletCheck_of_refusal ?_) hwho
      obtain hs | hs | hs := hs <;> (rw [hs]; rfl)
    · exact hinlet _ _ ((inletCheck_locked hs).trans ((if_pos hfull).trans
        (congrArg (fun v => some (DisplayCode.full, v)) (alternateHint_eq s c)))) hwho
    · intro fr bank outside hafter inQuota places reset
      have hclass : r.cls ≠ .crew := hpath.resolve_left (by rw [hopen]; decide)
      have hu : u = s.residentDecision c idx := cardShown_resident station h hvalid hage hopen hclass
      have hcheck : s.inletCheck c = none := (inletCheck_locked hs).trans (if_neg hroom)
      have hsets := setsCheck_eq s c r
      refine ⟨fun hout => ?_, fun hin hfraction => ?_, fun hin hfraction => ?_⟩
      · exact hrefused _ _ (hu.trans (residentDecision_sets hhouse hcheck (hsets.trans (if_pos hout))))
      · exact hrefused _ _ (hu.trans (residentDecision_sets hhouse hcheck
          (hsets.trans ((if_neg hin).trans (if_pos hfraction)))))
      · have hroomed := hu.trans (residentDecision_quota hhouse hcheck
          (hsets.trans ((if_neg hin).trans (if_neg (by rw [hfraction]; decide)))))
        refine ⟨fun hquota => ?_, fun hquota hmetered hfmetered hplaces => ?_⟩
        · have hfails : hafter.quotaPasses fr = false := by
            rw [← Bool.not_eq_true, quotaPasses_iff]
            exact hquota
          obtain ⟨w, hw, hreset⟩ := refuseSeen_afterReset s hh idx c .quota
          exact ⟨w, hroomed.trans ((quotaAndRoom_quota hfails).trans hw), hreset⟩
        · have hpasses : hafter.quotaPasses fr = true := (quotaPasses_iff _ _).mpr hquota
          have hreserves : s.grantReserves c hh = true := by
            rw [show hafter.cfg = (s.household hh).cfg from cfg_lazyReset _ _] at hmetered
            rw [State.grantReserves, hmetered, hfmetered]
            rfl
          obtain ⟨w, hw, hreset⟩ := refuseSeen_afterReset s hh idx c .journalFull
          refine ⟨w, ?_, hreset⟩
          rw [hroomed, quotaAndRoom_room hpasses, if_pos ⟨hreserves, hplaces⟩, hw]
          rfl

end Sys2Proof.Machine
end

section
/-! PROOFS. A reason that bars from any state (R108, R123, R162), at one container: what becomes of the inlet, of the fill
fields, of the household's hold, of the reservation and of the stop. -/

namespace Sys2Proof.Machine

/-! ### The branches of the bar -/

/-- How a crew's work ends that a reason cuts (R158, R162). -/
def BarReason.workEnd (r : BarReason) : WorkEnd := if r = .notPresent then .absent else .untipped

section
variable {s : State} {c : Nat} {r : BarReason}

theorem addBar_of_locked (hhas : (s.container c).inlet.bars.has r = false)
    (hstate : (s.container c).inlet.state = .locked) : s.addBar c r = (s.putBar c r true).setInlet c .barred := by
  unfold State.addBar
  dsimp only
  rw [hhas, hstate, if_neg Bool.false_ne_true]

theorem addBar_of_barred (hhas : (s.container c).inlet.bars.has r = false)
    (hstate : (s.container c).inlet.state = .barred) : s.addBar c r = s.putBar c r true := by
  unfold State.addBar
  dsimp only
  rw [hhas, hstate, if_neg Bool.false_ne_true]

theorem addBar_of_settling (hends : r.endsWork = true) (hhas : (s.container c).inlet.bars.has r = false)
    (hstate : (s.container c).inlet.state = .settling) :
    s.addBar c r = ((s.putBar c r true).updInlet c (fun m => { m with settleLeft := none })).setInlet c .barred := by
  unfold State.addBar
  dsimp only
  rw [hhas, hstate, hends, if_neg Bool.false_ne_true]
  exact if_pos rfl

theorem addBar_of_working (hends : r.endsWork = true) (hhas : (s.container c).inlet.bars.has r = false)
    (hworking : (s.container c).inlet.working = true) : s.addBar c r = (s.putBar c r true).crewLost c r.workEnd := by
  unfold State.addBar BarReason.workEnd
  dsimp only
  rw [hhas, hends, if_neg Bool.false_ne_true]
  cases hs : (s.container c).inlet.state <;> simp [Inlet.working, hs] at hworking ⊢

end

/-! ### The container -/

/-- A container whose inlet a reason bars from any state, but for the missed mark. -/
def Container.barredBy (r : BarReason) (k : Container) : Container :=
  { k with inlet := k.inlet.endedBy (k.inlet.bars.put r true), fill := k.fillEnded }

/-- A stop given back so is MISSED: the work ended without a tip in a round that its deadline is closing (R146). -/
def State.missesStop (s : State) (place : Option (Nat × Nat)) (why : WorkEnd) : Bool :=
  match place with
  | some (r, _) => decide ((s.round r).state = .closing ∧ why = .untipped ∧ (s.round r).closing = some .deadline)
  | none => false

/-- The work at a container, ended so, leaves its stop MISSED. -/
def State.missesWork (s : State) (c : Nat) (why : WorkEnd) : Bool :=
  ((s.container c).inlet.service.map (fun v => s.missesStop v.place why)).getD false

section
variable (s : State) (c : Nat)

theorem missed_returnStop (place : Option (Nat × Nat)) (why : WorkEnd) :
    ((s.returnStop c place why).container c).missed = ((s.container c).missed || s.missesStop place why) := by
  unfold State.returnStop State.missesStop
  cases place with
  | none => simp
  | some p =>
    obtain ⟨r, i⟩ := p
    cases hs : (s.round r).state
    case closing =>
      simp only [hs]
      by_cases hmissed : why = .untipped ∧ (s.round r).closing = some .deadline
      · simp [hmissed, container_reportMissed]
      · simp only [hmissed, if_false, and_false, decide_false, Bool.or_false]
        rfl
    all_goals simp [State.setStop, hs]

/-- Work that ends, with a service record or without: the record is gone, and at most the missed mark has changed. -/
theorem container_endWork_any (why : WorkEnd) (d : Nat) : (s.endWork c why).container d =
    if d = c then { s.container c with
      inlet := { (s.container c).inlet with service := none }
      missed := (s.container c).missed || s.missesWork c why }
    else s.container d := by
  unfold State.missesWork
  cases hv : (s.container c).inlet.service with
  | none =>
    have hsame : s.endWork c why = s := by rw [State.endWork, hv]
    have hinlet : { (s.container c).inlet with service := none } = (s.container c).inlet := by rw [← hv]
    rw [hsame, hinlet]
    by_cases hd : d = c
    · rw [if_pos hd, hd]
      simp
    · rw [if_neg hd]
  | some v =>
    obtain ⟨hothers, m, hmissed⟩ := container_returnStop s c v.place why
    have hm : m = ((s.container c).missed || s.missesStop v.place why) := by
      rw [← missed_returnStop s c v.place why, hmissed]
    have hback : ∀ d, ((s.returnStop c v.place why).updJournal (fun j =>
        { j with reserved := j.reserved - if v.reserved then 1 else 0 })).container d =
          (s.returnStop c v.place why).container d := fun _ => rfl
    rw [endWork_form s c v why hv, State.container_updInlet]
    by_cases hd : d = c
    · rw [if_pos hd, if_pos hd, hback, hmissed, hm]
      rfl
    · rw [if_neg hd, if_neg hd, hback, hothers d hd]

end

section
variable {s : State} {c : Nat} {r : BarReason}

/-- At a crew's work: the work is taken back, the inlet BARRED with LOCK CLOSED, E unknown (R162). -/
theorem container_crewLost (s : State) (c : Nat) (why : WorkEnd) (d : Nat) : (s.crewLost c why).container d =
    if d = c then { s.container c with
      inlet := { (s.container c).inlet with service := none, state := .barred, command := some InletCommand.closed }
      fill := { (s.container c).fill with
        estimate := none, risePending := false, status := .unknown, fullCount := 0
        request := if (s.container c).live then
            ((s.container c).fill.request.report (s.container c).inlet.state .barred).due .barred
          else (s.container c).fill.request.report (s.container c).inlet.state .barred }
      missed := (s.container c).missed || s.missesWork c why }
    else s.container d := by
  unfold State.crewLost
  rw [container_makeUnknown]
  by_cases hd : d = c
  · rw [if_pos hd, if_pos hd, container_lockClosed, if_pos rfl, container_setInlet, if_pos rfl, container_endWork_any,
      if_pos rfl]
    rfl
  · rw [if_neg hd, if_neg hd, container_lockClosed, if_neg hd, container_setInlet, if_neg hd, container_endWork_any,
      if_neg hd]

/-- Two requests of a crew's work that ends (R85, R88). -/
theorem request_crewLost {k : Container} (h : k.inlet.working = true) :
    (if k.live then (k.fill.request.report k.inlet.state .barred).due .barred
      else k.fill.request.report k.inlet.state .barred) = k.fillEnded.request := by
  have hwaits : k.inlet.waits = false := by
    unfold Inlet.working at h
    unfold Inlet.waits
    cases hs : k.inlet.state <;> simp [hs] at h ⊢
  have hdefers : k.inlet.state.defers = false := by rw [Inlet.defers_eq_waits, hwaits]
  rw [report_same_kind _ hdefers rfl]
  unfold Container.fillEnded
  dsimp only
  rw [h, hwaits]
  cases k.fill.request <;> cases k.live <;> rfl

/-- Leaving any state but a crew's work for BARRED: a DEFERRED request is PENDING where OPEN or SETTLING is left (R88). -/
theorem fillEnded_of_rest {k : Container} (h : k.inlet.working = false) :
    k.fillEnded = { k.fill with request := k.fill.request.report k.inlet.state .barred } := by
  have hbarred : InletState.barred.defers = false := rfl
  unfold Container.fillEnded
  dsimp only
  rw [h]
  cases k.fill.request <;> simp [SampleRequest.report, k.inlet.defers_eq_waits, hbarred]

theorem barredBy_of_working (r : BarReason) {k : Container} (h : k.inlet.working = true) (m : Bool) :
    ({ k with
      inlet := { k.inlet with
        bars := k.inlet.bars.put r true, service := none, state := .barred, command := some InletCommand.closed }
      fill := { k.fill with
        estimate := none, risePending := false, status := .unknown, fullCount := 0
        request := if k.live then (k.fill.request.report k.inlet.state .barred).due .barred
          else k.fill.request.report k.inlet.state .barred }
      missed := m } : Container) = { k.barredBy r with missed := m } := by
  have hstates : k.inlet.state ≠ .opened ∧ k.inlet.state ≠ .settling := by
    unfold Inlet.working at h
    cases hs : k.inlet.state <;> simp [hs] at h ⊢
  rw [request_crewLost h]
  unfold Container.barredBy Inlet.endedBy
  simp only [h, hstates.1, hstates.2, if_true, if_false, or_true]
  unfold Container.fillEnded
  rw [h]
  rfl

theorem barredBy_of_rest (r : BarReason) {k : Container} (h : k.inlet.working = false) :
    k.barredBy r = { k with
      inlet := { k.inlet with
        state := .barred, bars := k.inlet.bars.put r true
        grant := if k.inlet.state = .opened then none else k.inlet.grant
        settleLeft := if k.inlet.state = .settling then none else k.inlet.settleLeft
        command := if k.inlet.state = .opened then some InletCommand.closed else k.inlet.command }
      fill := { k.fill with request := k.fill.request.report k.inlet.state .barred } } := by
  unfold Container.barredBy Inlet.endedBy
  rw [fillEnded_of_rest h]
  simp [h]

/-- The stop that a crew's work at a container leaves MISSED when a reason cuts it. -/
def State.missesAt (s : State) (c : Nat) (r : BarReason) : Bool := (s.container c).inlet.working && s.missesWork c r.workEnd

/-- The bar at its container, and at the others. -/
theorem container_addBar_ends (hends : r.endsWork = true) (hhas : (s.container c).inlet.bars.has r = false) (d : Nat) :
    (s.addBar c r).container d =
      if d = c then { (s.container c).barredBy r with missed := (s.container c).missed || s.missesAt c r }
      else s.container d := by
  unfold State.missesAt
  have hput : ∀ d, (s.putBar c r true).container d = if d = c then _ else _ := fun d => container_putBar s c d r true
  cases hw : (s.container c).inlet.working with
  | true =>
    have hmisses : (s.putBar c r true).missesWork c r.workEnd = s.missesWork c r.workEnd := by
      unfold State.missesWork
      rw [hput, if_pos rfl]
      rfl
    rw [addBar_of_working hends hhas hw, container_crewLost, hmisses]
    by_cases hd : d = c
    · rw [if_pos hd, if_pos hd, hput, if_pos rfl]
      exact barredBy_of_working r hw _
    · rw [if_neg hd, if_neg hd, hput, if_neg hd]
  | false =>
    have hrest : (s.addBar c r).container d =
        if d = c then { (s.container c).barredBy r with missed := (s.container c).missed } else s.container d := by
      have hbarred := barredBy_of_rest r hw
      cases hs : (s.container c).inlet.state with
      | service => simp [Inlet.working, hs] at hw
      | lifting => simp [Inlet.working, hs] at hw
      | locked =>
        rw [addBar_of_locked hhas hs, container_setInlet]
        by_cases hd : d = c
        · rw [if_pos hd, if_pos hd, hput, if_pos rfl, hbarred]
          simp [hs]
        · rw [if_neg hd, if_neg hd, hput, if_neg hd]
      | barred =>
        rw [addBar_of_barred hhas hs, hput]
        by_cases hd : d = c
        · rw [if_pos hd, if_pos hd, hbarred, hs, report_same_kind _ rfl rfl]
          simp [hs]
        · rw [if_neg hd, if_neg hd]
      | opened =>
        rw [addBar_of_opened hhas hs, container_endGrant _ _ _ rfl]
        by_cases hd : d = c
        · rw [if_pos hd, if_pos hd, hput, if_pos rfl, hbarred, report_of_not_defers _ _ rfl]
          simp [hs, Inlet.waits]
        · rw [if_neg hd, if_neg hd, hput, if_neg hd]
      | settling =>
        rw [addBar_of_settling hends hhas hs, container_setInlet]
        by_cases hd : d = c
        · rw [if_pos hd, if_pos hd, State.container_updInlet, if_pos rfl, hput, if_pos rfl, hbarred]
          simp [hs]
        · rw [if_neg hd, if_neg hd, State.container_updInlet, if_neg hd, hput, if_neg hd]
    rw [hrest, Bool.false_and, Bool.or_false]

end

end Sys2Proof.Machine
end

section
/-! PROOFS. A reason that bars from any state: the counts and the stop of one container's work (R56, R64, R123, R162), and the
four containers of a station one after another (1.5). -/

namespace Sys2Proof.Machine

/-! ### The counts of a grant or of a crew's work -/

/-- The places of the journal that a grant or a crew's work gives back when the inlet is barred from any state (R64). -/
def Inlet.placesBack (n : Inlet) : Nat :=
  if n.state = .opened ∧ (n.grant.map Grant.reserved).getD false = true ∨
    n.working = true ∧ (n.service.map Service.reserved).getD false = true then 1 else 0

/-- The holds of a household and fraction that the inlet gives back when it is barred from any state (R56). -/
def Container.holdsBack (k : Container) (h : Nat) (f : Fraction) : Nat :=
  if k.inlet.state = .opened then k.binds h f else 0

section
variable (s : State) (c : Nat)

theorem household_dropGrant (h : Nat) : ∃ held, (s.dropGrant c).household h = { s.household h with held := held } ∧
    ∀ f, held.get f = (s.household h).held.get f - (s.container c).binds h f := by
  unfold Container.binds
  cases hg : (s.container c).inlet.grant with
  | none => exact ⟨(s.household h).held, by rw [State.dropGrant, hg], fun f => rfl⟩
  | some g =>
    obtain ⟨hbound, hothers⟩ := grantGone_dropGrant s c g hg
    by_cases hh : g.household = some h
    · refine ⟨_, hbound h hh, fun f => ?_⟩
      rw [PerFraction.get_set]
      by_cases hf : g.fraction = f
      · subst hf
        simp [hh]
      · simp [Ne.symm hf, hf]
    · exact ⟨(s.household h).held, hothers h hh, fun f => by simp [hh]⟩

theorem reserved_dropGrant : (s.dropGrant c).journal.reserved =
    s.journal.reserved - (if ((s.container c).inlet.grant.map Grant.reserved).getD false = true then 1 else 0) := by
  cases hg : (s.container c).inlet.grant with
  | none =>
    rw [State.dropGrant, hg]
    rfl
  | some g =>
    rw [dropGrant_form s c g hg]
    cases g.household <;> rfl

/-- Work that ends, by any cause: the containers, rounds, due list and notices, and the place it held. -/
theorem endWork_touches_any (why : WorkEnd) : ∃ ks rs p cs q, s.endWork c why =
    { s with containers := ks, rounds := rs, planner := p, classes := cs, link := { s.link with notices := q }
             journal := { s.journal with reserved := s.journal.reserved -
               (if ((s.container c).inlet.service.map Service.reserved).getD false = true then 1 else 0) } } := by
  cases hv : (s.container c).inlet.service with
  | none => exact ⟨_, _, _, _, _, by rw [State.endWork, hv]; rfl⟩
  | some v =>
    obtain ⟨_, _, _, _, _, hstop⟩ := returnStop_touches s c v.place why
    rw [endWork_form s c v why hv, hstop]
    exact ⟨_, _, _, _, _, rfl⟩

/-- What follows the end of a crew's work at the inlet leaves the rounds, the notices and the journal. -/
theorem crewLost_touches (why : WorkEnd) : ∃ ks p x y, s.crewLost c why =
    { s.endWork c why with containers := ks, planner := p, lineA := x, lineB := y } := by
  obtain ⟨_, _, _, hclosed⟩ := lockClosed_touches ((s.endWork c why).setInlet c .barred) c
  unfold State.crewLost
  obtain ⟨_, _, hunknown⟩ := makeUnknown_touches _ c
  rw [hunknown, hclosed]
  exact ⟨_, _, _, _, rfl⟩

end

section
variable {s : State} {c : Nat} {r : BarReason}

theorem opened_of_not_working {n : Inlet} (h : n.state = .opened) : n.working = false := by
  simp [Inlet.working, h]

theorem journal_endGrant_eq (s : State) (c : Nat) (st : InletState) :
    (s.endGrant c st).journal = (s.dropGrant c).journal :=
  journal_lockClosed ((s.dropGrant c).setInlet c st) c

/-- At an OPEN inlet the grant's counts go back. -/
theorem addBar_counts_of_opened (hhas : (s.container c).inlet.bars.has r = false)
    (hopened : (s.container c).inlet.state = .opened) :
    (s.addBar c r).journal.reserved = s.journal.reserved -
      (if ((s.container c).inlet.grant.map Grant.reserved).getD false = true then 1 else 0) ∧
    (∀ h, ∃ held, (s.addBar c r).household h = { s.household h with held := held } ∧
      ∀ f, held.get f = (s.household h).held.get f - (s.container c).binds h f) ∧
    (s.addBar c r).rounds = s.rounds ∧ (s.addBar c r).classes = s.classes := by
  have hput : (s.putBar c r true).container c = _ := (container_putBar s c c r true).trans (if_pos rfl)
  obtain ⟨_, _, _, _, _, htouches⟩ := endGrant_touches (s.putBar c r true) c .barred
  rw [addBar_of_opened hhas hopened]
  refine ⟨?_, fun h => ?_, by rw [htouches]; rfl, by rw [htouches]; rfl⟩
  · rw [journal_endGrant_eq, reserved_dropGrant, hput]
    rfl
  · obtain ⟨held, hhouse, hheld⟩ := household_dropGrant (s.putBar c r true) c h
    rw [hput] at hheld
    exact ⟨held, (State.household_congr (households_endGrant _ c .barred) h).trans hhouse, hheld⟩

/-- At a crew's work the place it held goes back. -/
theorem addBar_counts_of_working (hends : r.endsWork = true) (hhas : (s.container c).inlet.bars.has r = false)
    (hworking : (s.container c).inlet.working = true) :
    (s.addBar c r).journal.reserved = s.journal.reserved -
      (if ((s.container c).inlet.service.map Service.reserved).getD false = true then 1 else 0) ∧
    (s.addBar c r).households = s.households := by
  have hput : (s.putBar c r true).container c = _ := (container_putBar s c c r true).trans (if_pos rfl)
  obtain ⟨_, _, _, _, hlost⟩ := crewLost_touches (s.putBar c r true) c r.workEnd
  obtain ⟨_, _, _, _, _, hwork⟩ := endWork_touches_any (s.putBar c r true) c r.workEnd
  rw [addBar_of_working hends hhas hworking, hlost, hwork, hput]
  exact ⟨rfl, rfl⟩

/-- The bar's counts and, where no crew is at work, the rounds and the notices. -/
theorem addBar_ends_touches (hends : r.endsWork = true) (hhas : (s.container c).inlet.bars.has r = false) :
    (s.addBar c r).journal.reserved = s.journal.reserved - (s.container c).inlet.placesBack ∧
    (∀ h, ∃ held, (s.addBar c r).household h = { s.household h with held := held } ∧
      ∀ f, held.get f = (s.household h).held.get f - (s.container c).holdsBack h f) ∧
    ((s.container c).inlet.working = false → (s.addBar c r).rounds = s.rounds ∧ (s.addBar c r).classes = s.classes) := by
  have hkept : ∀ (t : State), t.journal = s.journal → t.households = s.households → t.rounds = s.rounds →
      t.classes = s.classes → (s.container c).inlet.state ≠ .opened → (s.container c).inlet.working = false →
      t.journal.reserved = s.journal.reserved - (s.container c).inlet.placesBack ∧
      (∀ h, ∃ held, t.household h = { s.household h with held := held } ∧
        ∀ f, held.get f = (s.household h).held.get f - (s.container c).holdsBack h f) ∧
      ((s.container c).inlet.working = false → t.rounds = s.rounds ∧ t.classes = s.classes) := by
    intro t hjournal hhouseholds hrounds hclasses hopened hworking
    have hplaces : (s.container c).inlet.placesBack = 0 := by simp [Inlet.placesBack, hopened, hworking]
    refine ⟨by rw [hjournal, hplaces]; rfl, fun h => ⟨(s.household h).held, State.household_congr hhouseholds h,
      fun f => by simp [Container.holdsBack, hopened]⟩, fun _ => ⟨hrounds, hclasses⟩⟩
  have hwork : (s.container c).inlet.state ≠ .opened → (s.container c).inlet.working = true →
      (s.addBar c r).journal.reserved = s.journal.reserved - (s.container c).inlet.placesBack ∧
      (∀ h, ∃ held, (s.addBar c r).household h = { s.household h with held := held } ∧
        ∀ f, held.get f = (s.household h).held.get f - (s.container c).holdsBack h f) ∧
      ((s.container c).inlet.working = false → (s.addBar c r).rounds = s.rounds ∧ (s.addBar c r).classes = s.classes) := by
    intro hopened hworking
    obtain ⟨hreserved, hhouseholds⟩ := addBar_counts_of_working hends hhas hworking
    refine ⟨hreserved.trans ?_, fun h => ⟨(s.household h).held, State.household_congr hhouseholds h,
      fun f => by simp [Container.holdsBack, hopened]⟩, fun hrest => absurd hrest (by simp [hworking])⟩
    simp [Inlet.placesBack, hopened, hworking]
  cases hs : (s.container c).inlet.state with
  | locked =>
    rw [addBar_of_locked hhas hs]
    exact hkept _ rfl rfl rfl rfl (by simp [hs]) (by simp [Inlet.working, hs])
  | barred =>
    rw [addBar_of_barred hhas hs]
    exact hkept _ rfl rfl rfl rfl (by simp [hs]) (by simp [Inlet.working, hs])
  | settling =>
    rw [addBar_of_settling hends hhas hs]
    exact hkept _ rfl rfl rfl rfl (by simp [hs]) (by simp [Inlet.working, hs])
  | opened =>
    obtain ⟨hreserved, hheld, hrounds, hclasses⟩ := addBar_counts_of_opened hhas hs
    have hworking := opened_of_not_working hs
    refine ⟨hreserved.trans ?_, fun h => ?_, fun _ => ⟨hrounds, hclasses⟩⟩
    · simp [Inlet.placesBack, hs, hworking]
    · simpa [Container.holdsBack, hs] using hheld h
  | service => exact hwork (by simp [hs]) (by simp [Inlet.working, hs])
  | lifting => exact hwork (by simp [hs]) (by simp [Inlet.working, hs])

/-- The stop that the cut work served is given back (R158, R162). -/
theorem stopReturned_addBar (hends : r.endsWork = true) (hhas : (s.container c).inlet.bars.has r = false)
    (hworking : (s.container c).inlet.working = true) (hend : r.workEnd = .untipped) {v : Service}
    (hv : (s.container c).inlet.service = some v) : s.stopReturned (s.addBar c r) c v := by
  have hput : (s.putBar c r true).container c = _ := (container_putBar s c c r true).trans (if_pos rfl)
  have hv' : ((s.putBar c r true).container c).inlet.service = some v := by rw [hput]; exact hv
  obtain ⟨_, _, _, _, hlost⟩ := crewLost_touches (s.putBar c r true) c r.workEnd
  have hbar : s.addBar c r = (s.putBar c r true).crewLost c .untipped := by
    rw [addBar_of_working hends hhas hworking, hend]
  rw [hend] at hlost
  have hreturned : (s.putBar c r true).stopReturned (s.addBar c r) c v := by
    refine stopReturned_of_endWork hv' ?_ ?_ ?_
    · rw [hbar, hlost]
    · rw [hbar, container_crewLost, if_pos rfl, container_endWork_any, if_pos rfl]
    · rw [hbar, hlost]
  exact stopReturned_congr hreturned rfl (by rw [hput]) rfl rfl rfl rfl

end

end Sys2Proof.Machine
end

section
/-! PROOFS. The eighth miss: the station LOST, its four containers, its relay entries and its OUTSTANDING requests (R13, R16,
R89, R108, R162). -/

namespace Sys2Proof.Machine

/-! ### A reason joins the sets of several containers (1.5) -/

/-- A container that a reason does not hold yet, with a crew at work: the work ends. -/
def Container.endsIn (r : BarReason) (k : Container) : Bool := !k.inlet.bars.has r && k.inlet.working

/-- A container as a reason leaves it, but for the missed mark. -/
def Container.joined (r : BarReason) (k : Container) : Container := if k.inlet.bars.has r = true then k else k.barredBy r

/-- A container without its missed mark. -/
def Container.unmarked (k : Container) : Container := { k with missed := false }

/-- A reason joins the sets of containers one after another (log 33). -/
def State.addBarTo (s : State) (l : List Nat) (r : BarReason) : State := l.foldl (fun t c => t.addBar c r) s

theorem addBars_eq (s : State) (i : Nat) (r : BarReason) : s.addBars i r = s.addBarTo (containersOf i) r := rfl

section
variable {r : BarReason} (hends : r.endsWork = true)
include hends

theorem container_addBar_other (s : State) {c d : Nat} (hd : d ≠ c) : (s.addBar c r).container d = s.container d := by
  cases hhas : (s.container c).inlet.bars.has r with
  | true => rw [addBar_of_has hhas]
  | false => rw [container_addBar_ends hends hhas, if_neg hd]

theorem unmarked_addBar (s : State) (c d : Nat) : ((s.addBar c r).container d).unmarked =
    if d = c then ((s.container c).unmarked).joined r else (s.container d).unmarked := by
  by_cases hd : d = c
  · subst hd
    rw [if_pos rfl]
    cases hhas : (s.container d).inlet.bars.has r with
    | true =>
      rw [addBar_of_has hhas]
      exact (if_pos hhas).symm
    | false =>
      rw [container_addBar_ends hends hhas, if_pos rfl]
      exact (if_neg (c := (s.container d).inlet.bars.has r = true) (by simp [hhas])).symm
  · rw [if_neg hd, container_addBar_other hends s hd]

/-- One container's counts and, where no work ends, the rounds and the notices. -/
theorem addBar_counts (s : State) (c : Nat) :
    (s.addBar c r).journal.reserved = s.journal.reserved -
      (if (s.container c).inlet.bars.has r = true then 0 else (s.container c).inlet.placesBack) ∧
    (∀ h, ∃ held, (s.addBar c r).household h = { s.household h with held := held } ∧ ∀ f, held.get f =
      (s.household h).held.get f - (if (s.container c).inlet.bars.has r = true then 0 else (s.container c).holdsBack h f)) ∧
    ((s.container c).endsIn r = false → (s.addBar c r).rounds = s.rounds ∧ (s.addBar c r).classes = s.classes) := by
  unfold Container.endsIn
  cases hhas : (s.container c).inlet.bars.has r with
  | true =>
    rw [addBar_of_has hhas]
    exact ⟨rfl, fun h => ⟨(s.household h).held, rfl, fun f => rfl⟩, fun _ => ⟨rfl, rfl⟩⟩
  | false =>
    obtain ⟨hreserved, hheld, hrounds⟩ := addBar_ends_touches hends hhas
    exact ⟨hreserved, hheld, hrounds⟩

theorem container_addBarTo_other (s : State) {l : List Nat} {d : Nat} (hd : d ∉ l) :
    (s.addBarTo l r).container d = s.container d := by
  induction l generalizing s with
  | nil => rfl
  | cons c l ih =>
    obtain ⟨hc, hrest⟩ := not_or.mp (List.mem_cons.not.mp hd)
    exact (ih (s.addBar c r) hrest).trans (container_addBar_other hends s hc)

theorem unmarked_addBarTo (s : State) {l : List Nat} (hl : l.Nodup) (d : Nat) : ((s.addBarTo l r).container d).unmarked =
    if d ∈ l then ((s.container d).unmarked).joined r else (s.container d).unmarked :=
  foldl_at_containers (f := fun t c => t.addBar c r) (fun s c d => unmarked_addBar hends s c d) hl s d

/-- The places that go back add up. -/
theorem reserved_addBarTo (s : State) {l : List Nat} (hl : l.Nodup) : (s.addBarTo l r).journal.reserved =
    s.journal.reserved - (l.map (fun c =>
      if (s.container c).inlet.bars.has r = true then 0 else (s.container c).inlet.placesBack)).sum := by
  induction l generalizing s with
  | nil => rfl
  | cons c l ih =>
    obtain ⟨hc, hrest⟩ := List.nodup_cons.mp hl
    have hsame : ∀ d ∈ l, (s.addBar c r).container d = s.container d := fun d hd =>
      container_addBar_other hends s (fun h => hc (h ▸ hd))
    refine (ih (s.addBar c r) hrest).trans ?_
    rw [(addBar_counts hends s c).1, List.map_cons, List.sum_cons, Nat.sub_sub]
    congr 2
    exact congrArg List.sum (List.map_congr_left (fun d hd => by rw [hsame d hd]))

/-- The holds that go back add up. -/
theorem household_addBarTo (s : State) {l : List Nat} (hl : l.Nodup) (h : Nat) :
    ∃ held, (s.addBarTo l r).household h = { s.household h with held := held } ∧ ∀ f, held.get f =
      (s.household h).held.get f - (l.map (fun c =>
        if (s.container c).inlet.bars.has r = true then 0 else (s.container c).holdsBack h f)).sum := by
  induction l generalizing s with
  | nil => exact ⟨_, rfl, fun f => rfl⟩
  | cons c l ih =>
    obtain ⟨hc, hrest⟩ := List.nodup_cons.mp hl
    have hsame : ∀ d ∈ l, (s.addBar c r).container d = s.container d := fun d hd =>
      container_addBar_other hends s (fun h => hc (h ▸ hd))
    obtain ⟨held, hhouse, hheld⟩ := ih (s.addBar c r) hrest
    obtain ⟨first, hfirst, hgets⟩ := (addBar_counts hends s c).2.1 h
    refine ⟨held, ?_, fun f => ?_⟩
    · rw [hfirst] at hhouse
      exact hhouse
    · rw [hheld, hfirst, List.map_cons, List.sum_cons, ← Nat.sub_sub]
      show first.get f - _ = _
      rw [hgets]
      congr 1
      exact congrArg List.sum (List.map_congr_left (fun d hd => by rw [hsame d hd]))

/-- Where no work ends, no round and no notice changes. -/
theorem rounds_addBarTo (s : State) {l : List Nat} (hl : l.Nodup) (hrest : ∀ c ∈ l, (s.container c).endsIn r = false) :
    (s.addBarTo l r).rounds = s.rounds ∧ (s.addBarTo l r).classes = s.classes := by
  induction l generalizing s with
  | nil => exact ⟨rfl, rfl⟩
  | cons c l ih =>
    obtain ⟨hc, hnodup⟩ := List.nodup_cons.mp hl
    obtain ⟨hrounds, hclasses⟩ := (addBar_counts hends s c).2.2 (hrest c List.mem_cons_self)
    obtain ⟨hmore, hmoreClasses⟩ := ih (s.addBar c r) hnodup (fun d hd => by
      have hdc : d ≠ c := fun h => hc (h ▸ hd)
      rw [container_addBar_other hends s hdc]
      exact hrest d (List.mem_cons_of_mem c hd))
    exact ⟨hmore.trans hrounds, hmoreClasses.trans hclasses⟩

/-- Where the work of one container alone ends, its stop is given back. -/
theorem stopReturned_addBarTo (s : State) {l : List Nat} (hl : l.Nodup) (hend : r.workEnd = .untipped) {c : Nat} (hc : c ∈ l)
    (hends' : (s.container c).endsIn r = true) (honly : ∀ d ∈ l, d ≠ c → (s.container d).endsIn r = false) {v : Service}
    (hv : (s.container c).inlet.service = some v) : s.stopReturned (s.addBarTo l r) c v := by
  obtain ⟨before, after, rfl⟩ := List.append_of_mem hc
  obtain ⟨hnodup, hcafter, hdisjoint⟩ := List.nodup_append.mp hl
  obtain ⟨hnotafter, hafter⟩ := List.nodup_cons.mp hcafter
  have hnotbefore : c ∉ before := fun h => hdisjoint c h c List.mem_cons_self rfl
  have hfold : s.addBarTo (before ++ c :: after) r = ((s.addBarTo before r).addBar c r).addBarTo after r := by
    unfold State.addBarTo
    rw [List.foldl_append, List.foldl_cons]
  obtain ⟨hrounds, hclasses⟩ := rounds_addBarTo hends s hnodup (fun d hd => honly d (List.mem_append_left _ hd)
    (fun h => hnotbefore (h ▸ hd)))
  have hcontainer := container_addBarTo_other hends s hnotbefore
  have hparts : (s.container c).inlet.bars.has r = false ∧ (s.container c).inlet.working = true := by
    simpa [Container.endsIn] using hends'
  have hreturned : (s.addBarTo before r).stopReturned ((s.addBarTo before r).addBar c r) c v :=
    stopReturned_addBar hends (by rw [hcontainer]; exact hparts.1) (by rw [hcontainer]; exact hparts.2) hend
      (by rw [hcontainer]; exact hv)
  obtain ⟨hmore, hmoreClasses⟩ := rounds_addBarTo hends ((s.addBarTo before r).addBar c r) hafter (fun d hd => by
    have hdc : d ≠ c := fun h => hnotafter (h ▸ hd)
    have hdbefore : d ∉ before := fun h => hdisjoint d h d (List.mem_cons_of_mem c hd) rfl
    rw [container_addBar_other hends _ hdc, container_addBarTo_other hends s hdbefore]
    exact honly d (List.mem_append_right _ (List.mem_cons_of_mem c hd)) hdc)
  rw [hfold]
  exact stopReturned_congr hreturned hrounds.symm (by rw [hcontainer]) (State.noticeClass_congr hclasses.symm 18) hmore
    (by rw [container_addBarTo_other hends _ hnotafter]) (State.noticeClass_congr hmoreClasses 18)

end

/-! ### The OUTSTANDING requests of a station that is gone (R89) -/

/-- A container whose OUTSTANDING request ended with its station. -/
def Container.requestGone (k : Container) : Container :=
  { k with fill := { k.fill with request := k.outstandingGone k.fill.request } }

theorem outstandingGone_eq (k : Container) (q : SampleRequest) :
    q.stationGone k.cfg.present k.fill.sensor = k.outstandingGone q := by
  have hlive : (k.cfg.present && decide (k.fill.sensor ≠ .failed)) = k.live := by
    unfold Container.live
    cases k.fill.sensor <;> rfl
  cases q <;> simp only [SampleRequest.stationGone, Container.outstandingGone, hlive]

theorem endOutstanding_eq (s : State) (i : Nat) :
    s.endOutstanding i = (containersOf i).foldl (fun t c => t.updContainer c Container.requestGone) s := by
  unfold State.endOutstanding Container.requestGone
  simp only [outstandingGone_eq]

theorem container_endOutstanding (s : State) (i d : Nat) : (s.endOutstanding i).container d =
    if d ∈ containersOf i then (s.container d).requestGone else s.container d := by
  rw [endOutstanding_eq]
  refine foldl_at_containers (p := fun k => k) (g := Container.requestGone) (fun s c d => ?_) (containersOf_nodup i) s d
  rw [State.container_updContainer]

theorem endOutstanding_touches (s : State) (i : Nat) : ∃ ks, s.endOutstanding i = { s with containers := ks } := by
  rw [endOutstanding_eq]
  generalize containersOf i = l
  induction l generalizing s with
  | nil => exact ⟨_, rfl⟩
  | cons c l ih =>
    obtain ⟨_, hrest⟩ := ih (s.updContainer c Container.requestGone)
    rw [List.foldl_cons, hrest]
    exact ⟨_, rfl⟩

/-! ### The station LOST (R13) -/

/-- The relay entries of a station go (R16). -/
def LineState.withoutStation (i : Nat) (l : LineState) : LineState :=
  { l with relay := l.relay.filter (fun e => !(e.station == i)) }

theorem dropRelay_touches (s : State) (i : Nat) : ∃ x y, s.dropRelay i = { s with lineA := x, lineB := y } := by
  unfold State.dropRelay State.updLine
  cases lineOf i <;> exact ⟨_, _, rfl⟩

/-- The record of a station that became LOST. -/
def Station.gone (k : Station) : Station := { k with state := .lost, missCount := 8 }

/-- The station's record written, before its containers hear of it. -/
def State.lostRecord (s : State) (i : Nat) : State := s.updStation i Station.gone

theorem becomeLost_eq (s : State) (i : Nat) : s.becomeLost i =
    (((((s.lostRecord i).addBarTo (containersOf i) .stationLost).dropRelay i).endOutstanding i).raise
      .stationLost (some i) 0) := rfl

/-- What follows the bars: the containers' requests, the relay entries and the notice. -/
theorem becomeLost_touches (s : State) (i : Nat) : ∃ ks x y cs q, s.becomeLost i =
    { (s.lostRecord i).addBarTo (containersOf i) .stationLost with
      containers := ks, lineA := x, lineB := y, classes := cs
      link := { ((s.lostRecord i).addBarTo (containersOf i) .stationLost).link with notices := q } } := by
  rw [becomeLost_eq]
  generalize (s.lostRecord i).addBarTo (containersOf i) .stationLost = t
  obtain ⟨_, _, hrelay⟩ := dropRelay_touches t i
  obtain ⟨_, hrequests⟩ := endOutstanding_touches (t.dropRelay i) i
  obtain ⟨_, _, hraise⟩ := raise_touches ((t.dropRelay i).endOutstanding i) .stationLost (some i) 0
  rw [hraise, hrequests, hrelay]
  exact ⟨_, _, _, _, _, rfl⟩

theorem unmarked_requestGone (k : Container) : k.requestGone.unmarked = k.unmarked.requestGone := rfl

section
variable (s : State) (i : Nat)

theorem container_lostRecord (d : Nat) : (s.lostRecord i).container d = s.container d := rfl

theorem container_becomeLost (d : Nat) : (s.becomeLost i).container d =
    if d ∈ containersOf i then
      (((s.lostRecord i).addBarTo (containersOf i) .stationLost).container d).requestGone
    else s.container d := by
  have hends : BarReason.stationLost.endsWork = true := rfl
  obtain ⟨_, _, hrelay⟩ := dropRelay_touches ((s.lostRecord i).addBarTo (containersOf i) .stationLost) i
  have hsame : ∀ d, (((s.lostRecord i).addBarTo (containersOf i) .stationLost).dropRelay i).container d =
      ((s.lostRecord i).addBarTo (containersOf i) .stationLost).container d := fun d => by rw [hrelay]; rfl
  rw [becomeLost_eq, State.container_raise, container_endOutstanding, hsame]
  by_cases hd : d ∈ containersOf i
  · rw [if_pos hd, if_pos hd]
  · rw [if_neg hd, if_neg hd, container_addBarTo_other hends _ hd]
    rfl

/-- A container of the station that becomes LOST, but for its missed mark. -/
theorem unmarked_becomeLost {c : Nat} (hc : c ∈ containersOf i) : ((s.becomeLost i).container c).unmarked =
    (((s.container c).unmarked).joined .stationLost).requestGone := by
  have hends : BarReason.stationLost.endsWork = true := rfl
  have hjoined := unmarked_addBarTo hends (s.lostRecord i) (containersOf_nodup i) c
  rw [if_pos hc] at hjoined
  rw [container_becomeLost, if_pos hc]
  rw [unmarked_requestGone, hjoined, container_lostRecord]

theorem station_becomeLost (j : Nat) : (s.becomeLost i).station j =
    if j = i then (s.station i).gone else s.station j := by
  obtain ⟨_, _, _, _, _, htouches⟩ := becomeLost_touches s i
  have hbars := State.barsOnly.addBars (s.lostRecord i) i .stationLost
  have hstation : ((s.lostRecord i).addBarTo (containersOf i) .stationLost).station j = (s.lostRecord i).station j :=
    hbars.station j
  have hrecord : (s.lostRecord i).station j = if j = i then (s.station i).gone else s.station j :=
    State.station_updStation _ _ _ _
  have hstations : (s.becomeLost i).stations = ((s.lostRecord i).addBarTo (containersOf i) .stationLost).stations := by
    rw [htouches]
  rw [← hrecord, ← hstation]
  unfold State.station
  rw [hstations]

theorem told_becomeLost : (s.becomeLost i).told 7 (some i) 0 := told_raise _ .stationLost _ _

theorem noticeClass_becomeLost {n : Nat} (hn : n ≠ 7) : (s.becomeLost i).noticeClass n =
    ((s.lostRecord i).addBarTo (containersOf i) .stationLost).noticeClass n := by
  rw [becomeLost_eq, noticeClass_raise _ .stationLost _ _ n hn]
  obtain ⟨_, _, hrelay⟩ := dropRelay_touches ((s.lostRecord i).addBarTo (containersOf i) .stationLost) i
  obtain ⟨_, hrequests⟩ := endOutstanding_touches
    (((s.lostRecord i).addBarTo (containersOf i) .stationLost).dropRelay i) i
  rw [hrequests, hrelay]
  rfl

/-- No relay entry of the station is left on its line. -/
theorem relay_becomeLost : ∀ e ∈ ((s.becomeLost i).line (lineOf i)).relay, e.station ≠ i := by
  have hline : (s.becomeLost i).line (lineOf i) =
      (((s.lostRecord i).addBarTo (containersOf i) .stationLost).line (lineOf i)).withoutStation i := by
    rw [becomeLost_eq]
    generalize (s.lostRecord i).addBarTo (containersOf i) .stationLost = t
    obtain ⟨_, hrequests⟩ := endOutstanding_touches (t.dropRelay i) i
    obtain ⟨_, _, hraise⟩ := raise_touches ((t.dropRelay i).endOutstanding i) .stationLost (some i) 0
    have hkept : (((t.dropRelay i).endOutstanding i).raise .stationLost (some i) 0).line (lineOf i) =
        (t.dropRelay i).line (lineOf i) := by
      rw [hraise, hrequests]
      cases lineOf i <;> rfl
    rw [hkept]
    exact State.line_updLine_same _ _ _
  intro e he
  rw [hline] at he
  have hfilter := (List.mem_filter.mp he).2
  simpa using hfilter

end

end Sys2Proof.Machine
end

section
/-! PROOFS. The miss that makes a station LOST, as the statement takes it apart (R13, R108, R162). -/

namespace Sys2Proof.Machine

theorem missed_requestGone (k : Container) : k.requestGone.missed = k.missed := rfl

theorem live_barredBy (r : BarReason) (k : Container) : (k.barredBy r).live = k.live := by
  unfold Container.live Container.barredBy Container.fillEnded
  dsimp only
  split <;> rfl

theorem outstandingGone_barredBy (r : BarReason) (k : Container) (q : SampleRequest) :
    (k.barredBy r).outstandingGone q = k.outstandingGone q := by
  unfold Container.outstandingGone
  rw [live_barredBy]

/-- A container that held the reason: its OUTSTANDING request alone ends. -/
theorem joined_of_has {r : BarReason} {k : Container} (h : k.inlet.bars.has r = true) :
    (k.unmarked.joined r).requestGone = k.unmarked.requestGone := by
  unfold Container.joined
  rw [if_pos (show k.unmarked.inlet.bars.has r = true from h)]

/-- A container that takes the reason in. -/
theorem joined_of_new {r : BarReason} {k : Container} (h : k.inlet.bars.has r = false) :
    (k.unmarked.joined r).requestGone = { k.unmarked with
      inlet := k.inlet.endedBy (k.inlet.bars.put r true)
      fill := { k.fillEnded with request := k.outstandingGone k.fillEnded.request } } := by
  unfold Container.joined
  rw [if_neg (show ¬ k.unmarked.inlet.bars.has r = true by simp [Container.unmarked, h])]
  unfold Container.requestGone
  rw [outstandingGone_barredBy]
  rfl

/-- What the containers show, the missed mark apart. -/
theorem shows_of_unmarked {a b : Container} (h : a.unmarked = b.unmarked) :
    a.cfg = b.cfg ∧ a.forced = b.forced ∧ a.inlet = b.inlet ∧ a.fill = b.fill := by
  obtain ⟨acfg, afill, ainlet, aforced, amissed⟩ := a
  obtain ⟨bcfg, bfill, binlet, bforced, bmissed⟩ := b
  simp only [Container.unmarked, Container.mk.injEq] at h
  obtain ⟨hcfg, hfill, hinlet, hforced, -⟩ := h
  exact ⟨hcfg, hforced, hinlet, hfill⟩

/-- The state after a failed exchange has settled the accept flag owed (R9). -/
def State.owedAfter (s : State) (t : Turn) : State :=
  if t.exchange.what = .poll then s.oweAccept t.station false else s

theorem owedAfter_touches (s : State) (t : Turn) : ∃ st, s.owedAfter t = { s with stations := st } := by
  unfold State.owedAfter
  split
  · exact ⟨_, rfl⟩
  · exact ⟨_, rfl⟩

theorem station_owedAfter (s : State) (t : Turn) (j : Nat) : (s.owedAfter t).station j =
    if j = t.station then { s.station t.station with
      acceptOwed := if t.exchange.what = .poll then false else (s.station t.station).acceptOwed }
    else s.station j := by
  unfold State.owedAfter State.oweAccept
  split
  · rw [State.station_updStation]
  · split
    · rename_i hj
      rw [hj]
    · rfl

/-- The eighth miss makes the station LOST. -/
theorem miss_eighth {s : State} {i : Nat} (hstate : (s.station i).state = .unknown ∨ (s.station i).state = .silent)
    (hcount : (s.station i).missCount = 7) : s.miss i = s.becomeLost i := by
  unfold State.miss
  obtain hstate | hstate := hstate <;> simp [hstate, hcount]

/-- What the station's loss leaves of households, rounds, notices and the journal. -/
theorem becomeLost_counts (s : State) (i : Nat) :
    let t := (s.lostRecord i).addBarTo (containersOf i) .stationLost
    (s.becomeLost i).households = t.households ∧ (s.becomeLost i).rounds = t.rounds ∧ (s.becomeLost i).journal = t.journal ∧
      (s.becomeLost i).cards = s.cards ∧ (s.becomeLost i).journal.records = s.journal.records ∧
      (s.becomeLost i).clock = s.clock := by
  intro t
  obtain ⟨_, _, _, _, _, htouches⟩ := becomeLost_touches s i
  have hbars : (s.lostRecord i).barsOnly t := State.barsOnly.addBars (s.lostRecord i) i .stationLost
  rw [htouches]
  exact ⟨rfl, rfl, rfl, hbars.cards, hbars.records, hbars.clock⟩

/-- The sums the statement takes over the four containers, container by container. -/
theorem sum_over_four {four : List Nat} {f g : Nat → Nat} (h : ∀ c ∈ four, f c = g c) :
    (four.map f).sum = (four.map g).sum := congrArg List.sum (List.map_congr_left h)

/-- Settles O16: the loss of the station comes before the line's choice, which leaves all that the statement speaks of. -/
theorem eighthMissLosesTheStation : Obligations.EighthMissLosesTheStation := by
  intro s l t bytes cmd hwaits hbad hcmd hstate hcount four struck cut ended
  have hends : BarReason.stationLost.endsWork = true := rfl
  have hnodup := containersOf_nodup t.station
  obtain ⟨_, howed⟩ := owedAfter_touches s t
  have hrecord := station_owedAfter s t
  have hcontainer : ∀ c, (s.owedAfter t).container c = s.container c := fun c => by rw [howed]; rfl
  have hlostcontainer : ∀ c, ((s.owedAfter t).lostRecord t.station).container c = s.container c := hcontainer
  have hmiss : (s.owedAfter t).miss t.station = (s.owedAfter t).becomeLost t.station := by
    refine miss_eighth ?_ ?_
    · rw [hrecord, if_pos rfl]
      exact hstate
    · rw [hrecord, if_pos rfl]
      exact hcount
  have hchose : ((s.owedAfter t).becomeLost t.station).onlyChose (s.exchangeFailed l t) := by
    rw [← hmiss]
    exact onlyChose_trans (onlyChose_holdIf _ _ _) (onlyChose_endTurn _ l _)
  obtain ⟨hhouseholds, hrounds, hjournal, hcards, hrecords, hclock⟩ := becomeLost_counts (s.owedAfter t) t.station
  have hunmarked : ∀ c ∈ four, (((s.owedAfter t).becomeLost t.station).container c).unmarked =
      ((s.container c).unmarked.joined .stationLost).requestGone := fun c hc => by
    rw [unmarked_becomeLost _ _ hc, hcontainer]
  have hendsIn : ∀ c ∈ four, ended c = (s.container c).endsIn .stationLost := fun c hc => by
    simp only [ended, struck, hc, decide_true, Bool.true_and]
    rfl
  have hcut : ∀ c ∈ four, cut c =
      (!(s.container c).inlet.bars.has .stationLost && decide ((s.container c).inlet.state = .opened)) := fun c hc => by
    simp only [cut, struck, hc, decide_true, Bool.true_and]
    rfl
  refine ⟨(s.owedAfter t).becomeLost t.station, s.exchangeFailed l t, exec_of_failed hwaits hbad hcmd, hchose, ?_,
    fun i hi => ?_, ?_, told_becomeLost _ _, ?_, ?_, ?_, fun c hc => ?_, fun c hc => ?_, fun h f => ?_, ?_, fun hrest => ?_,
    fun c hc v hended honly hv => ?_⟩
  · rw [station_becomeLost, if_pos rfl, hrecord, if_pos rfl]
    rfl
  · rw [station_becomeLost, if_neg hi, hrecord, if_neg hi]
  · obtain ⟨-, hrelayA, hrelayB, -⟩ := hchose
    have hrelay : ∀ m : Line, ((s.exchangeFailed l t).line m).relay =
        (((s.owedAfter t).becomeLost t.station).line m).relay := fun m => by cases m <;> assumption
    rw [hrelay]
    exact relay_becomeLost (s.owedAfter t) t.station
  · rw [hcards, howed]
  · rw [hrecords, howed]
  · rw [hclock, howed]
  · rw [container_becomeLost, if_neg hc, hcontainer]
  · intro k
    have hsent := congrArg (fun k : Container => k.inlet.bars.stationLost) (hchose.2.2.2.2 c)
    have hbars : ((s.exchangeFailed l t).container c).inlet.bars.stationLost =
      (((s.owedAfter t).becomeLost t.station).container c).inlet.bars.stationLost := hsent
    cases hhas : k.inlet.bars.stationLost with
    | true =>
      obtain ⟨hcfg, hforced, hinlet, hfill⟩ := shows_of_unmarked
        (b := k.requestGone) ((hunmarked c hc).trans (joined_of_has hhas))
      refine ⟨?_, hcfg, hforced, fun _ => ⟨hinlet, hfill⟩, fun h => by simp at h⟩
      rw [hbars, hinlet]
      exact hhas
    | false =>
      obtain ⟨hcfg, hforced, hinlet, hfill⟩ := shows_of_unmarked
        (b := { k with inlet := k.inlet.endedBy (k.inlet.bars.put .stationLost true)
                       fill := { k.fillEnded with request := k.outstandingGone k.fillEnded.request } })
        ((hunmarked c hc).trans (joined_of_new hhas))
      refine ⟨?_, hcfg, hforced, fun h => by simp at h, fun _ => ⟨hinlet, hfill⟩⟩
      rw [hbars, hinlet]
      rfl
  · obtain ⟨held, hhouse, hheld⟩ := household_addBarTo hends ((s.owedAfter t).lostRecord t.station) hnodup h
    have hsame : ((s.owedAfter t).lostRecord t.station).household h = s.household h := by
      rw [howed]
      rfl
    rw [hsame] at hhouse hheld
    have hw : ((s.owedAfter t).becomeLost t.station).household h = { s.household h with held := held } :=
      (State.household_congr hhouseholds h).trans hhouse
    rw [hw]
    refine ⟨rfl, rfl, (hheld f).trans ?_⟩
    congr 1
    refine sum_over_four (fun c hc => ?_)
    rw [hlostcontainer, hcut c hc]
    unfold Container.holdsBack
    cases (s.container c).inlet.bars.has .stationLost <;> simp
  · rw [hjournal, reserved_addBarTo hends _ hnodup]
    have hsame : ((s.owedAfter t).lostRecord t.station).journal.reserved = s.journal.reserved := by
      rw [howed]
      rfl
    rw [hsame]
    congr 1
    refine sum_over_four (fun c hc => ?_)
    rw [hlostcontainer]
    dsimp only
    rw [hcut c hc, hendsIn c hc]
    unfold Inlet.placesBack Container.endsIn
    cases (s.container c).inlet.bars.has .stationLost <;> simp
  · obtain ⟨hkept, hclasses⟩ := rounds_addBarTo hends ((s.owedAfter t).lostRecord t.station) hnodup (fun c hc => by
      rw [hlostcontainer, ← hendsIn c hc]
      exact hrest c hc)
    refine ⟨hrounds.trans (hkept.trans ?_), ?_⟩
    · rw [howed]
      rfl
    · rw [noticeClass_becomeLost _ _ (by decide), State.noticeClass_congr hclasses 18, howed]
      rfl
  · have hreturned := stopReturned_addBarTo hends ((s.owedAfter t).lostRecord t.station) hnodup rfl hc
      (by rw [hlostcontainer, ← hendsIn c hc]; exact hended)
      (fun d hd hne => by rw [hlostcontainer, ← hendsIn d hd]; exact honly d hd hne) (by rw [hlostcontainer]; exact hv)
    refine stopReturned_congr hreturned ?_ (by rw [hlostcontainer]) ?_ hrounds ?_ ?_
    · rw [howed]
      rfl
    · rw [howed]
      rfl
    · rw [container_becomeLost, if_pos hc, missed_requestGone]
    · exact noticeClass_becomeLost _ _ (by decide)

end Sys2Proof.Machine
end

section
/-! PROOFS. A card that is granted: a resident's or business's card, and any card in open mode (R117, R127). -/

namespace Sys2Proof.Machine

section
variable (s : State) (c idx : Nat) (h : Option Nat) (reserved : Bool) (value : Nat)

/-- The grant record a card opens (R117). -/
def State.grantOf : Grant :=
  { card := idx, household := h, fraction := (s.container c).cfg.fraction, period := s.period, reserved := reserved,
    windowLeft := (s.station (stationOf c)).cfg.grantWindow }

/-- A container under a grant made now (R117). -/
def State.granted : Container :=
  { s.container c with
    inlet := { (s.container c).inlet with
      state := .opened
      grant := some (s.grantOf c idx h reserved)
      command := some { action := .unlock, window := (s.station (stationOf c)).cfg.grantWindow, code := .granted,
                        value := value, sent := false } }
    fill := { (s.container c).fill with
      request := (s.container c).fill.request.report (s.container c).inlet.state .opened } }

/-- The record and OPEN, before UNLOCK is set. -/
def State.recordGrant : State :=
  (s.updInlet c (fun n => { n with grant := some (s.grantOf c idx h reserved) })).setInlet c .opened

theorem openGrant_eq : s.openGrant c idx h reserved value = (s.recordGrant c idx h reserved).setCommand c .unlock
    (s.station (stationOf c)).cfg.grantWindow .granted value := rfl

theorem container_recordGrant (d : Nat) : (s.recordGrant c idx h reserved).container d = if d = c then
    { s.container c with
      inlet := { (s.container c).inlet with state := .opened, grant := some (s.grantOf c idx h reserved) }
      fill := { (s.container c).fill with
        request := (s.container c).fill.request.report (s.container c).inlet.state .opened } }
    else s.container d := by
  unfold State.recordGrant
  rw [container_setInlet]
  by_cases hd : d = c
  · rw [if_pos hd, if_pos hd, State.container_updInlet, if_pos rfl]
  · rw [if_neg hd, if_neg hd, State.container_updInlet, if_neg hd]

theorem openGrant_opens :
    { s.openGrant c idx h reserved value with containers := s.containers, lineA := s.lineA, lineB := s.lineB } = s ∧
      (∀ d, d ≠ c → (s.openGrant c idx h reserved value).container d = s.container d) ∧
      (s.openGrant c idx h reserved value).container c = s.granted c idx h reserved value ∧
      s.turnAsked (s.openGrant c idx h reserved value) c := by
  obtain ⟨-, hothers, hsame, hasked⟩ := setCommand_sets (s.recordGrant c idx h reserved) c .unlock
    (s.station (stationOf c)).cfg.grantWindow .granted value
  have hrecord := container_recordGrant s c idx h reserved
  rw [openGrant_eq]
  refine ⟨?_, fun d hd => ?_, ?_, turnAsked_congr hasked rfl (fun _ => rfl) (fun _ => rfl)⟩
  · obtain ⟨_, _, _, htouches⟩ := setCommand_touches (s.recordGrant c idx h reserved) c .unlock
      (s.station (stationOf c)).cfg.grantWindow .granted value
    rw [htouches]
    rfl
  · rw [hothers d hd, hrecord, if_neg hd]
  · rw [hsame, hrecord, if_pos rfl]
    rfl

theorem openGrant_touches : ∃ ks x y, s.openGrant c idx h reserved value =
    { s with containers := ks, lineA := x, lineB := y } := by
  obtain ⟨_, _, _, htouches⟩ := setCommand_touches (s.recordGrant c idx h reserved) c .unlock
    (s.station (stationOf c)).cfg.grantWindow .granted value
  rw [openGrant_eq, htouches]
  exact ⟨_, _, _, rfl⟩

end

theorem report_locked_opened (q : SampleRequest) : q.report .locked .opened = if q = .pending then .deferred else q := by
  cases q <;> rfl

/-! ### The hold and the reservation (R54, R61) -/

/-- The household's lazy reset, its hold and the reservation, before the grant is recorded. -/
def State.heldFor (s : State) (c h : Nat) (reserves : Bool) : State :=
  (if reserves then (s.lazyReset h).updJournal Journal.reserve else s.lazyReset h).updHousehold h
    (fun r => r.hold (s.container c).cfg.fraction)

section
variable (s : State) (c idx h : Nat) (reserves : Bool)

theorem heldFor_touches : ∃ hs, s.heldFor c h reserves =
    { s with households := hs
             journal := { s.journal with reserved := s.journal.reserved + (if reserves then 1 else 0) } } := by
  cases reserves with
  | true => exact ⟨_, rfl⟩
  | false => exact ⟨_, rfl⟩

theorem household_heldFor (j : Nat) : (s.heldFor c h reserves).household j =
    if j = h then ((s.household h).lazyReset s.period).hold (s.container c).cfg.fraction else s.household j := by
  have hreset : ∀ i, (if reserves then (s.lazyReset h).updJournal Journal.reserve else s.lazyReset h).household i =
      (s.lazyReset h).household i := fun i => by cases reserves <;> rfl
  unfold State.heldFor
  rw [State.household_updHousehold, hreset, hreset, household_lazyReset, household_lazyReset, if_pos rfl]
  by_cases hj : j = h
  · rw [if_pos hj, if_pos hj]
  · rw [if_neg hj, if_neg hj, if_neg hj]

theorem grant_eq (hreserves : s.grantReserves c h = reserves) : (s.lazyReset h).grant c idx h =
    ((s.heldFor c h reserves).openGrant c idx (some h) reserves
      ((((s.household h).lazyReset s.period).hold (s.container c).cfg.fraction).remaining
        (s.container c).cfg.fraction)).see idx c .granted := by
  have hhold := household_heldFor s c h reserves h
  rw [if_pos rfl] at hhold
  rw [← hhold, ← hreserves]
  unfold State.grant State.heldFor
  dsimp only
  rw [grantReserves_lazyReset]
  rfl

end

/-- The allowance left once the grant is held (R53). -/
theorem remaining_hold (r : Household) (f : Fraction) : (r.hold f).remaining f =
    if r.cfg.allowance.get f = 255 then 255 else r.cfg.allowance.get f - (r.used.get f + (r.held.get f + 1)) := by
  unfold Household.remaining Household.hold
  dsimp only
  rw [PerFraction.get_set, if_pos rfl]

/-- In open mode a card at a LOCKED inlet that is not full is granted (R127). -/
theorem openMode_granted {s : State} {station c number age : Nat} (hpresent : (s.container c).cfg.present = true)
    (hopen : s.part.openMode = true) (hvalid : s.validate number = none) (hage : age ≤ 10)
    (hlocked : (s.container c).inlet.state = .locked) (hfull : (s.container c).fill.status ≠ .full)
    (hover : (s.container c).fill.status ≠ .overfull) :
    s.cardShown station c false number age = s.openGrant c (cardIndex number) none false 255 := by
  have hcheck : s.inletCheck c = none :=
    (inletCheck_locked hlocked).trans (if_neg (fun h => h.elim hfull hover))
  rw [cardShown_open station hpresent hvalid hage hopen]
  simp only [State.openDecision, hcheck]

/-- A resident's or business's card that passes every check is granted (R117). -/
theorem resident_granted {s : State} {station c number age h : Nat} {card : CardCfg}
    (hcard : (s.card (cardIndex number)).cfg = card) (hpresent : (s.container c).cfg.present = true)
    (hopen : s.part.openMode = false) (hvalid : s.validate number = none) (hage : age ≤ 10) (hclass : card.cls ≠ .crew)
    (hhouse : card.household = some h) (hlocked : (s.container c).inlet.state = .locked)
    (hfull : (s.container c).fill.status ≠ .full) (hover : (s.container c).fill.status ≠ .overfull)
    (hbank : card.banks.getLsbD (s.station (stationOf c)).cfg.bank = true)
    (hbusiness : ¬(card.cls = .business ∧ (s.bank (s.station (stationOf c)).cfg.bank).residentialOnly = true))
    (hfraction : card.fractions.getLsbD (s.container c).cfg.fraction.code = true)
    (hquota : ((s.household h).lazyReset s.period).quotaPasses (s.container c).cfg.fraction = true)
    (hroom : s.grantReserves c h = true → s.journal.places ≤ 991) :
    s.cardShown station c false number age = (s.lazyReset h).grant c (cardIndex number) h := by
  subst hcard
  have hcheck : s.inletCheck c = none :=
    (inletCheck_locked hlocked).trans (if_neg (fun h => h.elim hfull hover))
  have hsets : s.setsCheck c (s.card (cardIndex number)).cfg = none := by
    rw [setsCheck_eq, if_neg (fun h => h.elim (by simp [hbank]) hbusiness), if_neg (by simp [hfraction])]
  rw [cardShown_resident station hpresent hvalid hage hopen hclass, residentDecision_quota hhouse hcheck hsets,
    quotaAndRoom_room hquota]
  exact if_neg (fun h => by have := hroom h.1; omega)

end Sys2Proof.Machine
end

section
/-! PROOFS. What the grant of a resident's or business's card changes (R54, R61, R117, R118). -/

namespace Sys2Proof.Machine

section
variable (s : State) (c idx h : Nat) (reserves : Bool)

/-- The grant record and the container under it, after the hold and the reservation. -/
theorem granted_heldFor (value : Nat) : (s.heldFor c h reserves).granted c idx (some h) reserves value =
    s.granted c idx (some h) reserves value := by
  obtain ⟨_, htouches⟩ := heldFor_touches s c h reserves
  rw [htouches]
  rfl

theorem container_heldFor (d : Nat) : (s.heldFor c h reserves).container d = s.container d := by
  obtain ⟨_, htouches⟩ := heldFor_touches s c h reserves
  rw [htouches]
  rfl

theorem card_heldFor (j : Nat) : (s.heldFor c h reserves).card j = s.card j := by
  obtain ⟨_, htouches⟩ := heldFor_touches s c h reserves
  rw [htouches]
  rfl

/-- A grant made: the state before last seen is written. -/
def State.heldGrant (value : Nat) : State := (s.heldFor c h reserves).openGrant c idx (some h) reserves value

theorem heldGrant_touches (value : Nat) : ∃ ks hs x y, s.heldGrant c idx h reserves value =
    { s with containers := ks, households := hs, lineA := x, lineB := y
             journal := { s.journal with reserved := s.journal.reserved + (if reserves then 1 else 0) } } := by
  obtain ⟨_, hheld⟩ := heldFor_touches s c h reserves
  obtain ⟨_, _, _, hopened⟩ := openGrant_touches (s.heldFor c h reserves) c idx (some h) reserves value
  unfold State.heldGrant
  rw [hopened, hheld]
  exact ⟨_, _, _, _, rfl⟩

theorem container_heldGrant (value : Nat) :
    (∀ d, d ≠ c → (s.heldGrant c idx h reserves value).container d = s.container d) ∧
      (s.heldGrant c idx h reserves value).container c = s.granted c idx (some h) reserves value := by
  obtain ⟨-, hothers, hsame, -⟩ := openGrant_opens (s.heldFor c h reserves) c idx (some h) reserves value
  exact ⟨fun d hd => (hothers d hd).trans (container_heldFor s c h reserves d),
    hsame.trans (granted_heldFor s c idx h reserves value)⟩

theorem household_heldGrant (value j : Nat) : (s.heldGrant c idx h reserves value).household j =
    if j = h then ((s.household h).lazyReset s.period).hold (s.container c).cfg.fraction else s.household j := by
  obtain ⟨_, _, _, hopened⟩ := openGrant_touches (s.heldFor c h reserves) c idx (some h) reserves value
  rw [← household_heldFor s c h reserves j]
  refine State.household_congr ?_ j
  unfold State.heldGrant
  rw [hopened]

theorem turnAsked_heldGrant (value : Nat) : s.turnAsked (s.heldGrant c idx h reserves value) c := by
  obtain ⟨_, hheld⟩ := heldFor_touches s c h reserves
  obtain ⟨-, -, -, hasked⟩ := openGrant_opens (s.heldFor c h reserves) c idx (some h) reserves value
  refine turnAsked_congr hasked ?_ (fun l => ?_) (fun _ => rfl)
  · rw [hheld]
  · rw [hheld]
    cases l <;> rfl

/-- What the grant of a resident's or business's card leaves, last seen included. -/
theorem heldGrant_see (value : Nat) (hopen : s.part.openMode = false) :
    let u := (s.heldGrant c idx h reserves value).see idx c .granted
    u.container c = s.granted c idx (some h) reserves value ∧
    u.household h = ((s.household h).lazyReset s.period).hold (s.container c).cfg.fraction ∧
    u.journal = { s.journal with reserved := s.journal.reserved + (if reserves then 1 else 0) } ∧
    (u.card idx).lastSeen = some { time := s.clock.time, container := c, code := .granted } ∧
    (u.card idx).cfg = (s.card idx).cfg ∧
    (∀ d, d ≠ c → u.container d = s.container d) ∧ (∀ j, j ≠ idx → u.card j = s.card j) ∧
    (∀ j, j ≠ h → u.household j = s.household j) ∧
    { u with containers := s.containers, cards := s.cards, households := s.households, journal := s.journal,
             lineA := s.lineA, lineB := s.lineB } = s ∧
    s.turnAsked u c := by
  intro u
  obtain ⟨hothers, hsame⟩ := container_heldGrant s c idx h reserves value
  have hhousehold := household_heldGrant s c idx h reserves value
  obtain ⟨_, _, _, _, htouches⟩ := heldGrant_touches s c idx h reserves value
  obtain ⟨_, hsees⟩ := see_touches (s.heldGrant c idx h reserves value) idx c .granted
  have hcard : ∀ j, (s.heldGrant c idx h reserves value).card j = s.card j := fun j => by rw [htouches]; rfl
  have hseen : (s.heldGrant c idx h reserves value).seenAt idx c .granted =
      some { time := s.clock.time, container := c, code := .granted } := by
    rw [seenAt_congr (by rw [htouches]) (by rw [htouches]) (hcard idx)]
    unfold State.seenAt
    rw [hopen]
    rfl
  have hcontainer : ∀ d, u.container d = (s.heldGrant c idx h reserves value).container d := fun d => by
    rw [show u = _ from hsees]; rfl
  have hhouse : ∀ j, u.household j = (s.heldGrant c idx h reserves value).household j := fun j => by
    rw [show u = _ from hsees]; rfl
  have hucard : u.card idx = { (s.heldGrant c idx h reserves value).card idx with
      lastSeen := (s.heldGrant c idx h reserves value).seenAt idx c .granted } := card_see_same _ idx c .granted
  refine ⟨(hcontainer c).trans hsame, ?_, ?_, ?_, ?_, fun d hd => (hcontainer d).trans (hothers d hd), fun j hj => ?_,
    fun j hj => ?_, ?_, turnAsked_see (turnAsked_heldGrant s c idx h reserves value) _ _ _⟩
  · rw [hhouse, hhousehold, if_pos rfl]
  · rw [show u = _ from hsees, htouches]
  · rw [hucard, hseen]
  · rw [hucard, hcard]
  · exact (card_see_other _ idx c .granted hj).trans (hcard j)
  · rw [hhouse, hhousehold, if_neg hj]
  · rw [show u = _ from hsees, htouches]

end

end Sys2Proof.Machine
end

section
/-! PROOFS. A crew's card at a LOCKED or an OPEN inlet: the cut, the room, the round and the service (R149, R151 to R153, R163). -/

namespace Sys2Proof.Machine

/-! ### The grant that a crew's card cuts (R151) -/

/-- What a crew's card finds: an OPEN inlet's grant taken away, a LOCKED one as it is. -/
def State.grantCut (s : State) (c : Nat) (grant : Option Grant) : State := if grant.isSome then s.dropGrant c else s

/-- The inlet is LOCKED, or OPEN under a grant (R149). -/
def Inlet.servesUnder (n : Inlet) (grant : Option Grant) : Prop :=
  n.state = .locked ∧ grant = none ∨ n.state = .opened ∧ grant.isSome = true ∧ n.grant = grant

section
variable {s : State} {c : Nat} {grant : Option Grant}

theorem crewDecision_serves (h : (s.container c).inlet.servesUnder grant) (idx : Nat) :
    s.crewDecision c idx = (s.grantCut c grant).serviceRoom c idx grant.isSome := by
  obtain ⟨hlocked, rfl⟩ | ⟨hopened, hsome, -⟩ := h
  · exact crewDecision_locked idx hlocked
  · rw [crewDecision_opened idx hopened, State.grantCut, if_pos hsome, hsome]

theorem container_grantCut (s : State) (c : Nat) (grant : Option Grant) (d : Nat) : (s.grantCut c grant).container d =
    if d = c then { s.container c with inlet := { (s.container c).inlet with
      grant := if grant.isSome then none else (s.container c).inlet.grant } }
    else s.container d := by
  unfold State.grantCut
  split
  · rw [container_dropGrant]
  · split
    next hd => rw [hd]
    · rfl

/-- The cut leaves all but the container, the household's hold and the reservation (R56, R64). -/
theorem grantCut_touches (h : (s.container c).inlet.servesUnder grant) : ∃ ks hs, s.grantCut c grant =
    { s with containers := ks, households := hs
             journal := { s.journal with reserved :=
               s.journal.reserved - (if (grant.map Grant.reserved).getD false then 1 else 0) } } := by
  unfold State.grantCut
  cases grant with
  | none => exact ⟨_, _, rfl⟩
  | some g =>
    obtain ⟨-, hnone⟩ | ⟨-, -, hg⟩ := h
    · cases hnone
    · rw [if_pos (show (some g).isSome = true from rfl), dropGrant_form s c g hg]
      cases g.household <;> exact ⟨_, _, rfl⟩

theorem grantGone_grantCut (h : (s.container c).inlet.servesUnder grant) {g : Grant} (hg : grant = some g) :
    s.grantGone (s.grantCut c grant) g := by
  subst hg
  obtain ⟨-, hnone⟩ | ⟨-, -, hgrant⟩ := h
  · cases hnone
  · exact grantGone_dropGrant s c g hgrant

end

/-! ### The service record (R152) -/

section
variable (s : State) (c idx : Nat) (place : Option (Nat × Nat)) (reserved : Bool)

/-- The record of a service that begins (R152). -/
def State.serviceOf : Service :=
  { crew := some idx, round := place.map Prod.fst, stop := place.map Prod.snd, reserved := reserved,
    windowLeft := some s.params.serviceWindow, limitLeft := none }

/-- The record and SERVICE, before SERVICE_UNLOCK is set. -/
def State.recordService : State :=
  (s.updInlet c (fun n => { n with service := some (s.serviceOf idx place reserved) })).setInlet c .service

theorem openService_eq : s.openService c idx place reserved = (s.recordService c idx place reserved).setCommand c
    .serviceUnlock s.params.serviceWindow .serviceGranted (serviceValue (place.map Prod.fst)) := rfl

/-- A container whose service has begun (R152). -/
def State.served : Container :=
  { s.container c with
    inlet := { (s.container c).inlet with
      state := .service
      service := some (s.serviceOf idx place reserved)
      command := some { action := .serviceUnlock, window := s.params.serviceWindow, code := .serviceGranted,
                        value := serviceValue (place.map Prod.fst), sent := false } }
    fill := { (s.container c).fill with
      request := (s.container c).fill.request.report (s.container c).inlet.state .service } }

theorem container_recordService (d : Nat) : (s.recordService c idx place reserved).container d = if d = c then
    { s.container c with
      inlet := { (s.container c).inlet with state := .service, service := some (s.serviceOf idx place reserved) }
      fill := { (s.container c).fill with
        request := (s.container c).fill.request.report (s.container c).inlet.state .service } }
    else s.container d := by
  unfold State.recordService
  rw [container_setInlet]
  by_cases hd : d = c
  · rw [if_pos hd, if_pos hd, State.container_updInlet, if_pos rfl]
  · rw [if_neg hd, if_neg hd, State.container_updInlet, if_neg hd]

theorem openService_touches : ∃ ks x y, s.openService c idx place reserved =
    { s with containers := ks, lineA := x, lineB := y } := by
  obtain ⟨_, _, _, htouches⟩ := setCommand_touches (s.recordService c idx place reserved) c .serviceUnlock
    s.params.serviceWindow .serviceGranted (serviceValue (place.map Prod.fst))
  rw [openService_eq, htouches]
  exact ⟨_, _, _, rfl⟩

theorem openService_opens :
    (∀ d, d ≠ c → (s.openService c idx place reserved).container d = s.container d) ∧
      (s.openService c idx place reserved).container c = s.served c idx place reserved ∧
      s.turnAsked (s.openService c idx place reserved) c := by
  obtain ⟨-, hothers, hsame, hasked⟩ := setCommand_sets (s.recordService c idx place reserved) c .serviceUnlock
    s.params.serviceWindow .serviceGranted (serviceValue (place.map Prod.fst))
  have hrecord := container_recordService s c idx place reserved
  rw [openService_eq]
  refine ⟨fun d hd => ?_, ?_, turnAsked_congr hasked rfl (fun _ => rfl) (fun _ => rfl)⟩
  · rw [hothers d hd, hrecord, if_neg hd]
  · rw [hsame, hrecord, if_pos rfl]
    rfl

end

/-! ### The room test (R151, R163) -/

section
variable {t : State} {c idx : Nat} {cut : Bool}

theorem serviceRoom_openMode (hopen : t.part.openMode = true) :
    t.serviceRoom c idx cut = t.openService c idx none false := if_pos hopen

/-- A refusal for a full journal: last seen and the notice. -/
def State.fullTold (t : State) (idx c : Nat) : State :=
  (t.see idx c .journalFull).raise .journalFull (some 1024) c

theorem serviceRoom_full (hopen : t.part.openMode = false) (hfull : 1023 < t.journal.places) : t.serviceRoom c idx cut =
    if cut then ((t.fullTold idx c).setInlet c .locked).lockClosed c else (t.fullTold idx c).show c .journalFull 0 := by
  unfold State.serviceRoom
  rw [hopen, if_neg Bool.false_ne_true, if_pos hfull]
  rfl

theorem serviceRoom_room (hopen : t.part.openMode = false) (hroom : ¬ 1023 < t.journal.places) :
    t.serviceRoom c idx cut = ((((t.updJournal Journal.reserve).matchRound c idx).1.openService c idx
      ((t.updJournal Journal.reserve).matchRound c idx).2 true).see idx c .serviceGranted) := by
  unfold State.serviceRoom
  rw [hopen, if_neg Bool.false_ne_true, if_neg hroom]

theorem fullTold_touches (t : State) (idx c : Nat) : ∃ cs cl q, t.fullTold idx c =
    { t with cards := cs, classes := cl, link := { t.link with notices := q } } := by
  obtain ⟨_, hsees⟩ := see_touches t idx c .journalFull
  obtain ⟨_, _, hraise⟩ := raise_touches (t.see idx c .journalFull) .journalFull (some 1024) c
  unfold State.fullTold
  rw [hraise, hsees]
  exact ⟨_, _, _, rfl⟩

theorem card_fullTold (t : State) (idx c j : Nat) : (t.fullTold idx c).card j = (t.see idx c .journalFull).card j := by
  obtain ⟨_, _, hraise⟩ := raise_touches (t.see idx c .journalFull) .journalFull (some 1024) c
  unfold State.fullTold
  rw [hraise]
  rfl

theorem told_fullTold (t : State) (idx c : Nat) : (t.fullTold idx c).told 22 (some 1024) c :=
  told_raise _ .journalFull _ _

/-- SHOW is set where no command is pending but a SHOW (R111). -/
theorem show_eq (s : State) (c : Nat) (code : DisplayCode) (value : Nat) : s.show c code value =
    if ((s.container c).inlet.command.map InletCommand.action).getD .showCode = .showCode then
      s.setCommand c .showCode 0 code value else s := by
  unfold State.show
  cases (s.container c).inlet.command with
  | none => rfl
  | some cmd => rfl

end

/-! ### The round of a service (R153) -/

section
variable {s : State} {c idx : Nat}

/-- Rounds open to a card, as the model tests them. -/
theorem openTo_iff (d : Round) (idx : Nat) : d.openTo idx = true ↔ d.cfg.crew = none ∨ d.cfg.crew = some idx := by
  simp [Round.openTo]

/-- A round of the card's own that can take a stop of the container (R153). -/
def State.ownRound (s : State) (c idx r : Nat) : Prop :=
  (s.round r).state = .active ∧ (s.round r).cfg.crew = some idx ∧ (s.round r).cfg.fraction = (s.container c).cfg.fraction ∧
    (s.round r).stops.length < 24 ∧ ∀ p ∈ (s.round r).stops, p.container ≠ c

/-- The container has an open stop in some round. -/
def State.hasOpenStop (s : State) (c : Nat) : Prop :=
  ∃ q, q < 4 ∧ ∃ p ∈ (s.round q).stops, p.container = c ∧ (p.state = some .pending ∨ p.state = some .servicing)

theorem holds_iff (d : Round) (c : Nat) (q : Stop → Bool) :
    d.holds c q = true ↔ ∃ p ∈ d.stops, p.container = c ∧ q p = true := by
  simp [Round.holds]

theorem isOpen_iff (p : Stop) : p.isOpen = true ↔ p.state = some .pending ∨ p.state = some .servicing := by
  simp [Stop.isOpen, Stop.isPending, Stop.isServicing]

theorem anyOpen_iff (s : State) (c : Nat) :
    rounds4.any (fun r => (s.round r).holds c Stop.isOpen) = true ↔ s.hasOpenStop c := by
  simp only [List.any_eq_true, holds_iff, isOpen_iff, State.hasOpenStop, mem_rounds4]

theorem ownRound_iff (s : State) (c idx r : Nat) :
    ((s.round r).state == .active && decide ((s.round r).cfg.crew = some idx) &&
      decide ((s.round r).cfg.fraction = (s.container c).cfg.fraction) &&
      decide ((s.round r).stops.length < 24) && !(s.round r).holds c (fun _ => true)) = true ↔ s.ownRound c idx r := by
  have hnone : (!(s.round r).holds c (fun _ => true)) = true ↔ ∀ p ∈ (s.round r).stops, p.container ≠ c := by
    rw [Bool.not_eq_true', ← Bool.not_eq_true, holds_iff]
    simp
  simp only [Bool.and_eq_true, hnone, State.ownRound, beq_iff_eq, decide_eq_true_eq, and_assoc]

theorem appendRound_none (h : s.hasOpenStop c ∨ ∀ r, r < 4 → ¬ s.ownRound c idx r) : s.appendRound c idx = none := by
  unfold State.appendRound
  by_cases hopen : s.hasOpenStop c
  · exact if_pos ((anyOpen_iff s c).mpr hopen)
  · rw [if_neg (fun h => hopen ((anyOpen_iff s c).mp h)), List.find?_eq_none]
    intro r hr hown
    exact (h.resolve_left hopen) r (mem_rounds4.mp hr) ((ownRound_iff s c idx r).mp hown)

/-- The first own round takes the stop, where the container has no open stop. -/
theorem appendRound_some {r : Nat} (hopen : ¬ s.hasOpenStop c) (hr : r < 4) (hown : s.ownRound c idx r)
    (hfirst : ∀ q, q < r → ¬ s.ownRound c idx q) : s.appendRound c idx = some r := by
  unfold State.appendRound
  rw [if_neg (fun h => hopen ((anyOpen_iff s c).mp h))]
  dsimp only
  have hpass := (ownRound_iff s c idx r).mpr hown
  have hfail : ∀ q, q < r → _ = false := fun q hq =>
    Bool.eq_false_iff.mpr (fun h => hfirst q hq ((ownRound_iff s c idx q).mp h))
  unfold rounds4
  obtain rfl | rfl | rfl | rfl : r = 0 ∨ r = 1 ∨ r = 2 ∨ r = 3 := by omega
  · simp only [List.find?_cons, hpass]
  · simp only [List.find?_cons, hpass, hfail 0 (by omega)]
  · simp only [List.find?_cons, hpass, hfail 0 (by omega), hfail 1 (by omega)]
  · simp only [List.find?_cons, hpass, hfail 0 (by omega), hfail 1 (by omega), hfail 2 (by omega)]

theorem matchRound_touches (s : State) (c idx : Nat) : ∃ rs, (s.matchRound c idx).1 = { s with rounds := rs } := by
  unfold State.matchRound
  split
  · exact ⟨_, rfl⟩
  · split <;> exact ⟨_, rfl⟩

theorem matchRound_pending {r i : Nat} (h : s.pendingStop c (fun d => d.openTo idx) = some (r, i)) :
    s.matchRound c idx = (s.setStop r i .servicing, some (r, i)) := by
  simp only [State.matchRound, h]

theorem matchRound_append {r : Nat} (h : s.pendingStop c (fun d => d.openTo idx) = none)
    (happend : s.appendRound c idx = some r) : s.matchRound c idx =
      (s.updRound r (fun d => { d with stops := d.stops ++
        [{ container := c, state := some .servicing, origin := .unplanned, doneTime := none }] }),
        some (r, (s.round r).stops.length)) := by
  simp only [State.matchRound, h, happend]

theorem matchRound_free (h : s.pendingStop c (fun d => d.openTo idx) = none) (happend : s.appendRound c idx = none) :
    s.matchRound c idx = (s, none) := by
  simp only [State.matchRound, h, happend]

theorem round_setStop (s : State) (r i : Nat) (st : StopState) : (∀ q, q ≠ r → (s.setStop r i st).round q = s.round q) ∧
    (s.setStop r i st).round r =
      { s.round r with stops := (s.round r).stops.modify i (fun p => { p with state := some st }) } :=
  ⟨fun q hq => by simp [State.setStop, State.round_updRound, hq], by simp [State.setStop, modifyStop_eq]⟩

end

end Sys2Proof.Machine
end

section
/-! PROOFS. A card that passes every check is granted or served: the statement (R113 to R117, R127, R149 to R153, R163). -/

namespace Sys2Proof.Machine

/-! ### A crew's card, in each of its three ends -/

section
variable {s : State} {c idx : Nat} {grant : Option Grant}

/-- The journal's reservations once the grant is cut (R64). -/
def State.keptPlaces (s : State) (grant : Option Grant) : Nat :=
  s.journal.reserved - (if (grant.map Grant.reserved).getD false then 1 else 0)

/-- A refusal leaves the inlet LOCKED: LOCK CLOSED after a cut, else SHOW under R111. -/
def State.refusedFull (s : State) (c : Nat) (grant : Option Grant) : Inlet :=
  { (s.container c).inlet with
    grant := if grant.isSome then none else (s.container c).inlet.grant
    state := .locked
    command :=
      if grant.isSome then some InletCommand.closed
      else if ((s.container c).inlet.command.map InletCommand.action).getD .showCode = .showCode then
        some { action := .showCode, window := 0, code := .journalFull, value := 0, sent := false }
      else (s.container c).inlet.command }

/-- What every end of a crew's card leaves: other containers, the fill fields, the counts and the other cards. -/
def State.crewKept (s u : State) (c idx : Nat) (grant : Option Grant) : Prop :=
  (∀ d, d ≠ c → u.container d = s.container d) ∧ (u.container c).cfg = (s.container c).cfg ∧
    (u.container c).fill = { (s.container c).fill with request :=
      if (s.container c).inlet.state = .opened ∧ (s.container c).fill.request = .deferred then .pending
      else (s.container c).fill.request } ∧
    u.households = (s.grantCut c grant).households ∧ u.journal.records = s.journal.records ∧
    u.journal.serial = s.journal.serial ∧ u.clock = s.clock ∧
    (∀ j, j ≠ idx → u.card j = s.card j) ∧ (u.card idx).cfg = (s.card idx).cfg

/-- The request after a LOCKED or OPEN inlet takes a state that defers nothing (R88). -/
theorem report_servesUnder {n : Inlet} (h : n.servesUnder grant) (q : SampleRequest) {st : InletState}
    (hst : st.defers = false) : q.report n.state st = if n.state = .opened ∧ q = .deferred then .pending else q := by
  have hwaits : n.waits = true ↔ n.state = .opened := by
    obtain ⟨hs, -⟩ | ⟨hs, -, -⟩ := h <;> simp [Inlet.waits, hs]
  rw [report_of_not_defers q n hst]
  simp only [hwaits, and_comm]

/-- The service record and the inlet under it, after the cut and the round. -/
theorem served_congr {t : State} (hcontainer : t.container c = (s.grantCut c grant).container c) (hparams : t.params = s.params)
    (place : Option (Nat × Nat)) (reserved : Bool) :
    (t.served c idx place reserved).inlet = { (s.container c).inlet with
      state := .service, grant := if grant.isSome then none else (s.container c).inlet.grant
      service := some (s.serviceOf idx place reserved)
      command := some { action := .serviceUnlock, window := s.params.serviceWindow, code := .serviceGranted,
                        value := serviceValue (place.map Prod.fst), sent := false } } ∧
    (t.served c idx place reserved).cfg = (s.container c).cfg ∧
    (t.served c idx place reserved).fill = { (s.container c).fill with
      request := (s.container c).fill.request.report (s.container c).inlet.state .service } := by
  unfold State.served State.serviceOf
  rw [hcontainer, container_grantCut, if_pos rfl, hparams]
  exact ⟨rfl, rfl, rfl⟩

/-- What a card's last seen leaves of it. -/
theorem crewKept_see {v : State} (h : s.crewKept v c idx grant) (code : DisplayCode) :
    s.crewKept (v.see idx c code) c idx grant := by
  obtain ⟨hothers, hcfg, hfill, hhouseholds, hrecords, hserial, hclock, hcards, hcard⟩ := h
  obtain ⟨_, hsees⟩ := see_touches v idx c code
  have hcontainer : ∀ d, (v.see idx c code).container d = v.container d := fun d => by rw [hsees]; rfl
  refine ⟨fun d hd => (hcontainer d).trans (hothers d hd), by rw [hcontainer, hcfg], by rw [hcontainer, hfill], ?_, ?_, ?_, ?_,
    fun j hj => (card_see_other v idx c code hj).trans (hcards j hj), ?_⟩
  · rw [hsees]
    exact hhouseholds
  · rw [hsees]
    exact hrecords
  · rw [hsees]
    exact hserial
  · rw [hsees]
    exact hclock
  · rw [card_see_same]
    exact hcard

/-- Last seen as it is written outside open mode. -/
theorem lastSeen_see {v : State} (hopen : v.part.openMode = false) (hclock : v.clock = s.clock) (code : DisplayCode) :
    ((v.see idx c code).card idx).lastSeen = some { time := s.clock.time, container := c, code := code } := by
  rw [card_see_same]
  unfold State.seenAt
  rw [hopen, hclock]
  rfl

/-- Round matching looks at the rounds and the container's fraction. -/
theorem matchRound_congr {t : State} (hrounds : t.rounds = s.rounds)
    (hfraction : (t.container c).cfg.fraction = (s.container c).cfg.fraction) :
    t.matchRound c idx = ({ t with rounds := (s.matchRound c idx).1.rounds }, (s.matchRound c idx).2) := by
  have hround : ∀ r, t.round r = s.round r := State.round_congr hrounds
  have hpending : t.pendingStop c (fun d => d.openTo idx) = s.pendingStop c (fun d => d.openTo idx) := by
    unfold State.pendingStop
    simp only [hround]
  have happend : t.appendRound c idx = s.appendRound c idx := by
    unfold State.appendRound
    simp only [hround, hfraction]
  unfold State.matchRound
  rw [hpending, happend]
  split
  · simp only [State.setStop, State.updRound, hrounds, hround]
  · split
    · simp only [State.updRound, hrounds, hround]
    · rw [← hrounds]

variable (hserves : (s.container c).inlet.servesUnder grant)
include hserves

/-- A service that begins, in open mode or after the round is matched. -/
theorem openService_serves {t : State} {place : Option (Nat × Nat)} {reserved : Bool} {n : Nat}
    (ht : ∃ rs, t = { s.grantCut c grant with rounds := rs, journal := { (s.grantCut c grant).journal with reserved := n } }) :
    let u := t.openService c idx place reserved
    s.crewKept u c idx grant ∧ s.turnAsked u c ∧ u.journal.reserved = n ∧ u.rounds = t.rounds ∧ u.cards = s.cards ∧
      u.part = s.part ∧ u.classes = s.classes ∧
      (u.container c).inlet = { (s.container c).inlet with
        state := .service, grant := if grant.isSome then none else (s.container c).inlet.grant
        service := some (s.serviceOf idx place reserved)
        command := some { action := .serviceUnlock, window := s.params.serviceWindow, code := .serviceGranted,
                          value := serviceValue (place.map Prod.fst), sent := false } } := by
  intro u
  obtain ⟨_, _, hcut⟩ := grantCut_touches hserves
  obtain ⟨_, _, _, hopened⟩ := openService_touches t c idx place reserved
  obtain ⟨hothers, hsame, hasked⟩ := openService_opens t c idx place reserved
  obtain ⟨_, ht⟩ := ht
  have htcontainer : ∀ d, t.container d = (s.grantCut c grant).container d := fun d => by rw [ht]; rfl
  have htparams : t.params = s.params := by rw [ht, hcut]
  obtain ⟨hinlet, hcfg, hfill⟩ := served_congr (idx := idx) (htcontainer c) htparams place reserved
  have hu : u = _ := hopened
  have hsamecontainer : u.container c = t.served c idx place reserved := hsame
  have hcards : u.cards = s.cards := by rw [hu, ht, hcut]
  have hcard : ∀ j, u.card j = s.card j := fun j => by unfold State.card; rw [hcards]
  refine ⟨⟨fun d hd => ?_, ?_, ?_, ?_, ?_, ?_, ?_, fun j _ => hcard j, ?_⟩, ?_, ?_, ?_, hcards, ?_, ?_, ?_⟩
  · exact (hothers d hd).trans (by rw [htcontainer, container_grantCut, if_neg hd])
  · rw [hsamecontainer, hcfg]
  · rw [hsamecontainer, hfill, report_servesUnder hserves _ rfl]
  · rw [hu, ht]
  · rw [hu, ht, hcut]
  · rw [hu, ht, hcut]
  · rw [hu, ht, hcut]
  · rw [hcard]
  · refine turnAsked_congr hasked ?_ (fun l => ?_) (fun _ => rfl)
    · rw [ht, hcut]
    · rw [ht, hcut]
      cases l <;> rfl
  · rw [hu, ht]
  · rw [hu]
  · rw [hu, ht, hcut]
  · rw [hu, ht, hcut]
  · rw [hsamecontainer, hinlet]

/-- The refusal's state before the inlet is written: last seen and the notice. -/
theorem fullTold_grantCut (hopen : s.part.openMode = false) :
    let f := (s.grantCut c grant).fullTold idx c
    (f.households = (s.grantCut c grant).households ∧ f.journal.records = s.journal.records ∧
      f.journal.serial = s.journal.serial ∧ f.clock = s.clock ∧ f.journal.reserved = s.keptPlaces grant ∧
      f.rounds = s.rounds ∧ f.stations = s.stations) ∧
    (∀ l, f.line l = s.line l) ∧ (∀ d, f.container d = (s.grantCut c grant).container d) ∧
    (∀ j, j ≠ idx → f.card j = s.card j) ∧ (f.card idx).cfg = (s.card idx).cfg ∧
    (f.card idx).lastSeen = some { time := s.clock.time, container := c, code := .journalFull } := by
  intro f
  obtain ⟨_, _, hcut⟩ := grantCut_touches hserves
  have hcutopen : (s.grantCut c grant).part.openMode = false := by rw [hcut]; exact hopen
  obtain ⟨_, _, _, htold⟩ := fullTold_touches (s.grantCut c grant) idx c
  have hf : f = _ := htold
  have hcardcut : ∀ j, (s.grantCut c grant).card j = s.card j := fun j => by rw [hcut]; rfl
  have hcard : ∀ j, f.card j = ((s.grantCut c grant).see idx c .journalFull).card j := card_fullTold _ idx c
  refine ⟨?_, fun l => ?_, fun d => ?_, fun j hj => ?_, ?_, ?_⟩
  · rw [hf]
    refine ⟨rfl, ?_⟩
    rw [hcut]
    exact ⟨rfl, rfl, rfl, rfl, rfl, rfl⟩
  · rw [hf, hcut]
    cases l <;> rfl
  · rw [hf]
    rfl
  · rw [hcard, card_see_other _ _ _ _ hj, hcardcut]
  · rw [hcard, card_see_same, hcardcut]
  · rw [hcard]
    exact lastSeen_see hcutopen (by rw [hcut]) _

/-- A refusal that then writes the container and the lines alone. -/
theorem refusal_leaves (hopen : s.part.openMode = false) {u : State} {ks : Tab Container} {x y : LineState}
    (hu : u = { (s.grantCut c grant).fullTold idx c with containers := ks, lineA := x, lineB := y })
    (hothers : ∀ d, d ≠ c → u.container d = s.container d)
    (hsame : u.container c = { s.container c with
      inlet := s.refusedFull c grant
      fill := { (s.container c).fill with request :=
        if (s.container c).inlet.state = .opened ∧ (s.container c).fill.request = .deferred then .pending
        else (s.container c).fill.request } }) :
    s.crewKept u c idx grant ∧ u.journal.reserved = s.keptPlaces grant ∧ u.rounds = s.rounds ∧ u.told 22 (some 1024) c ∧
      (u.card idx).lastSeen = some { time := s.clock.time, container := c, code := .journalFull } ∧
      (u.container c).inlet = s.refusedFull c grant := by
  obtain ⟨⟨hhouseholds, hrecords, hserial, hclock, hreserved, hrounds, -⟩, -, -, hcards, hcfg, hseen⟩ :=
    fullTold_grantCut (idx := idx) hserves hopen
  have hcard : ∀ j, u.card j = ((s.grantCut c grant).fullTold idx c).card j := fun j => by rw [hu]; rfl
  refine ⟨⟨hothers, by rw [hsame], by rw [hsame], ?_, ?_, ?_, ?_, fun j hj => (hcard j).trans (hcards j hj), ?_⟩, ?_, ?_, ?_,
    ?_, by rw [hsame]⟩
  · rw [hu]
    exact hhouseholds
  · rw [hu]
    exact hrecords
  · rw [hu]
    exact hserial
  · rw [hu]
    exact hclock
  · rw [hcard, hcfg]
  · rw [hu]
    exact hreserved
  · rw [hu]
    exact hrounds
  · rw [hu]
    exact told_fullTold (s.grantCut c grant) idx c
  · rw [hcard, hseen]

/-- After a cut the refusal leaves the inlet LOCKED with LOCK CLOSED (R151). -/
theorem serviceRoom_refuses_cut (hopen : s.part.openMode = false) (hsome : grant.isSome = true) :
    let u := (((s.grantCut c grant).fullTold idx c).setInlet c .locked).lockClosed c
    (∃ ks x y, u = { (s.grantCut c grant).fullTold idx c with containers := ks, lineA := x, lineB := y }) ∧
      (∀ d, d ≠ c → u.container d = s.container d) ∧
      u.container c = { s.container c with
        inlet := s.refusedFull c grant
        fill := { (s.container c).fill with request :=
          if (s.container c).inlet.state = .opened ∧ (s.container c).fill.request = .deferred then .pending
          else (s.container c).fill.request } } ∧
      s.turnAsked u c := by
  intro u
  obtain ⟨⟨-, -, -, -, -, -, hstations⟩, hlines, hcontainer, -⟩ := fullTold_grantCut (idx := idx) hserves hopen
  obtain ⟨_, _, _, hclosed⟩ := lockClosed_touches (((s.grantCut c grant).fullTold idx c).setInlet c .locked) c
  have hlock := container_lockClosed (((s.grantCut c grant).fullTold idx c).setInlet c .locked) c
  have hset := container_setInlet ((s.grantCut c grant).fullTold idx c) c
  refine ⟨⟨_, _, _, hclosed⟩, fun d hd => ?_, ?_, ?_⟩
  · rw [hlock, if_neg hd, hset, if_neg hd, hcontainer, container_grantCut, if_neg hd]
  · rw [hlock, if_pos rfl, hset, if_pos rfl, hcontainer, container_grantCut, if_pos rfl]
    dsimp only
    rw [report_servesUnder hserves _ rfl]
    unfold State.refusedFull
    rw [hsome]
    rfl
  · exact turnAsked_congr (turnAsked_lockClosed (((s.grantCut c grant).fullTold idx c).setInlet c .locked) c)
      hstations.symm (fun l => (hlines l).symm) (fun _ => rfl)

/-- Without a cut the refusal is a SHOW under R111. -/
theorem serviceRoom_refuses_shown (hopen : s.part.openMode = false) (hnone : grant = none) :
    let u := ((s.grantCut c grant).fullTold idx c).show c .journalFull 0
    let shown := ((s.container c).inlet.command.map InletCommand.action).getD .showCode = .showCode
    (∃ ks x y, u = { (s.grantCut c grant).fullTold idx c with containers := ks, lineA := x, lineB := y }) ∧
      (∀ d, d ≠ c → u.container d = s.container d) ∧
      u.container c = { s.container c with
        inlet := s.refusedFull c grant
        fill := { (s.container c).fill with request :=
          if (s.container c).inlet.state = .opened ∧ (s.container c).fill.request = .deferred then .pending
          else (s.container c).fill.request } } ∧
      (¬ shown → u.lineA = s.lineA ∧ u.lineB = s.lineB) ∧ (shown → s.turnAsked u c) := by
  intro u shown
  obtain ⟨⟨-, -, -, -, -, -, hstations⟩, hlines, hcontainer, -⟩ := fullTold_grantCut (idx := idx) hserves hopen
  have hlocked : (s.container c).inlet.state = .locked := by
    obtain ⟨hlocked, -⟩ | ⟨-, hsome, -⟩ := hserves
    · exact hlocked
    · rw [hnone] at hsome
      cases hsome
  have hsame : ∀ d, ((s.grantCut c grant).fullTold idx c).container d = s.container d := fun d => by
    rw [hcontainer, hnone]
    rfl
  have hfill : (if (s.container c).inlet.state = .opened ∧ (s.container c).fill.request = .deferred then .pending
      else (s.container c).fill.request) = (s.container c).fill.request := if_neg (by simp [hlocked])
  have hshow : u = if shown then ((s.grantCut c grant).fullTold idx c).setCommand c .showCode 0 .journalFull 0
      else (s.grantCut c grant).fullTold idx c := by
    refine (show_eq _ _ _ _).trans ?_
    rw [hsame]
  by_cases hshown : shown
  · rw [if_pos hshown] at hshow
    obtain ⟨-, hothers, hcommand, hasked⟩ := setCommand_sets ((s.grantCut c grant).fullTold idx c) c .showCode 0 .journalFull 0
    obtain ⟨_, _, _, htouches⟩ := setCommand_touches ((s.grantCut c grant).fullTold idx c) c .showCode 0 .journalFull 0
    rw [hshow]
    refine ⟨⟨_, _, _, htouches⟩, fun d hd => (hothers d hd).trans (hsame d), ?_, fun h => absurd hshown h, fun _ =>
      turnAsked_congr hasked hstations.symm (fun l => (hlines l).symm) (fun _ => rfl)⟩
    rw [hcommand, hsame, hfill]
    unfold State.refusedFull
    rw [if_pos (c := _ = InletAction.showCode) hshown, hnone, ← hlocked]
    rfl
  · rw [if_neg hshown] at hshow
    rw [hshow]
    refine ⟨⟨_, _, _, rfl⟩, fun d _ => hsame d, ?_, fun _ => ⟨hlines .a, hlines .b⟩, fun h => absurd h hshown⟩
    rw [hsame, hfill]
    unfold State.refusedFull
    rw [if_neg (c := _ = InletAction.showCode) hshown, hnone, ← hlocked]
    rfl

/-- The journal is full: the refusal, LOCKED after a cut (R151). -/
theorem serviceRoom_refuses (hopen : s.part.openMode = false)
    (hfull : 1023 < (s.grantCut c grant).journal.places) :
    let u := (s.grantCut c grant).serviceRoom c idx grant.isSome
    let shown := ((s.container c).inlet.command.map InletCommand.action).getD .showCode = .showCode
    (s.crewKept u c idx grant ∧ u.journal.reserved = s.keptPlaces grant ∧ u.rounds = s.rounds ∧ u.told 22 (some 1024) c ∧
      (u.card idx).lastSeen = some { time := s.clock.time, container := c, code := .journalFull } ∧
      (u.container c).inlet = s.refusedFull c grant) ∧
      (grant = none ∧ ¬ shown → u.lineA = s.lineA ∧ u.lineB = s.lineB) ∧
      (¬(grant = none ∧ ¬ shown) → s.turnAsked u c) := by
  intro u shown
  obtain ⟨_, _, hcut⟩ := grantCut_touches hserves
  have hcutopen : (s.grantCut c grant).part.openMode = false := by rw [hcut]; exact hopen
  have hu : u = _ := serviceRoom_full hcutopen hfull
  cases hsome : grant.isSome with
  | true =>
    rw [hsome, if_pos rfl] at hu
    obtain ⟨⟨_, _, _, htouches⟩, hothers, hsame, hasked⟩ := serviceRoom_refuses_cut (idx := idx) hserves hopen hsome
    rw [hu]
    refine ⟨refusal_leaves hserves hopen htouches hothers hsame, fun h => ?_, fun _ => hasked⟩
    rw [h.1] at hsome
    cases hsome
  | false =>
    have hnone : grant = none := by cases grant <;> simp at hsome ⊢
    rw [hsome, if_neg Bool.false_ne_true] at hu
    obtain ⟨⟨_, _, _, htouches⟩, hothers, hsame, hlines, hasked⟩ := serviceRoom_refuses_shown (idx := idx) hserves hopen hnone
    rw [hu]
    exact ⟨refusal_leaves hserves hopen htouches hothers hsame, fun h => hlines h.2,
      fun h => hasked (not_not.mp (fun hshown => h ⟨hnone, hshown⟩))⟩

/-- There is room: the place is set aside, the round matched, and the service begins (R152, R153). -/
theorem serviceRoom_serves (hopen : s.part.openMode = false) (hroom : ¬ 1023 < (s.grantCut c grant).journal.places) :
    let u := (s.grantCut c grant).serviceRoom c idx grant.isSome
    let m := s.matchRound c idx
    s.crewKept u c idx grant ∧ s.turnAsked u c ∧ u.journal.reserved = s.keptPlaces grant + 1 ∧ u.rounds = m.1.rounds ∧
      u.noticeClass 22 = s.noticeClass 22 ∧
      (u.card idx).lastSeen = some { time := s.clock.time, container := c, code := .serviceGranted } ∧
      (u.container c).inlet = { (s.container c).inlet with
        state := .service, grant := if grant.isSome then none else (s.container c).inlet.grant
        service := some (s.serviceOf idx m.2 true)
        command := some { action := .serviceUnlock, window := s.params.serviceWindow, code := .serviceGranted,
                          value := serviceValue (m.2.map Prod.fst), sent := false } } := by
  intro u m
  obtain ⟨_, _, hcut⟩ := grantCut_touches hserves
  have hcutopen : (s.grantCut c grant).part.openMode = false := by rw [hcut]; exact hopen
  have hmatch : (s.grantCut c grant).matchRound c idx =
      ({ s.grantCut c grant with rounds := m.1.rounds }, m.2) :=
    matchRound_congr (by rw [hcut]) (by rw [container_grantCut, if_pos rfl])
  have hu : u = _ := serviceRoom_room hcutopen hroom
  rw [matchRound_updJournal, hmatch] at hu
  obtain ⟨hkept, hasked, hreserved, hrounds, -, hpart, hclasses, hinlet⟩ := openService_serves (idx := idx) hserves
    (t := ({ s.grantCut c grant with rounds := m.1.rounds } : State).updJournal Journal.reserve) (place := m.2)
    (reserved := true) (n := (s.grantCut c grant).journal.reserved + 1) ⟨_, rfl⟩
  obtain ⟨_, hsees⟩ := see_touches ((({ s.grantCut c grant with rounds := m.1.rounds } : State).updJournal
    Journal.reserve).openService c idx m.2 true) idx c .serviceGranted
  have hclock : ((({ s.grantCut c grant with rounds := m.1.rounds } : State).updJournal
    Journal.reserve).openService c idx m.2 true).clock = s.clock := hkept.2.2.2.2.2.2.1
  rw [hu]
  refine ⟨crewKept_see hkept _, turnAsked_see hasked _ _ _, ?_, ?_, ?_, lastSeen_see (by rw [hpart]; exact hopen) hclock _, ?_⟩
  · rw [hsees]
    refine hreserved.trans ?_
    rw [hcut]
    rfl
  · rw [hsees]
    exact hrounds
  · refine State.noticeClass_congr ?_ 22
    rw [hsees]
    exact hclasses
  · have hcontainer : ∀ v : State, (v.see idx c .serviceGranted).container c = v.container c := fun v => by
      obtain ⟨_, h⟩ := see_touches v idx c .serviceGranted
      rw [h]
      rfl
    rw [hcontainer]
    exact hinlet

end

end Sys2Proof.Machine
end

section
/-! PROOFS. A card that passes every check: the statement, from the grant, the open grant and the service (R113 to R117, R127,
R149 to R153, R163). -/

namespace Sys2Proof.Machine

/-- The fill fields of a container whose LOCKED inlet is granted (R88). -/
theorem granted_of_locked {s : State} {c : Nat} (hlocked : (s.container c).inlet.state = .locked) (idx : Nat)
    (h : Option Nat) (reserved : Bool) (value : Nat) : s.granted c idx h reserved value =
    { s.container c with
      fill := { (s.container c).fill with request :=
        if (s.container c).fill.request = .pending then .deferred else (s.container c).fill.request }
      inlet := { (s.container c).inlet with
        state := .opened
        grant := some { card := idx, household := h, fraction := (s.container c).cfg.fraction, period := s.period,
                        reserved := reserved, windowLeft := (s.station (stationOf c)).cfg.grantWindow }
        command := some { action := .unlock, window := (s.station (stationOf c)).cfg.grantWindow, code := .granted,
                          value := value, sent := false } } } := by
  unfold State.granted State.grantOf
  rw [hlocked, report_locked_opened]

/-- The journal's places once the grant is cut (R61, R64). -/
theorem places_grantCut {s : State} {c : Nat} {grant : Option Grant} (h : (s.container c).inlet.servesUnder grant) :
    (s.grantCut c grant).journal.places = s.journal.records.length + s.keptPlaces grant := by
  obtain ⟨_, _, hcut⟩ := grantCut_touches h
  rw [hcut]
  rfl

/-- The round of the display value (R152). -/
theorem serviceValue_eq (round : Option Nat) : serviceValue round = match round with
    | some n => n + 1
    | none => 0 := by cases round <;> rfl

/-- What round matching makes of the rounds, by the stops that stand (R153). -/
theorem matchRound_cases (s : State) (c idx : Nat) :
    (∀ r i, s.soleStop c (fun d => d.cfg.crew = none ∨ d.cfg.crew = some idx) r i →
      (s.matchRound c idx).2 = some (r, i) ∧ (∀ q, q ≠ r → (s.matchRound c idx).1.round q = s.round q) ∧
        (s.matchRound c idx).1.round r =
          { s.round r with stops := (s.round r).stops.modify i (fun p => { p with state := some .servicing }) }) ∧
    (s.noStop c (fun d => d.cfg.crew = none ∨ d.cfg.crew = some idx) →
      (∀ r, ¬ s.hasOpenStop c → r < 4 → s.ownRound c idx r → (∀ q, q < r → ¬ s.ownRound c idx q) →
        (s.matchRound c idx).2 = some (r, (s.round r).stops.length) ∧
        (∀ q, q ≠ r → (s.matchRound c idx).1.round q = s.round q) ∧
        (s.matchRound c idx).1.round r = { s.round r with stops := (s.round r).stops ++
          [{ container := c, state := some .servicing, origin := .unplanned, doneTime := none }] }) ∧
      (s.hasOpenStop c ∨ (∀ r, r < 4 → ¬ s.ownRound c idx r) → s.matchRound c idx = (s, none))) := by
  refine ⟨fun r i hsole => ?_, fun hno => ⟨fun r hopen hr hown hfirst => ?_, fun hfree => ?_⟩⟩
  · have hpending := pendingStop_of_soleStop (ok := fun d => d.openTo idx) (fun d => openTo_iff d idx) hsole
    obtain ⟨hothers, hsame⟩ := round_setStop s r i .servicing
    rw [matchRound_pending hpending]
    exact ⟨rfl, hothers, hsame⟩
  · have hpending := pendingStop_of_noStop (ok := fun d => d.openTo idx) (fun d => openTo_iff d idx) hno
    rw [matchRound_append hpending (appendRound_some hopen hr hown hfirst)]
    refine ⟨rfl, fun q hq => ?_, ?_⟩
    · rw [State.round_updRound, if_neg hq]
    · rw [State.round_updRound, if_pos rfl]
  · exact matchRound_free (pendingStop_of_noStop (ok := fun d => d.openTo idx) (fun d => openTo_iff d idx) hno)
      (appendRound_none hfree)

/-- Settles O32: the grant, the open grant, and the service in its three ends. -/
theorem aCardThatPassesIsGranted : Obligations.ACardThatPassesIsGranted := by
  refine ⟨?resident, ?openMode, ?crew⟩
  case resident =>
    intro s station c number age h idx card k i fr w hh reserves hpresent hopen hvalid hage hclass hhouse hlocked hfull hover
      hbank hbusiness hfraction hquota hroom u left
    have hleft : left = (hh.hold fr).remaining fr := (remaining_hold hh fr).symm
    have hu : u = (s.heldGrant c idx h reserves left).see idx c .granted := by
      rw [hleft]
      exact (resident_granted rfl hpresent hopen hvalid hage hclass hhouse hlocked hfull hover hbank hbusiness hfraction
        ((quotaPasses_iff _ _).mpr hquota) hroom).trans (grant_eq s c idx h reserves rfl)
    obtain ⟨hcontainer, hhousehold, hjournal, hseen, hcfg, hothers, hcards, hhouseholds, hframe, hasked⟩ :=
      heldGrant_see s c idx h reserves left hopen
    rw [granted_of_locked hlocked] at hcontainer
    rw [hu]
    refine ⟨?_, ?_, ?_, ?_, ?_, hhousehold, hjournal, hseen, hcfg, hothers, hcards, hhouseholds, hframe, hasked⟩
    all_goals rw [hcontainer]
  case openMode =>
    intro s station c number age k w hpresent hopen hvalid hage hlocked hfull hover u
    have hu : u = s.openGrant c (cardIndex number) none false 255 :=
      openMode_granted hpresent hopen hvalid hage hlocked hfull hover
    obtain ⟨hframe, hothers, hsame, hasked⟩ := openGrant_opens s c (cardIndex number) none false 255
    rw [granted_of_locked hlocked] at hsame
    rw [hu]
    exact ⟨hframe, hothers, hsame, hasked⟩
  case crew =>
    intro s station c number age reader grant idx k w crew hpresent hvalid hage hpath hstart u kept full shown cutGrant openTo
      own service
    have hserves : k.inlet.servesUnder grant := hstart
    have hu : u = (s.grantCut c grant).serviceRoom c idx grant.isSome :=
      (cardShown_crew station reader hpresent hvalid hage hpath).trans (crewDecision_serves hserves idx)
    have hplaces := places_grantCut hserves
    have hgone : ∀ v : State, v.households = (s.grantCut c grant).households →
        (∀ g, grant = some g → s.grantGone v g) ∧ (grant = none → v.households = s.households) := fun v hv =>
      ⟨fun g hg => grantGone_congr (grantGone_grantCut hserves hg) hv, fun hnone => by rw [hv, hnone]; rfl⟩
    have hservice : ∀ (place : Option (Nat × Nat)) (reserved : Bool), reserved = !s.part.openMode →
        (u.container c).inlet = { k.inlet with
          state := .service, grant := cutGrant, service := some (s.serviceOf idx place reserved)
          command := some { action := .serviceUnlock, window := w, code := .serviceGranted,
                            value := serviceValue (place.map Prod.fst), sent := false } } →
        service (place.map Prod.fst) (place.map Prod.snd) := fun place reserved hreserved hinlet => by
      subst hreserved
      refine hinlet.trans ?_
      cases place <;> rfl
    cases hopen : s.part.openMode with
    | true =>
      have hnocrew : ¬ crew := fun h => absurd (hopen.symm.trans h.1) (by decide)
      obtain ⟨_, _, hcut⟩ := grantCut_touches hserves
      have hopened : u = (s.grantCut c grant).openService c idx none false :=
        hu.trans (serviceRoom_openMode (by rw [hcut]; exact hopen))
      obtain ⟨⟨hothers, hcfg, hfill, hhouseholds, hrecords, hserial, hclock, hcards, hcard⟩, hasked, hreserved, hrounds, hallcards,
        -, hclasses, hinlet⟩ := openService_serves (idx := idx) (place := none) (reserved := false) hserves
          (t := s.grantCut c grant) (n := (s.grantCut c grant).journal.reserved) ⟨_, rfl⟩
      rw [← hopened] at hothers hcfg hfill hhouseholds hrecords hserial hclock hcards hcard hasked hreserved hrounds hallcards
      rw [← hopened] at hclasses hinlet
      obtain ⟨hcutgone, hkept⟩ := hgone u hhouseholds
      refine ⟨fun h => absurd h.1 hnocrew, fun _ => hasked, hothers, hcfg, hfill, hcutgone, hkept, hrecords, hserial, hclock, hcards,
        hcard, fun h => absurd h hnocrew, fun h => absurd h hnocrew, fun _ => ⟨hservice none false ?_ hinlet, ?_, ?_, hallcards,
        State.noticeClass_congr hclasses 22⟩⟩
      · rw [hopen]
        rfl
      · rw [hreserved, hcut]
      · rw [hrounds, hcut]
    | false =>
      have hcrew : crew := hpath.resolve_right (fun h => absurd (hopen.symm.trans h.1) (by decide))
      by_cases hfull : full
      · have hmany : 1023 < (s.grantCut c grant).journal.places := by
          rw [hplaces]
          exact hfull
        obtain ⟨⟨⟨hothers, hcfg, hfill, hhouseholds, hrecords, hserial, hclock, hcards, hcard⟩, hreserved, hrounds, htold, hseen,
          hinlet⟩, hlines, hasked⟩ := serviceRoom_refuses (idx := idx) hserves hopen hmany
        rw [← hu] at hothers hcfg hfill hhouseholds hrecords hserial hclock hcards hcard hreserved hrounds htold hseen hinlet hlines
        rw [← hu] at hasked
        obtain ⟨hcutgone, hkept⟩ := hgone u hhouseholds
        exact ⟨fun h => hlines h.2.2, fun h => hasked (fun hshown => h ⟨hcrew, hfull, hshown⟩), hothers, hcfg, hfill, hcutgone,
          hkept, hrecords, hserial, hclock, hcards, hcard, fun _ _ => ⟨hreserved, hrounds, htold, hseen, hinlet⟩,
          fun _ h => absurd hfull h, fun h => absurd h (by decide)⟩
      · have hroom : ¬ 1023 < (s.grantCut c grant).journal.places := by
          rw [hplaces]
          exact hfull
        obtain ⟨⟨hothers, hcfg, hfill, hhouseholds, hrecords, hserial, hclock, hcards, hcard⟩, hasked, hreserved, hrounds, hclass,
          hseen, hinlet⟩ := serviceRoom_serves (idx := idx) hserves hopen hroom
        rw [← hu] at hothers hcfg hfill hhouseholds hrecords hserial hclock hcards hcard hreserved hrounds hclass hseen hinlet hasked
        obtain ⟨hcutgone, hkept⟩ := hgone u hhouseholds
        have hserved := hservice _ true (by rw [hopen]; rfl) hinlet
        have hround : ∀ q, u.round q = (s.matchRound c idx).1.round q := State.round_congr hrounds
        obtain ⟨hsole, hno⟩ := matchRound_cases s c idx
        refine ⟨fun h => absurd h.2.1 hfull, fun _ => hasked, hothers, hcfg, hfill, hcutgone, hkept, hrecords, hserial, hclock, hcards,
          hcard, fun _ h => absurd h hfull, fun _ _ => ⟨hreserved, hclass, hseen, fun r i h => ?_, fun h => ⟨fun r hopenstop hr hown
          hfirst => ?_, fun hfree => ?_⟩⟩, fun h => absurd h (by decide)⟩
        · obtain ⟨hplace, hothersround, hsameround⟩ := hsole r i h
          rw [hplace] at hserved
          exact ⟨hserved, fun q hq => (hround q).trans (hothersround q hq), (hround r).trans hsameround⟩
        · have hnone : ¬ s.hasOpenStop c := fun ⟨q, hq, p, hp, hc, hstate⟩ =>
            hstate.elim (hopenstop q hq p hp hc).1 (hopenstop q hq p hp hc).2
          obtain ⟨hplace, hothersround, hsameround⟩ := (hno h).1 r hnone hr hown hfirst
          rw [hplace] at hserved
          exact ⟨hserved, fun q hq => (hround q).trans (hothersround q hq), (hround r).trans hsameround⟩
        · have hmatch := (hno h).2 hfree
          rw [hmatch] at hserved hrounds
          exact ⟨hserved, hrounds⟩

end Sys2Proof.Machine
end

section
/-! PROOFS. What the Fill Estimator makes of the turns of a drum (R81, R82, R87, R97). -/

namespace Sys2Proof.Machine

/-! ### The turns counted and the estimate raised -/

section
variable (s : State) (c n : Nat)

/-- The deposits since the last valid sample after n turns (R81). -/
def Container.depositsAfter (k : Container) (n : Nat) : Nat := min 65535 (k.fill.deposits + n)

/-- The turns counted. -/
def State.turnsCounted : State := s.updFill c (fun f => { f with deposits := (s.container c).depositsAfter n })

/-- The estimate after n turns of a nominal volume each (R81). -/
def State.raisedEstimate (e : Nat) : Nat :=
  min (e + n * (s.fraction (s.container c).cfg.fraction).nominal) ((s.container c).cfg.capacity * 5 / 4)

/-- The estimate raised, before it is evaluated. -/
def State.turnsRaised (e : Nat) : State :=
  (s.turnsCounted c n).updFill c (fun f => { f with estimate := some (s.raisedEstimate c n e) })

/-- A sample falls due after so many turns (R87). -/
def Container.sampleAfter (k : Container) (n : Nat) : Bool :=
  extraSample k.cfg.extraEvery k.fill.deposits (k.depositsAfter n)

variable {s c n}

theorem reportTurns_absent (h : (s.container c).cfg.present = false) : s.reportTurns c n = s :=
  if_pos (by rw [h]; rfl)

theorem reportTurns_unknown (h : (s.container c).cfg.present = true) (he : (s.container c).fill.estimate = none) :
    s.reportTurns c n =
      if (s.container c).sampleAfter n = true then (s.turnsCounted c n).requestDue c else s.turnsCounted c n := by
  unfold State.reportTurns
  dsimp only
  rw [h, he]
  rfl

theorem reportTurns_known (h : (s.container c).cfg.present = true) {e : Nat} (he : (s.container c).fill.estimate = some e) :
    s.reportTurns c n =
      if (s.container c).sampleAfter n = true then ((s.turnsRaised c n e).evaluate c).requestDue c
      else (s.turnsRaised c n e).evaluate c := by
  unfold State.reportTurns
  dsimp only
  rw [h, he]
  rfl

theorem container_turnsCounted (d : Nat) : (s.turnsCounted c n).container d =
    if d = c then { s.container c with fill := { (s.container c).fill with deposits := (s.container c).depositsAfter n } }
    else s.container d := State.container_updFill _ _ _ _

theorem container_turnsRaised (e d : Nat) : (s.turnsRaised c n e).container d =
    if d = c then { s.container c with fill := { (s.container c).fill with
      deposits := (s.container c).depositsAfter n, estimate := some (s.raisedEstimate c n e) } }
    else s.container d := by
  unfold State.turnsRaised
  rw [State.container_updFill, container_turnsCounted, container_turnsCounted, if_pos rfl]
  by_cases hd : d = c
  · rw [if_pos hd, if_pos hd]
  · rw [if_neg hd, if_neg hd, if_neg hd]

end

/-- The request after the turns: one falls due where a multiple of K was reached (R85, R87, R88). -/
def Container.requestAfter (k : Container) (n : Nat) : SampleRequest :=
  if k.sampleAfter n = true ∧ k.live = true ∧ k.fill.request = .idle then
    (if k.inlet.waits then SampleRequest.deferred else .pending)
  else k.fill.request

/-- A request falls due, or not, at a container that keeps its inlet, its liveness and its request. -/
theorem container_requestIf {t : State} {c : Nat} {k : Container} {n : Nat} (hlive : (t.container c).live = k.live)
    (hinlet : (t.container c).inlet = k.inlet) (hrequest : (t.container c).fill.request = k.fill.request) (d : Nat) :
    (if k.sampleAfter n = true then t.requestDue c else t).container d =
      if d = c then { t.container c with fill := { (t.container c).fill with request := k.requestAfter n } }
      else t.container d := by
  unfold Container.requestAfter
  cases hafter : k.sampleAfter n with
  | false =>
    rw [if_neg Bool.false_ne_true, if_neg (c := _ ∧ _) (fun h => Bool.false_ne_true h.1), ← hrequest]
    by_cases hd : d = c
    · rw [if_pos hd, hd]
    · rw [if_neg hd]
  | true =>
    rw [if_pos rfl, container_requestDue, hlive, hinlet, hrequest, due_eq]
    by_cases hd : d = c
    · subst hd
      cases hl : k.live with
      | true => simp
      | false => simp [← hrequest]
    · simp [hd]

theorem requestIf_touches (t : State) (c : Nat) (p : Bool) :
    ∃ ks, (if p = true then t.requestDue c else t) = { t with containers := ks } := by
  cases p with
  | true => exact requestDue_touches t c
  | false => exact ⟨_, rfl⟩

theorem sampleAfter_iff (k : Container) (n : Nat) : k.sampleAfter n = true ↔
    1 ≤ k.cfg.extraEvery ∧ k.fill.deposits / k.cfg.extraEvery < min 65535 (k.fill.deposits + n) / k.cfg.extraEvery := by
  rw [Container.sampleAfter, extraSample, Bool.and_eq_true, decide_eq_true_eq, decide_eq_true_eq]
  rfl

section
variable {s : State} {c n : Nat} (hpresent : (s.container c).cfg.present = true)
include hpresent

/-- With E unknown the turns are counted, and a sample may fall due. -/
theorem reportTurns_counts (he : (s.container c).fill.estimate = none) :
    (∃ ks, s.reportTurns c n = { s with containers := ks }) ∧
      ∀ d, (s.reportTurns c n).container d = if d = c then
        { s.container c with fill := { (s.container c).fill with
          deposits := (s.container c).depositsAfter n, request := (s.container c).requestAfter n } }
        else s.container d := by
  have hcounted := fun d => container_turnsCounted (s := s) (c := c) (n := n) d
  rw [reportTurns_unknown hpresent he]
  refine ⟨?_, fun d => ?_⟩
  · obtain ⟨_, hrequest⟩ := requestIf_touches (s.turnsCounted c n) c ((s.container c).sampleAfter n)
    rw [hrequest]
    exact ⟨_, rfl⟩
  · have hat := (hcounted c).trans (if_pos rfl)
    rw [container_requestIf (by rw [hat]; rfl) (by rw [hat]) (by rw [hat]), hat, hcounted]
    by_cases hd : d = c
    · rw [if_pos hd, if_pos hd]
    · rw [if_neg hd, if_neg hd, if_neg hd]

/-- With E known it goes up, is evaluated once, and a sample may fall due. -/
theorem reportTurns_raises {e : Nat} (he : (s.container c).fill.estimate = some e) :
    let F := s.raisedEstimate c n e * 1000 / (s.container c).cfg.capacity
    let r := evaluated (s.container c).fill.status (s.container c).fill.fullCount F (s.container c).cfg.alertLevel
      (s.container c).cfg.fullLevel (s.container c).cfg.confirmCount
    (∃ ks p cs q, s.reportTurns c n =
      { s with containers := ks, planner := p, classes := cs, link := { s.link with notices := q } }) ∧
    (∀ d, (s.reportTurns c n).container d = if d = c then
      { s.container c with fill := { (s.container c).fill with
        deposits := (s.container c).depositsAfter n, estimate := some (s.raisedEstimate c n e), status := r.1
        fullCount := r.2, request := (s.container c).requestAfter n } }
      else s.container d) ∧
    (∀ m, m ∉ [9, 10, 11] → (s.reportTurns c n).noticeClass m = s.noticeClass m) ∧
    s.fillReported (s.reportTurns c n) c (s.container c).fill.status r.1 F := by
  intro F r
  have hat := (container_turnsRaised (s := s) (c := c) (n := n) e c).trans (if_pos rfl)
  obtain ⟨hsame, hothers, hclasses, hreported⟩ := evaluate_reports (s.turnsRaised c n e) c (s.raisedEstimate c n e)
    (by rw [hat])
  rw [hat] at hsame hreported
  obtain ⟨_, _, _, _, hevaluate⟩ := evaluate_touches (s.turnsRaised c n e) c
  obtain ⟨_, hrequest⟩ := requestIf_touches ((s.turnsRaised c n e).evaluate c) c ((s.container c).sampleAfter n)
  have hclass : ∀ m, (s.reportTurns c n).noticeClass m = ((s.turnsRaised c n e).evaluate c).noticeClass m := fun m => by
    rw [reportTurns_known hpresent he, hrequest]
    rfl
  refine ⟨?_, fun d => ?_, fun m hm => ?_, ?_⟩
  · rw [reportTurns_known hpresent he, hrequest, hevaluate]
    exact ⟨_, _, _, _, rfl⟩
  · rw [reportTurns_known hpresent he,
      container_requestIf (by rw [hsame]; rfl) (by rw [hsame]) (by rw [hsame]), hsame]
    by_cases hd : d = c
    · rw [if_pos hd, if_pos hd]
    · rw [if_neg hd, if_neg hd, hothers d hd, container_turnsRaised, if_neg hd]
  · rw [hclass]
    exact hclasses m hm
  · unfold State.fillReported State.told at hreported ⊢
    simp only [hclass]
    exact hreported

end

/-- What n turns reported leave, whatever the container: all but containers, due list, notices; other containers, the inlet, and
the classes of no fill notice. -/
theorem reportTurns_leaves (s : State) (c n : Nat) :
    (∃ ks p cs q, s.reportTurns c n =
      { s with containers := ks, planner := p, classes := cs, link := { s.link with notices := q } }) ∧
    (∀ d, d ≠ c → (s.reportTurns c n).container d = s.container d) ∧
    ((s.reportTurns c n).container c).inlet = (s.container c).inlet ∧
    ∀ m, m ∉ [9, 10, 11] → (s.reportTurns c n).noticeClass m = s.noticeClass m := by
  cases hpresent : (s.container c).cfg.present with
  | false =>
    rw [reportTurns_absent hpresent]
    exact ⟨⟨_, _, _, _, rfl⟩, fun _ _ => rfl, rfl, fun _ _ => rfl⟩
  | true =>
    cases he : (s.container c).fill.estimate with
    | none =>
      obtain ⟨⟨_, htouches⟩, hcontainer⟩ := reportTurns_counts (n := n) hpresent he
      refine ⟨⟨_, _, _, _, htouches⟩, fun d hd => by rw [hcontainer, if_neg hd], by rw [hcontainer, if_pos rfl],
        fun m _ => ?_⟩
      rw [htouches]
      rfl
    | some e =>
      obtain ⟨htouches, hcontainer, hclasses, -⟩ := reportTurns_raises (n := n) hpresent he
      exact ⟨htouches, fun d hd => by rw [hcontainer, if_neg hd], by rw [hcontainer, if_pos rfl], hclasses⟩

end Sys2Proof.Machine
end

section
/-! PROOFS. A deposit closes its grant: the count, the record, LOCK READY, and the turns that no grant takes (R55, R58, R59,
R119 to R121). -/

namespace Sys2Proof.Machine

/-! ### The count and the record -/

section
variable (s : State) (c : Nat) (g : Grant)

/-- A deposit under a grant is late: the grant's household is bound to a period that has passed (R58). -/
def State.depositLate : Bool := g.household.isSome && decide (s.period ≠ g.period)

/-- The household counts the deposit, and a reserving grant writes its record. -/
def State.depositCounted : State :=
  if g.reserved then
    (s.countedFor g s.period).writeReserved ((s.countedFor g s.period).depositRecord c g (s.depositLate g))
  else s.countedFor g s.period

theorem closeGrant_counts : s.closeGrant c g = (((s.depositCounted c g).updInlet c
    (fun n => { n with grant := none })).setInlet c .locked).setCommand c .lock 0 .ready 0 := rfl

theorem countedFor_touches (now : Nat) : ∃ hs, s.countedFor g now = { s with households := hs } := by
  unfold State.countedFor
  split
  · exact ⟨_, rfl⟩
  · exact ⟨_, rfl⟩

/-- A closing grant's household: one hold less, and one more use in the grant's own period (R55). -/
theorem countDeposit_eq (r : Household) (f : Fraction) (now p : Nat) : r.countDeposit f now p =
    { r.lazyReset now with
      held := (r.lazyReset now).held.set f ((r.lazyReset now).held.get f - 1)
      used := if now = p then (r.lazyReset now).used.set f (min 255 ((r.lazyReset now).used.get f + 1))
        else (r.lazyReset now).used } := by
  have hepoch : (r.lazyReset now).epoch = some now := by
    unfold Household.lazyReset
    split
    · assumption
    · rfl
  unfold Household.countDeposit Household.unhold
  dsimp only
  rw [hepoch]
  by_cases hp : now = p
  · rw [if_pos (by rw [hp]), if_pos hp]
  · rw [if_neg (fun h => hp (Option.some.inj h)), if_neg hp]

theorem household_countedFor (now j : Nat) : (s.countedFor g now).household j =
    if g.household = some j then (s.household j).countDeposit g.fraction now g.period else s.household j := by
  unfold State.countedFor
  cases g.household with
  | none => rfl
  | some h =>
    rw [State.household_updHousehold]
    by_cases hj : j = h
    · subst hj
      rw [if_pos rfl, if_pos rfl]
    · rw [if_neg hj, if_neg (fun h => hj (Option.some.inj h).symm)]

/-- The journal after the deposit: a record in the place a reserving grant held (R59, R64). -/
def State.journalAfter : Journal :=
  if g.reserved then
    { records := s.journal.records ++
        [{ serial := s.journal.serial, kind := .deposit, time := s.clock.time, container := c, card := some g.card,
           household := g.household, fraction := g.fraction, period := some g.period, late := s.depositLate g,
           openMode := s.part.openMode }]
      serial := (s.journal.serial + 1) % 65536
      reserved := s.journal.reserved - 1 }
  else s.journal

theorem depositCounted_touches : ∃ cs q, s.depositCounted c g =
    { s with households := (s.countedFor g s.period).households, journal := s.journalAfter c g, classes := cs
             link := { s.link with notices := q } } := by
  obtain ⟨_, hcounted⟩ := countedFor_touches s g s.period
  unfold State.depositCounted State.journalAfter
  cases g.reserved with
  | false =>
    rw [hcounted]
    exact ⟨_, _, rfl⟩
  | true =>
    obtain ⟨_, _, hwrite⟩ := writeRecord_touches ((s.countedFor g s.period).updJournal Journal.unreserve)
      ((s.countedFor g s.period).depositRecord c g (s.depositLate g))
    rw [if_pos rfl, State.writeReserved, hwrite, hcounted]
    exact ⟨_, _, rfl⟩

/-- A record written where another makes 768 raises JOURNAL_HIGH, and no other class (R62). -/
theorem writeRecord_notices (t : State) (r : JournalRecord) :
    (t.journal.records.length = 767 → (t.writeRecord r).told 21 none 768) ∧
      ∀ n, n ≠ 21 ∨ t.journal.records.length ≠ 767 → (t.writeRecord r).noticeClass n = t.noticeClass n := by
  unfold State.writeRecord
  dsimp only
  refine ⟨fun h => ?_, fun n hn => ?_⟩
  · rw [if_pos h]
    exact told_raise _ .journalHigh _ _
  · split
    next h => exact noticeClass_raise _ .journalHigh _ _ n (hn.resolve_right (not_not.mpr h))
    next => rfl

theorem depositCounted_notices :
    (g.reserved = true → s.journal.records.length = 767 → (s.depositCounted c g).told 21 none 768) ∧
      ∀ n, n ≠ 21 ∨ g.reserved = false ∨ s.journal.records.length ≠ 767 →
        (s.depositCounted c g).noticeClass n = s.noticeClass n := by
  obtain ⟨_, hcounted⟩ := countedFor_touches s g s.period
  have hclass : ∀ n, (s.countedFor g s.period).noticeClass n = s.noticeClass n := fun n => by rw [hcounted]; rfl
  unfold State.depositCounted
  cases g.reserved with
  | false => exact ⟨fun h => absurd h Bool.false_ne_true, fun n _ => hclass n⟩
  | true =>
    have hlength : ((s.countedFor g s.period).updJournal Journal.unreserve).journal.records = s.journal.records := by
      rw [hcounted]
      rfl
    obtain ⟨htold, hothers⟩ := writeRecord_notices ((s.countedFor g s.period).updJournal Journal.unreserve)
      ((s.countedFor g s.period).depositRecord c g (s.depositLate g))
    rw [hlength] at htold hothers
    exact ⟨fun _ h => htold h, fun n hn => (hothers n (hn.imp_right (fun h => h.resolve_left (by decide)))).trans (hclass n)⟩

end

/-! ### The grant closed -/

section
variable (s : State) (c : Nat) (g : Grant)

/-- A container whose grant a deposit has closed (R120). -/
def Container.closed (k : Container) : Container :=
  { k with
    inlet := { k.inlet with
      state := .locked, grant := none
      command := some { action := .lock, window := 0, code := .ready, value := 0, sent := false } }
    fill := { k.fill with request := k.fill.request.report k.inlet.state .locked } }

/-- The counted deposit with the inlet LOCKED, before LOCK READY is set. -/
def State.lockedAfter : State := ((s.depositCounted c g).updInlet c (fun n => { n with grant := none })).setInlet c .locked

theorem lockedAfter_touches : ∃ ks, s.lockedAfter c g = { s.depositCounted c g with containers := ks } := ⟨_, rfl⟩

theorem container_depositCounted (d : Nat) : (s.depositCounted c g).container d = s.container d := by
  obtain ⟨_, _, htouches⟩ := depositCounted_touches s c g
  rw [htouches]
  rfl

theorem container_closeGrant (d : Nat) : (s.closeGrant c g).container d =
    if d = c then (s.container c).closed else s.container d := by
  have hlocked : ∀ d, (s.lockedAfter c g).container d = if d = c then _ else _ := fun d => container_setInlet _ c d .locked
  have hcounted := container_depositCounted s c g
  show ((s.lockedAfter c g).setCommand c .lock 0 .ready 0).container d = _
  rw [container_setCommand]
  by_cases hd : d = c
  · rw [if_pos hd, if_pos hd, hlocked, if_pos rfl, State.container_updInlet, if_pos rfl, hcounted]
    rfl
  · rw [if_neg hd, if_neg hd, hlocked, if_neg hd, State.container_updInlet, if_neg hd, hcounted]

theorem closeGrant_touches : ∃ ks x y, s.closeGrant c g =
    { s.depositCounted c g with containers := ks, lineA := x, lineB := y } := by
  obtain ⟨_, _, _, hcommand⟩ := setCommand_touches (s.lockedAfter c g) c .lock 0 .ready 0
  have hclose : s.closeGrant c g = (s.lockedAfter c g).setCommand c .lock 0 .ready 0 := rfl
  rw [hclose, hcommand]
  exact ⟨_, _, _, rfl⟩

theorem turnAsked_closeGrant : s.turnAsked (s.closeGrant c g) c := by
  obtain ⟨_, _, htouches⟩ := depositCounted_touches s c g
  obtain ⟨_, hlocked⟩ := lockedAfter_touches s c g
  obtain ⟨-, -, -, hasked⟩ := setCommand_sets (s.lockedAfter c g) c .lock 0 .ready 0
  have hclose : s.closeGrant c g = (s.lockedAfter c g).setCommand c .lock 0 .ready 0 := rfl
  rw [hclose]
  refine turnAsked_congr hasked ?_ (fun l => ?_) (fun _ => rfl)
  · rw [hlocked, htouches]
  · rw [hlocked, htouches]
    cases l <;> rfl

end

/-! ### The turns that no grant takes (R121) -/

section
variable (s : State) (c n : Nat)

/-- A container's unattributed turns after n more. -/
def Container.unattributedAfter (k : Container) (n : Nat) : Container :=
  { k with inlet := { k.inlet with
    unattributed := if n = 0 then k.inlet.unattributed else min 65535 (k.inlet.unattributed + n) } }

theorem unattributedTurns_leaves :
    (∃ ks cs q, s.unattributedTurns c n = { s with containers := ks, classes := cs, link := { s.link with notices := q } }) ∧
    (∀ d, (s.unattributedTurns c n).container d = if d = c then (s.container c).unattributedAfter n else s.container d) ∧
    (1 ≤ n → (s.unattributedTurns c n).told 20 (some c) n) ∧
    ∀ m, m ≠ 20 ∨ n = 0 → (s.unattributedTurns c n).noticeClass m = s.noticeClass m := by
  unfold State.unattributedTurns Container.unattributedAfter
  by_cases hn : n = 0
  · rw [if_pos hn]
    refine ⟨⟨_, _, _, rfl⟩, fun d => ?_, fun h => by omega, fun m _ => rfl⟩
    by_cases hd : d = c
    · rw [if_pos hd, if_pos hn, hd]
    · rw [if_neg hd]
  · rw [if_neg hn, if_neg hn]
    obtain ⟨_, _, hraise⟩ := raise_touches (s.updInlet c (fun k => { k with unattributed := min 65535 (k.unattributed + n) }))
      .drumExtra (some c) n
    refine ⟨?_, fun d => ?_, fun _ => told_raise _ .drumExtra _ _, fun m hm => ?_⟩
    · rw [hraise]
      exact ⟨_, _, _, rfl⟩
    · rw [State.container_raise, State.container_updInlet]
    · rw [noticeClass_raise _ .drumExtra _ _ m (hm.resolve_right hn)]
      rfl

end

end Sys2Proof.Machine
end

section
/-! PROOFS. A DEPOSIT_DONE as a whole: the grant closed or not, the turns reported to the Fill Estimator, and the statement
(R81, R87, R119 to R121). -/

namespace Sys2Proof.Machine

/-- The drum count kept (R119). -/
def State.drumKept (s : State) (c count : Nat) : State := s.updInlet c (fun k => { k with lastDrum := some count })

section
variable {s : State} {c count : Nat}

theorem container_drumKept (d : Nat) : (s.drumKept c count).container d =
    if d = c then { s.container c with inlet := { (s.container c).inlet with lastDrum := some count } }
    else s.container d := State.container_updInlet s c d _

theorem present_drumKept : (s.present c) = (s.container c).cfg.present := rfl

/-- No turn, or no container: the drum count alone. -/
theorem depositDone_ignored (h : (s.container c).cfg.present = false ∨
      drumTurns (s.container c).inlet.lastDrum count = 0) : s.depositDone c count = s.drumKept c count := by
  unfold State.depositDone
  dsimp only
  rw [present_drumKept]
  cases hpresent : (s.container c).cfg.present with
  | false => rfl
  | true => exact if_pos (h.resolve_left (by simp [hpresent]))

theorem depositDone_shared (hpresent : (s.container c).cfg.present = true)
    (hturns : 1 ≤ drumTurns (s.container c).inlet.lastDrum count) : s.depositDone c count =
      (s.drumKept c count).shareTurns c (drumTurns (s.container c).inlet.lastDrum count) := by
  unfold State.depositDone
  dsimp only
  rw [present_drumKept, hpresent]
  rw [if_neg (by decide)]
  exact if_neg (Nat.pos_iff_ne_zero.mp hturns)

theorem shareTurns_open {t : State} {n : Nat} {g : Grant} (hopened : (t.container c).inlet.state = .opened)
    (hg : (t.container c).inlet.grant = some g) :
    t.shareTurns c n = ((t.closeGrant c g).unattributedTurns c (n - 1)).reportTurns c n := by
  unfold State.shareTurns
  dsimp only
  rw [if_pos hopened, hg]

theorem shareTurns_shut {t : State} {n : Nat} (h : (t.container c).inlet.state ≠ .opened ∨ (t.container c).inlet.grant = none) :
    t.shareTurns c n = (t.unattributedTurns c n).reportTurns c n := by
  have hnone : (if (t.container c).inlet.state = .opened then (t.container c).inlet.grant else none) = none := by
    split
    next hopened => exact h.resolve_left (not_not.mpr hopened)
    next => rfl
  unfold State.shareTurns
  dsimp only
  rw [hnone]

end

/-! ### A deposit under an open grant -/

/-- The grant closed and the other turns counted, before the Fill Estimator hears of them (R120, R121). -/
def State.depositTaken (s : State) (c count n : Nat) (g : Grant) : State :=
  ((s.drumKept c count).closeGrant c g).unattributedTurns c (n - 1)

section
variable (s : State) (c count n : Nat) (g : Grant)

theorem depositTaken_touches : ∃ ks cs q x y, s.depositTaken c count n g =
    { s with containers := ks, households := (s.countedFor g s.period).households, journal := s.journalAfter c g
             classes := cs, link := { s.link with notices := q }, lineA := x, lineB := y } := by
  obtain ⟨⟨_, _, _, hturns⟩, -⟩ := unattributedTurns_leaves ((s.drumKept c count).closeGrant c g) c (n - 1)
  obtain ⟨_, _, _, hclose⟩ := closeGrant_touches (s.drumKept c count) c g
  obtain ⟨_, _, hcounted⟩ := depositCounted_touches (s.drumKept c count) c g
  have hhouseholds : ((s.drumKept c count).countedFor g (s.drumKept c count).period).households =
      (s.countedFor g s.period).households := by
    unfold State.countedFor
    cases g.household <;> rfl
  unfold State.depositTaken
  rw [hturns, hclose, hcounted, hhouseholds]
  exact ⟨_, _, _, _, _, rfl⟩

theorem container_depositTaken (d : Nat) : (s.depositTaken c count n g).container d = if d = c then
    (Container.closed { s.container c with inlet := { (s.container c).inlet with lastDrum := some count } }).unattributedAfter
      (n - 1)
    else s.container d := by
  obtain ⟨-, hcontainer, -⟩ := unattributedTurns_leaves ((s.drumKept c count).closeGrant c g) c (n - 1)
  unfold State.depositTaken
  rw [hcontainer]
  by_cases hd : d = c
  · rw [if_pos hd, if_pos hd, container_closeGrant, if_pos rfl, container_drumKept, if_pos rfl]
  · rw [if_neg hd, if_neg hd, container_closeGrant, if_neg hd, container_drumKept, if_neg hd]

theorem household_depositTaken (j : Nat) : (s.depositTaken c count n g).household j =
    if g.household = some j then (s.household j).countDeposit g.fraction s.period g.period else s.household j := by
  obtain ⟨_, _, _, _, _, htouches⟩ := depositTaken_touches s c count n g
  rw [← household_countedFor s g s.period j]
  exact State.household_congr (by rw [htouches]) j

theorem turnAsked_depositTaken : s.turnAsked (s.depositTaken c count n g) c := by
  obtain ⟨⟨_, _, _, hturns⟩, -⟩ := unattributedTurns_leaves ((s.drumKept c count).closeGrant c g) c (n - 1)
  unfold State.depositTaken
  refine turnAsked_congr (turnAsked_closeGrant (s.drumKept c count) c g) rfl (fun l => ?_) (fun l => ?_)
  · cases l <;> rfl
  · rw [hturns]
    cases l <;> rfl

theorem depositTaken_notices :
    (2 ≤ n → (s.depositTaken c count n g).told 20 (some c) (n - 1)) ∧
    (n = 1 → (s.depositTaken c count n g).noticeClass 20 = s.noticeClass 20) ∧
    (g.reserved = true → s.journal.records.length = 767 → (s.depositTaken c count n g).told 21 none 768) ∧
    (g.reserved = false ∨ s.journal.records.length ≠ 767 →
      (s.depositTaken c count n g).noticeClass 21 = s.noticeClass 21) := by
  obtain ⟨-, -, htold, hothers⟩ := unattributedTurns_leaves ((s.drumKept c count).closeGrant c g) c (n - 1)
  obtain ⟨_, _, _, hclose⟩ := closeGrant_touches (s.drumKept c count) c g
  obtain ⟨hhigh, hkept⟩ := depositCounted_notices (s.drumKept c count) c g
  have hclosed : ∀ m, ((s.drumKept c count).closeGrant c g).noticeClass m =
      ((s.drumKept c count).depositCounted c g).noticeClass m := fun m => by rw [hclose]; rfl
  refine ⟨fun h => htold (by omega), fun h => ?_, fun hreserved hlength => ?_, fun h => ?_⟩
  · exact (hothers 20 (Or.inr (by omega))).trans ((hclosed 20).trans (hkept 20 (Or.inl (by decide))))
  · have hraised := hhigh hreserved hlength
    unfold State.told at hraised ⊢
    unfold State.depositTaken
    rw [hothers 21 (Or.inl (by decide)), hclosed]
    exact hraised
  · exact (hothers 21 (Or.inl (by decide))).trans ((hclosed 21).trans (hkept 21 (Or.inr h)))

end

/-- The request at an OPEN inlet that is LOCKED (R88). -/
theorem report_opened_locked (q : SampleRequest) : q.report .opened .locked = if q = .deferred then .pending else q := by
  cases q <;> rfl

theorem told_of_noticeClass {t u : State} {n : Nat} {subject : Option Nat} {value : Nat} (h : t.told n subject value)
    (hclass : u.noticeClass n = t.noticeClass n) : u.told n subject value := by
  unfold State.told at h ⊢
  rwa [hclass]

/-- Settles O33: the deposit under a grant, without one, and the turns reported. -/
theorem depositClosesTheGrant : Obligations.DepositClosesTheGrant := by
  refine ⟨fun s c count g => ?_, fun s c count => ?_, fun s c n => ?_⟩
  · intro k n hpresent hopened hg hturns u late
    have hdrum : ((s.drumKept c count).container c).inlet = { k.inlet with lastDrum := some count } := by
      rw [container_drumKept, if_pos rfl]
    have hu : u = (s.depositTaken c count n g).reportTurns c n := by
      refine (depositDone_shared hpresent hturns).trans (shareTurns_open ?_ ?_)
      · rw [hdrum]
        exact hopened
      · rw [hdrum]
        exact hg
    obtain ⟨⟨_, _, _, _, hreport⟩, hothers, hinlet, hclasses⟩ := reportTurns_leaves (s.depositTaken c count n g) c n
    obtain ⟨_, _, _, _, _, htouches⟩ := depositTaken_touches s c count n g
    obtain ⟨hextra, hsingle, hhigh, hroom⟩ := depositTaken_notices s c count n g
    have hcontainer := container_depositTaken s c count n g
    have hhousehold : ∀ j, u.household j = (s.depositTaken c count n g).household j := fun j => by rw [hu, hreport]; rfl
    have hjournal : u.journal = s.journalAfter c g := by rw [hu, hreport, htouches]
    have huinlet : (u.container c).inlet = ((Container.closed { s.container c with
        inlet := { (s.container c).inlet with lastDrum := some count } }).unattributedAfter (n - 1)).inlet := by
      rw [hu, hinlet, hcontainer, if_pos rfl]
    have hclass : ∀ m, m ∉ [9, 10, 11] → u.noticeClass m = (s.depositTaken c count n g).noticeClass m := fun m hm => by
      rw [hu]
      exact hclasses m hm
    refine ⟨by rw [huinlet]; rfl, by rw [huinlet]; rfl, by rw [huinlet]; rfl, by rw [huinlet]; rfl, ?_, fun h hh => ?_,
      fun j hj => ?_, fun hfree => ?_, fun hreserved => ?_, ?_, fun d hd => ?_, ?_, fun h => ?_, fun h => ?_,
      fun hreserved h => ?_, fun h => ?_, ?_⟩
    · rw [huinlet]
      unfold Container.unattributedAfter
      by_cases hone : n = 1
      · rw [if_pos hone]
        exact if_pos (by omega)
      · rw [if_neg hone]
        exact if_neg (by omega)
    · intro r
      rw [hhousehold, household_depositTaken, if_pos hh, countDeposit_eq]
    · rw [hhousehold, household_depositTaken, if_neg hj]
    · rw [hjournal, State.journalAfter, hfree]
      rfl
    · rw [hjournal, State.journalAfter, hreserved]
      rfl
    · rw [hu, hreport, htouches]
    · rw [hu, hothers d hd, hcontainer, if_neg hd]
    · rw [hu]
      refine turnAsked_congr (turnAsked_depositTaken s c count n g) rfl (fun _ => rfl) (fun l => ?_)
      rw [hreport]
      cases l <;> rfl
    · exact told_of_noticeClass (hextra h) (hclass 20 (by decide))
    · exact (hclass 20 (by decide)).trans (hsingle h)
    · exact told_of_noticeClass (hhigh hreserved h) (hclass 21 (by decide))
    · exact (hclass 21 (by decide)).trans (hroom h)
    · refine ⟨s.depositTaken c count n g, hu, by rw [htouches], ?_⟩
      rw [huinlet, hcontainer, if_pos rfl]
      unfold Container.unattributedAfter Container.closed
      dsimp only
      rw [hopened, report_opened_locked]
  · intro k n u
    refine ⟨fun h => ?_, fun hpresent hturns hshut => ?_⟩
    · have hu : u = s.drumKept c count := depositDone_ignored h
      rw [hu]
      refine ⟨rfl, fun d hd => ?_, ?_⟩
      · rw [container_drumKept, if_neg hd]
      · rw [container_drumKept, if_pos rfl]
    · have hdrum : ((s.drumKept c count).container c).inlet = { k.inlet with lastDrum := some count } := by
        rw [container_drumKept, if_pos rfl]
      have hu : u = ((s.drumKept c count).unattributedTurns c n).reportTurns c n := by
        refine (depositDone_shared hpresent hturns).trans (shareTurns_shut ?_)
        rw [hdrum]
        exact hshut
      obtain ⟨⟨_, _, _, hextra⟩, hcontainer, htold, hclasses⟩ := unattributedTurns_leaves (s.drumKept c count) c n
      refine ⟨(s.drumKept c count).unattributedTurns c n, hu, ?_, fun d hd => ?_, ?_, htold hturns,
        fun m hm => hclasses m (Or.inl hm)⟩
      · rw [hextra]
        rfl
      · rw [hcontainer, if_neg hd, container_drumKept, if_neg hd]
      · rw [hcontainer, if_pos rfl, container_drumKept, if_pos rfl]
        unfold Container.unattributedAfter
        rw [if_neg (show ¬ n = 0 by omega)]
  · intro k u b a due request
    have hrequest : request = k.requestAfter n := by
      unfold Container.requestAfter
      simp only [sampleAfter_iff]
      rfl
    rw [hrequest]
    refine ⟨fun h => reportTurns_absent h, fun hpresent he => ?_, fun e hpresent he => ?_⟩
    · obtain ⟨⟨_, htouches⟩, hcontainer⟩ := reportTurns_counts (n := n) hpresent he
      refine ⟨by rw [show u = _ from htouches], fun d hd => ?_, ?_⟩
      · exact (hcontainer d).trans (if_neg hd)
      · exact (hcontainer c).trans (if_pos rfl)
    · intro E F r
      obtain ⟨⟨_, _, _, _, htouches⟩, hcontainer, -, hreported⟩ := reportTurns_raises (n := n) hpresent he
      refine ⟨by rw [show u = _ from htouches], fun d hd => ?_, ?_, hreported⟩
      · exact (hcontainer d).trans (if_neg hd)
      · exact (hcontainer c).trans (if_pos rfl)

end Sys2Proof.Machine
end

section
/-! PROOFS. The operations of the planner tick: a round released, closed, aborted, past its deadline, and what the rest of a
tick keeps (R140 to R147). -/

namespace Sys2Proof.Machine

/-! ### A round closed (R144) -/

section
variable (s : State) (r : Nat)

theorem round_closeRound (q : Nat) : (s.closeRound r).round q =
    if q = r then { s.round r with state := .closed, closing := none } else s.round q := by
  unfold State.closeRound
  rw [State.round_raise, State.round_updRound]

theorem told_closeRound : (s.closeRound r).told 17 (some r) (s.round r).doneCount := told_raise _ .roundClosed _ _

theorem noticeClass_closeRound {n : Nat} (hn : n ≠ 17) : (s.closeRound r).noticeClass n = s.noticeClass n :=
  noticeClass_raise _ .roundClosed _ _ n hn

theorem closeRound_touches : ∃ rs cs q, s.closeRound r =
    { s with rounds := rs, classes := cs, link := { s.link with notices := q } } := by
  obtain ⟨_, _, hraise⟩ := raise_touches (s.updRound r (fun d => { d with state := .closed, closing := none })) .roundClosed
    (some r) (s.round r).doneCount
  exact ⟨_, _, _, hraise⟩

end

/-! ### A round leaves ACTIVE (R142, R145) -/

section
variable {s : State} {r : Nat}

theorem leaveActive_busy (h : (s.round r).stops.any Stop.isServicing = true) (cause : ClosingCause) :
    s.leaveActive r cause = s.updRound r (fun d => { d with state := .closing, closing := some cause }) := if_pos h

theorem leaveActive_free (h : (s.round r).stops.any Stop.isServicing = false) (cause : ClosingCause) :
    s.leaveActive r cause = s.closeRound r := if_neg (by simp [h])

theorem round_leaveActive (cause : ClosingCause) : (s.leaveActive r cause).round r = { s.round r with
    state := if (s.round r).stops.any Stop.isServicing then .closing else .closed
    closing := if (s.round r).stops.any Stop.isServicing then some cause else none } := by
  cases h : (s.round r).stops.any Stop.isServicing with
  | true => rw [leaveActive_busy h, State.round_updRound_same]; rfl
  | false => rw [leaveActive_free h, round_closeRound, if_pos rfl]; rfl

theorem leaveActive_touches (cause : ClosingCause) : ∃ rs cs q, s.leaveActive r cause =
    { s with rounds := rs, classes := cs, link := { s.link with notices := q } } := by
  cases h : (s.round r).stops.any Stop.isServicing with
  | true => rw [leaveActive_busy h]; exact ⟨_, _, _, rfl⟩
  | false => rw [leaveActive_free h]; exact closeRound_touches s r

theorem noticeClass_leaveActive (cause : ClosingCause) {n : Nat} (hn : n ≠ 17) :
    (s.leaveActive r cause).noticeClass n = s.noticeClass n := by
  cases h : (s.round r).stops.any Stop.isServicing with
  | true => rw [leaveActive_busy h]; rfl
  | false => rw [leaveActive_free h]; exact noticeClass_closeRound s r hn

end

theorem any_setStops_skips (q : Stop → Bool) (st : StopState) {stops : List Stop} (p : Stop → Bool)
    (hset : ∀ x : Stop, q x = true → p { x with state := some st } = p x) : (setStops q st stops).any p = stops.any p := by
  induction stops with
  | nil => rfl
  | cons x rest ih =>
    have hx : p (if q x then { x with state := some st } else x) = p x := by
      split
      next hq => exact hset x hq
      next => rfl
    simp only [setStops, List.map_cons, List.any_cons, hx]
    exact congrArg (p x || ·) ih

/-- A PENDING stop is not SERVICING, and neither is what it becomes. -/
theorem servicing_of_pendingSet {st : StopState} (hst : st ≠ .servicing) (stops : List Stop) :
    (setStops Stop.isPending st stops).any Stop.isServicing = stops.any Stop.isServicing := by
  refine any_setStops_skips _ _ _ (fun x hx => ?_)
  have hpending : x.state = some .pending := by simpa [Stop.isPending] using hx
  simp [Stop.isServicing, hpending, hst]

/-! ### The stops of a round past its deadline (R134, R145) -/

theorem noticeClass_reportMissed (s : State) (r c : Nat) {n : Nat} (hn : n ≠ 18) :
    (s.reportMissed r c).noticeClass n = s.noticeClass n :=
  (noticeClass_raise _ .stopMissed _ _ n hn).trans (noticeClass_setMissed s c n)

theorem told_reportMissed (s : State) (r c : Nat) : (s.reportMissed r c).told 18 (some c) r := told_raise _ .stopMissed _ _

/-- STOP_MISSED for each container of a list. -/
def State.missAll (s : State) (r : Nat) (cs : List Nat) : State := cs.foldl (fun t c => t.reportMissed r c) s

theorem missAll_keeps (s : State) (r : Nat) (cs : List Nat) : (s.missAll r cs).rounds = s.rounds ∧
    (s.missAll r cs).clock = s.clock ∧ (s.missAll r cs).planner.prevTick = s.planner.prevTick ∧
    (∀ n, n ≠ 18 → (s.missAll r cs).noticeClass n = s.noticeClass n) ∧
    (∀ c, (s.container c).missed = true ∨ c ∈ cs → ((s.missAll r cs).container c).missed = true) := by
  induction cs generalizing s with
  | nil => exact ⟨rfl, rfl, rfl, fun _ _ => rfl, fun c h => h.resolve_right (List.not_mem_nil)⟩
  | cons d cs ih =>
    obtain ⟨hrounds, hclock, htick, hclasses, hmissed⟩ := ih (s.reportMissed r d)
    obtain ⟨_, _, hraise⟩ := raise_touches (s.setMissed d) .stopMissed (some d) r
    have hstep : (s.reportMissed r d).rounds = s.rounds ∧ (s.reportMissed r d).clock = s.clock ∧
        (s.reportMissed r d).planner.prevTick = s.planner.prevTick := by
      rw [State.reportMissed, hraise]
      exact ⟨rfl, rfl, rfl⟩
    obtain ⟨hrounds', hclock', htick'⟩ := hstep
    refine ⟨hrounds.trans hrounds', hclock.trans hclock', htick.trans htick',
      fun n hn => (hclasses n hn).trans (noticeClass_reportMissed s r d hn), fun c hc => hmissed c ?_⟩
    rw [container_reportMissed]
    by_cases hcd : c = d
    · simp [hcd]
    · rw [if_neg hcd]
      simpa [hcd] using hc

theorem missAll_append (s : State) (r : Nat) (cs : List Nat) (c : Nat) :
    s.missAll r (cs ++ [c]) = (s.missAll r cs).reportMissed r c := List.foldl_append ..

/-! ### What the rest of a tick keeps -/

/-- What the rest of a tick keeps of a round whose own turn is over: the round, a missed mark, STOP_MISSED, a raised
ROUND_CLOSED and the clock. -/
def State.tickKeeps (s t : State) (r : Nat) : Prop :=
  t.round r = s.round r ∧ (∀ c, (s.container c).missed = true → (t.container c).missed = true) ∧
    t.noticeClass 18 = s.noticeClass 18 ∧ ((s.noticeClass 17).flag = true → (t.noticeClass 17).flag = true) ∧
    t.clock = s.clock

theorem tickKeeps_refl (s : State) (r : Nat) : s.tickKeeps s r := ⟨rfl, fun _ h => h, rfl, fun h => h, rfl⟩

theorem tickKeeps_trans {s t u : State} {r : Nat} (h : s.tickKeeps t r) (h' : t.tickKeeps u r) : s.tickKeeps u r := by
  obtain ⟨hround, hmissed, hstops, hclosed, hclock⟩ := h
  obtain ⟨hround', hmissed', hstops', hclosed', hclock'⟩ := h'
  exact ⟨hround'.trans hround, fun c hc => hmissed' c (hmissed c hc), hstops'.trans hstops, fun hf => hclosed' (hclosed hf),
    hclock'.trans hclock⟩

/-- A property that a map of the records gives on passes to the records of the mapped table, in any table. -/
theorem Tab.get_map_of_get {α : Type} [DecidableEq α] {d : α} {f : Nat → α → α} {t : Tab α} {m : Nat} {P : α → Prop}
    (hblank : ¬ P d) (hf : ∀ k v, P v → P (f k v)) (h : P (t.get d m)) : P ((t.map d f).get d m) := by
  unfold Tab.get Tab.map at *
  dsimp only
  generalize t.entries = l at *
  induction l with
  | nil => exact absurd h hblank
  | cons e rest ih =>
    obtain ⟨j, w⟩ := e
    by_cases hj : j = m
    · have hw : P w := by simpa [Tab.find, hj] using h
      have hne : f j w ≠ d := fun he => hblank (he ▸ hf j w hw)
      simp only [Tab.mapList, if_neg hne, Tab.find, if_pos hj]
      exact hf j w hw
    · have hrest := ih (by simpa [Tab.find, hj] using h)
      simp only [Tab.mapList]
      split
      · exact hrest
      · simpa [Tab.find, hj] using hrest

section
variable {q r : Nat} (hq : r ≠ q)
include hq

theorem tickKeeps_updRound (s : State) (f : Round → Round) : s.tickKeeps (s.updRound q f) r :=
  ⟨by rw [State.round_updRound, if_neg hq], fun _ h => h, rfl, fun h => h, rfl⟩

theorem tickKeeps_closeRound (s : State) : s.tickKeeps (s.closeRound q) r := by
  obtain ⟨hflag, -⟩ := told_closeRound s q
  obtain ⟨_, _, _, htouches⟩ := closeRound_touches s q
  refine ⟨by rw [round_closeRound, if_neg hq], fun c h => ?_, noticeClass_closeRound s q (by decide), fun _ => hflag, ?_⟩
  · rw [htouches]
    exact h
  · rw [htouches]

theorem tickKeeps_leaveActive (s : State) (cause : ClosingCause) : s.tickKeeps (s.leaveActive q cause) r := by
  unfold State.leaveActive
  split
  · exact tickKeeps_updRound hq s _
  · exact tickKeeps_closeRound hq s

theorem tickKeeps_releaseRound (s : State) : s.tickKeeps (s.releaseRound q) r := by
  unfold State.releaseRound
  dsimp only
  split
  · exact tickKeeps_updRound hq s _
  · exact tickKeeps_refl s r

theorem tickKeeps_takeClose (s : State) : s.tickKeeps (s.takeClose q) r := by
  unfold State.takeClose
  split
  · exact tickKeeps_trans (tickKeeps_updRound hq s _) (tickKeeps_leaveActive hq _ _)
  · exact tickKeeps_refl s r

omit hq in
theorem tickKeeps_freeServices (s : State) : s.tickKeeps (s.freeServices q) r := by
  refine ⟨rfl, fun c h => ?_, rfl, fun h => h, rfl⟩
  refine Tab.get_map_of_get (P := fun k : Container => k.missed = true) (by decide) (fun _ k hk => ?_) h
  dsimp only
  split
  · split
    · exact hk
    · exact hk
  · exact hk

theorem tickKeeps_takeAbort (s : State) : s.tickKeeps (s.takeAbort q) r := by
  unfold State.takeAbort
  split
  · exact tickKeeps_trans (tickKeeps_trans (tickKeeps_updRound hq s _) (tickKeeps_freeServices _))
      (tickKeeps_closeRound hq _)
  · exact tickKeeps_refl s r

theorem tickKeeps_takeCommand (s : State) : s.tickKeeps (s.takeCommand q) r := by
  have hgone := tickKeeps_updRound hq s (fun d => { d with requested := none })
  unfold State.takeCommand
  dsimp only
  split
  · exact tickKeeps_trans hgone (tickKeeps_releaseRound hq _)
  · exact tickKeeps_trans hgone (tickKeeps_takeClose hq _)
  · exact tickKeeps_trans hgone (tickKeeps_takeAbort hq _)
  · exact hgone

/-- A stage of another round that does not wait. -/
theorem tickKeeps_runStage {s : State} {g : TickStage} (hround : g.round = q) (hwaits : s.stageWaits g = false) :
    s.tickKeeps (s.runStage g) r := by
  cases g with
  | command p =>
    cases hround
    exact tickKeeps_takeCommand hq s
  | check p =>
    cases hround
    have hdue : s.deadlineDue p = false := hwaits
    simp only [State.runStage, State.checkRound, hdue]
    split
    · exact tickKeeps_closeRound hq s
    · exact tickKeeps_refl s r
  | closing p =>
    cases hround
    simp only [State.runStage, State.checkClosing]
    split
    · exact tickKeeps_closeRound hq s
    · exact tickKeeps_refl s r
  | standing p =>
    cases hround
    have hdue : s.standingDue p = false := hwaits
    simp only [State.runStage, State.checkStanding, hdue]
    exact tickKeeps_refl s r

end

/-- The stages of a tick after a round's check: the closing and the standing release of the round, and other rounds. -/
def TickStage.past (r : Nat) (g : TickStage) : Prop := g.round ≠ r ∨ g = .closing r ∨ g = .standing r

theorem stagesAfter_subset (s : State) (g : TickStage) (rest : List TickStage) : s.stagesAfter g rest ⊆ rest := by
  unfold State.stagesAfter
  split
  · split
    · exact List.filter_subset_self _
    · exact List.Subset.refl _
  · exact List.Subset.refl _

theorem updPlanner_tickKeeps (s : State) (f : Planner → Planner) (r : Nat) : s.tickKeeps (s.updPlanner f) r :=
  ⟨rfl, fun _ h => h, rfl, fun h => h, rfl⟩

/-- A round that CLOSING does not end is not closed by the tick. -/
theorem checkClosing_stays {s : State} {r : Nat}
    (h : (s.round r).state = .closing → (s.round r).stops.any Stop.isServicing = true) : s.checkClosing r = s :=
  if_neg (fun ⟨hclosing, hfree⟩ => by simp [h hclosing] at hfree)

/-- The rest of a tick keeps a round whose check is over (R140, log 3). -/
theorem runTick_keeps {r n : Nat} {todo : List TickStage} {s : State} (htodo : ∀ g ∈ todo, g.past r)
    (hround : (s.round r).state = .closing → (s.round r).stops.any Stop.isServicing = true) :
    s.tickKeeps (State.runTick false n todo s) r := by
  induction n generalizing s todo with
  | zero =>
    cases todo <;> exact updPlanner_tickKeeps s _ r
  | succ n ih =>
    cases todo with
    | nil => exact updPlanner_tickKeeps s _ r
    | cons g rest =>
      cases hwaits : s.stageWaits g with
      | true =>
        simp only [State.runTick, hwaits]
        exact updPlanner_tickKeeps s _ r
      | false =>
        have hstep : s.tickKeeps (s.runStage g) r := by
          obtain hother | rfl | rfl := htodo g (List.mem_cons_self ..)
          · exact tickKeeps_runStage (Ne.symm hother) rfl hwaits
          · rw [State.runStage, checkClosing_stays hround]
            exact tickKeeps_refl s r
          · have hdue : s.standingDue r = false := hwaits
            simp only [State.runStage, State.checkStanding, hdue]
            exact tickKeeps_refl s r
        have hrest : ∀ g' ∈ s.stagesAfter g rest, g'.past r := fun g' hg' =>
          htodo g' (List.mem_cons_of_mem _ (stagesAfter_subset s g rest hg'))
        obtain ⟨hsame, -⟩ := id hstep
        have hround' : ((s.runStage g).round r).state = .closing →
            ((s.runStage g).round r).stops.any Stop.isServicing = true := by
          rw [hsame]
          exact hround
        simp only [State.runTick, hwaits]
        exact tickKeeps_trans hstep (ih hrest hround')

/-! ### A tick that closes no further round -/

/-- A round whose stages raise no ROUND_CLOSED: no command, an open stop while ACTIVE and a SERVICING one while CLOSING. -/
def Round.holdsOn (d : Round) : Prop :=
  d.requested = none ∧ (d.state = .active → d.stops.any Stop.isOpen = true) ∧
    (d.state = .closing → d.stops.any Stop.isServicing = true)

/-- Such a stage, when it does not wait, changes no round and no class. -/
theorem runStage_holdsOn {s : State} {g : TickStage} (h : (s.round g.round).holdsOn) (hwaits : s.stageWaits g = false) :
    (∀ q, (s.runStage g).round q = s.round q) ∧ (s.runStage g).classes = s.classes := by
  obtain ⟨hnone, hopen, hbusy⟩ := h
  cases g with
  | command p =>
    have hp : (s.round p).requested = none := hnone
    have hstage : s.takeCommand p = s.updRound p (fun d => { d with requested := none }) := by
      unfold State.takeCommand
      rw [hp]
    refine ⟨fun q => ?_, ?_⟩
    · rw [State.runStage, hstage, State.round_updRound]
      split
      next hqp => rw [hqp, ← hp]
      next => rfl
    · rw [State.runStage, hstage]
      rfl
  | check p =>
    have hdue : s.deadlineDue p = false := hwaits
    have hstage : s.checkRound p = s := by
      simp only [State.checkRound, hdue]
      refine if_neg (fun ⟨hactive, hcomplete⟩ => ?_)
      have hsome : (s.round p).stops.any Stop.isOpen = true := hopen hactive
      rw [Round.complete, hsome] at hcomplete
      exact absurd hcomplete (by decide)
    rw [State.runStage, hstage]
    exact ⟨fun _ => rfl, rfl⟩
  | closing p =>
    have hstage : s.checkClosing p = s := checkClosing_stays hbusy
    rw [State.runStage, hstage]
    exact ⟨fun _ => rfl, rfl⟩
  | standing p =>
    have hdue : s.standingDue p = false := hwaits
    simp only [State.runStage, State.checkStanding, hdue]
    exact ⟨fun _ => rfl, rfl⟩

theorem runTick_classes {n : Nat} {todo : List TickStage} {s : State} {r : Nat}
    (htodo : ∀ g ∈ todo, (s.round g.round).holdsOn ∨ g = .closing r ∨ g = .standing r)
    (hround : (s.round r).state = .closing → (s.round r).stops.any Stop.isServicing = true) :
    (State.runTick false n todo s).classes = s.classes := by
  induction n generalizing s todo with
  | zero => cases todo <;> rfl
  | succ n ih =>
    cases todo with
    | nil => rfl
    | cons g rest =>
      cases hwaits : s.stageWaits g with
      | true =>
        simp only [State.runTick, hwaits]
        rfl
      | false =>
        have hstep : (∀ q, (s.runStage g).round q = s.round q) ∧ (s.runStage g).classes = s.classes := by
          obtain hholds | rfl | rfl := htodo g (List.mem_cons_self ..)
          · exact runStage_holdsOn hholds hwaits
          · rw [State.runStage, checkClosing_stays hround]
            exact ⟨fun _ => rfl, rfl⟩
          · have hdue : s.standingDue r = false := hwaits
            simp only [State.runStage, State.checkStanding, hdue]
            exact ⟨fun _ => rfl, rfl⟩
        obtain ⟨hrounds, hclasses⟩ := hstep
        simp only [State.runTick, hwaits]
        refine (ih (fun g' hg' => ?_) ?_).trans hclasses
        · rw [hrounds]
          exact htodo g' (List.mem_cons_of_mem _ (stagesAfter_subset s g rest hg'))
        · rw [hrounds]
          exact hround

end Sys2Proof.Machine
end

section
/-! PROOFS. A deadline taken by the tick, a standing release, and the time a round is given (R26, R141, R145, R147). -/

namespace Sys2Proof.Machine

/-! ### The stage at which the tick waits -/

theorem tickStages_check : ∀ r, r < 4 → tickStages.drop (4 * r + 1) = .check r :: tickStages.drop (4 * r + 2) ∧
    ∀ g ∈ tickStages.drop (4 * r + 2), (r < g.round ∧ g.round < 4) ∨ g = .closing r ∨ g = .standing r := by decide

theorem tickStages_standing : ∀ r, r < 4 → tickStages.drop (4 * r + 3) = .standing r :: tickStages.drop (4 * r + 4) ∧
    ∀ g ∈ tickStages.drop (4 * r + 4), r < g.round := by decide

/-- The tick waits no longer. -/
def State.tickTaken (s : State) : State := s.updPlanner (fun p => { p with tickTodo := [] })

theorem takeStage_head {s : State} {g : TickStage} {rest : List TickStage} (h : s.planner.tickTodo = g :: rest) :
    s.takeStage g = State.runTick false rest.length rest (s.tickTaken.runStage g) := by
  unfold State.takeStage
  rw [h]
  exact if_pos rfl

theorem exec_roundDeadlineReached {s : State} (h : s.part.phase = .running) (r : Nat) :
    exec (.roundDeadlineReached r) s = .next (s.takeStage (.check r)) :=
  congrArg Host.Outcome.next (if_pos (by simp [State.running, h]))

theorem exec_standingRelease {s : State} (h : s.part.phase = .running) (r : Nat) :
    exec (.standingRelease r) s = .next (s.takeStage (.standing r)) :=
  congrArg Host.Outcome.next (if_pos (by simp [State.running, h]))

/-! ### The deadline (R145) -/

section
variable {s : State} {r : Nat} (hactive : (s.round r).state = .active) (hopen : (s.round r).stops.any Stop.isOpen = true)
include hactive hopen

theorem checkRound_due {t : Time} (hdeadline : (s.round r).deadline = some t) (hreached : t.reached s.now = true) :
    s.checkRound r = s.takeDeadline r := by
  have hdue : s.deadlineDue r = true := by
    simp only [State.deadlineDue, hactive, hdeadline, hreached, Round.complete, hopen]
    decide
  have hopenYet : (s.round r).complete = false := by rw [Round.complete, hopen]; rfl
  unfold State.checkRound
  rw [if_neg (fun h => Bool.false_ne_true (hopenYet.symm.trans h.2)), if_pos hdue]

end

/-- The state after the stops are MISSED, before the round leaves ACTIVE. -/
def State.stopsMissed (s : State) (r : Nat) : State :=
  (s.updRound r (fun d => { d with stops := setStops Stop.isPending .missed d.stops })).missAll r (s.round r).pendingContainers

theorem takeDeadline_eq (s : State) (r : Nat) : s.takeDeadline r = (s.stopsMissed r).leaveActive r .deadline := rfl

section
variable (s : State) (r : Nat)

theorem round_stopsMissed (q : Nat) : (s.stopsMissed r).round q =
    if q = r then { s.round r with stops := setStops Stop.isPending .missed (s.round r).stops } else s.round q := by
  obtain ⟨hrounds, -⟩ := missAll_keeps (s.updRound r (fun d => { d with stops := setStops Stop.isPending .missed d.stops })) r
    (s.round r).pendingContainers
  exact (State.round_congr hrounds q).trans (State.round_updRound s r q _)

theorem busy_stopsMissed : ((s.stopsMissed r).round r).stops.any Stop.isServicing =
    (s.round r).stops.any Stop.isServicing := by
  rw [round_stopsMissed, if_pos rfl]
  exact servicing_of_pendingSet (by decide) _

theorem noticeClass_stopsMissed {n : Nat} (hn : n ≠ 18) : (s.stopsMissed r).noticeClass n = s.noticeClass n := by
  obtain ⟨-, -, -, hclasses, -⟩ := missAll_keeps
    (s.updRound r (fun d => { d with stops := setStops Stop.isPending .missed d.stops })) r (s.round r).pendingContainers
  exact hclasses n hn

theorem clock_stopsMissed : (s.stopsMissed r).clock = s.clock := by
  obtain ⟨-, hclock, -⟩ := missAll_keeps
    (s.updRound r (fun d => { d with stops := setStops Stop.isPending .missed d.stops })) r (s.round r).pendingContainers
  exact hclock

theorem mem_pendingContainers {p : Stop} {d : Round} (hp : p ∈ d.stops) (hpending : p.state = some .pending) :
    p.container ∈ d.pendingContainers :=
  List.mem_map_of_mem (List.mem_filter.mpr ⟨hp, by simp [Stop.isPending, hpending]⟩)

theorem missed_stopsMissed {p : Stop} (hp : p ∈ (s.round r).stops) (hpending : p.state = some .pending) :
    ((s.stopsMissed r).container p.container).missed = true := by
  obtain ⟨-, -, -, -, hmissed⟩ := missAll_keeps
    (s.updRound r (fun d => { d with stops := setStops Stop.isPending .missed d.stops })) r (s.round r).pendingContainers
  exact hmissed p.container (Or.inr (mem_pendingContainers hp hpending))

/-- The last PENDING stop of the list stands in STOP_MISSED. -/
theorem told_stopsMissed {before after : List Stop} {p : Stop} (hstops : (s.round r).stops = before ++ p :: after)
    (hpending : p.state = some .pending) (hlast : after.any Stop.isPending = false) :
    (s.stopsMissed r).told 18 (some p.container) r := by
  have hp : p.isPending = true := by simp [Stop.isPending, hpending]
  have hnone : after.filter Stop.isPending = [] :=
    List.filter_eq_nil_iff.mpr (fun x hx => by simpa using List.any_eq_false.mp hlast x hx)
  have hcontainers : (s.round r).pendingContainers = (before.filter Stop.isPending).map Stop.container ++ [p.container] := by
    rw [Round.pendingContainers, hstops, List.filter_append, List.filter_cons_of_pos hp, hnone, List.map_append]
    rfl
  unfold State.stopsMissed
  rw [hcontainers, missAll_append]
  exact told_reportMissed _ _ _

theorem noticeClass_stopsMissed_none (h : (s.round r).stops.any Stop.isPending = false) :
    (s.stopsMissed r).noticeClass 18 = s.noticeClass 18 := by
  have hnone : (s.round r).stops.filter Stop.isPending = [] :=
    List.filter_eq_nil_iff.mpr (fun x hx => by simpa using List.any_eq_false.mp h x hx)
  unfold State.stopsMissed Round.pendingContainers
  rw [hnone]
  rfl

/-- Some PENDING stop is the last one. -/
theorem last_pending {stops : List Stop} (h : stops.any Stop.isPending = true) : ∃ before p after,
    stops = before ++ p :: after ∧ p.state = some .pending ∧ after.any Stop.isPending = false := by
  induction stops with
  | nil => exact absurd h (by decide)
  | cons x rest ih =>
    cases hrest : rest.any Stop.isPending with
    | true =>
      obtain ⟨before, p, after, hstops, hpending, hlast⟩ := ih hrest
      exact ⟨x :: before, p, after, by rw [hstops]; rfl, hpending, hlast⟩
    | false =>
      rw [List.any_cons, hrest, Bool.or_false] at h
      exact ⟨[], x, rest, rfl, by simpa [Stop.isPending] using h, hrest⟩

end

theorem reached_of_seconds {t now : Time} (h : t.day * 86400 + t.sec ≤ now.day * 86400 + now.sec) (ht : t.sec < 86400)
    (hnow : now.sec < 86400) : t.reached now = true := by
  simp only [Time.reached, Time.before, Bool.not_eq_true', Bool.or_eq_false_iff, Bool.and_eq_false_iff, decide_eq_false_iff_not]
  omega

theorem setStops_eq (st : StopState) (stops : List Stop) : setStops Stop.isPending st stops =
    stops.map (fun p => if p.state = some .pending then { p with state := some st } else p) := by
  simp only [setStops, Stop.isPending, beq_iff_eq]

/-! ### The release of a round (R141) -/

section
variable {s : State} {r : Nat}

theorem takenElsewhere_iff (c : Nat) : s.takenElsewhere r c = true ↔
    ∃ q, q < 4 ∧ q ≠ r ∧ (s.round q).holds c Stop.isOpen = true := by
  simp only [State.takenElsewhere, List.any_eq_true, Bool.and_eq_true, bne_iff_ne, mem_rounds4]

theorem releaseStop_eq (p : Stop) [Decidable ((s.container p.container).cfg.present = false ∨
      (s.container p.container).cfg.fraction ≠ (s.round r).cfg.fraction ∨
      ∃ q, q < 4 ∧ q ≠ r ∧ (s.round q).holds p.container Stop.isOpen = true)] : s.releaseStop r p =
    { p with
      state := some (if (s.container p.container).cfg.present = false ∨
          (s.container p.container).cfg.fraction ≠ (s.round r).cfg.fraction ∨
          ∃ q, q < 4 ∧ q ≠ r ∧ (s.round q).holds p.container Stop.isOpen = true then .skipped else .pending)
      doneTime := none } := by
  have hskip : (!(s.container p.container).cfg.present ||
      decide ((s.container p.container).cfg.fraction ≠ (s.round r).cfg.fraction) || s.takenElsewhere r p.container) = true ↔
      ((s.container p.container).cfg.present = false ∨
        (s.container p.container).cfg.fraction ≠ (s.round r).cfg.fraction ∨
        ∃ q, q < 4 ∧ q ≠ r ∧ (s.round q).holds p.container Stop.isOpen = true) := by
    rw [Bool.or_eq_true, Bool.or_eq_true, takenElsewhere_iff, decide_eq_true_iff, or_assoc, Bool.not_eq_true']
  unfold State.releaseStop
  dsimp only
  congr 2
  exact if_congr hskip rfl rfl

/-- The stops of a released round. -/
def State.releasedStops (s : State) (r : Nat) : List Stop :=
  ((s.round r).stops.filter (fun p => decide (p.origin ≠ .unplanned))).map (s.releaseStop r)

theorem releaseRound_released (hstate : (s.round r).state = .loaded ∨ (s.round r).state = .closed)
    (hstops : (s.round r).stops ≠ []) : s.releaseRound r = s.updRound r (fun d =>
      { d with stops := s.releasedStops r, state := .active, deadline := some (s.now.plusMinutes d.cfg.deadlineLen)
               closing := none }) := by
  unfold State.releaseRound
  dsimp only
  rw [if_pos ⟨hstate, hstops⟩]
  rfl

theorem releaseRound_refused (h : ¬ (((s.round r).state = .loaded ∨ (s.round r).state = .closed) ∧ (s.round r).stops ≠ [])) :
    s.releaseRound r = s := if_neg h

theorem standingDue_of {t : Time} (hstanding : (s.round r).cfg.standing = true)
    (hstate : (s.round r).state = .loaded ∨ (s.round r).state = .closed)
    (hmoment : releaseMoment s.clock.time (s.round r).cfg.releaseTime = some t)
    (hlater : s.planner.prevTick.before t = true) : s.standingDue r = true := by
  have hnow : releaseMoment s.now (s.round r).cfg.releaseTime = some t := hmoment
  unfold State.standingDue
  dsimp only
  rw [hnow, hstanding]
  obtain hs | hs := hstate <;> rw [hs] <;> exact hlater

end

theorem releasedStops_congr {s t : State} {r : Nat} (hcontainers : ∀ c, (t.container c).cfg = (s.container c).cfg)
    (hfraction : (t.round r).cfg.fraction = (s.round r).cfg.fraction) (hstops : (t.round r).stops = (s.round r).stops)
    (hrounds : ∀ q, q ≠ r → t.round q = s.round q) : t.releasedStops r = s.releasedStops r := by
  have htaken : ∀ c, t.takenElsewhere r c = s.takenElsewhere r c := fun c => by
    rw [Bool.eq_iff_iff, takenElsewhere_iff, takenElsewhere_iff]
    exact exists_congr fun q => and_congr_right fun _ => and_congr_right fun hq => by rw [hrounds q hq]
  have hstop : t.releaseStop r = s.releaseStop r := funext fun p => by
    simp only [State.releaseStop, hcontainers, htaken, hfraction]
  rw [State.releasedStops, State.releasedStops, hstops, hstop]

/-! ### The time (R26) -/

theorem plusMinutes_within {t : Time} {minutes : Nat} (h : t.day * 86400 + t.sec + minutes * 60 ≤ 65535 * 86400 + 86399) :
    (t.plusMinutes minutes).day * 86400 + (t.plusMinutes minutes).sec = t.day * 86400 + t.sec + minutes * 60 ∧
      (t.plusMinutes minutes).sec ≤ 86399 := by
  have hsum : t.plusMinutes minutes = { day := (t.day * 86400 + t.sec + minutes * 60) / 86400
                                        sec := (t.day * 86400 + t.sec + minutes * 60) % 86400 } := if_neg (by omega)
  rw [hsum]
  dsimp only
  omega

theorem plusMinutes_capped {t : Time} {minutes : Nat} (h : 65535 * 86400 + 86399 < t.day * 86400 + t.sec + minutes * 60) :
    t.plusMinutes minutes = { day := 65535, sec := 86399 } := if_pos h

theorem releaseMoment_cases (now : Time) (release : Nat) :
    (release ≤ now.sec → releaseMoment now release = some { day := now.day, sec := release }) ∧
    (now.sec < release → now.day = 0 → releaseMoment now release = none) ∧
    (now.sec < release → 0 < now.day → releaseMoment now release = some { day := now.day - 1, sec := release }) :=
  ⟨fun h => if_pos h, fun h hday => (if_neg (Nat.not_le.mpr h)).trans (if_pos hday),
    fun h hday => (if_neg (Nat.not_le.mpr h)).trans (if_neg hday.ne')⟩

end Sys2Proof.Machine
end

section
/-! PROOFS. The tick of one round alone: its command, its check and its closing (R140 to R147). -/

namespace Sys2Proof.Machine

/-! ### The command (R139, R141 to R143) -/

/-- The requested command, taken, is absent. -/
def State.commandTaken (s : State) (r : Nat) : State := s.updRound r (fun d => { d with requested := none })

section
variable (s : State) (r : Nat)

theorem round_commandTaken : (s.commandTaken r).round r = { s.round r with requested := none } := by
  rw [State.commandTaken, State.round_updRound_same]

theorem commandTaken_other {q : Nat} (hq : q ≠ r) : (s.commandTaken r).round q = s.round q := by
  rw [State.commandTaken, State.round_updRound, if_neg hq]

theorem releasedStops_commandTaken : (s.commandTaken r).releasedStops r = s.releasedStops r :=
  releasedStops_congr (fun _ => rfl) (by rw [round_commandTaken]) (by rw [round_commandTaken])
    (fun _ hq => commandTaken_other s r hq)

end

section
variable {s : State} {r : Nat}

theorem takeCommand_releases (h : (s.round r).requested = some .release)
    (hstate : (s.round r).state = .loaded ∨ (s.round r).state = .closed) (hstops : (s.round r).stops ≠ []) :
    (s.takeCommand r).round r = { s.round r with
      requested := none, stops := s.releasedStops r, state := .active
      deadline := some (s.now.plusMinutes (s.round r).cfg.deadlineLen), closing := none } ∧
    (s.takeCommand r).classes = s.classes := by
  have htaken : s.takeCommand r = (s.commandTaken r).releaseRound r := by
    unfold State.takeCommand
    rw [h]
    rfl
  rw [htaken, releaseRound_released (by rw [round_commandTaken]; exact hstate) (by rw [round_commandTaken]; exact hstops),
    releasedStops_commandTaken, State.round_updRound_same, round_commandTaken]
  exact ⟨rfl, rfl⟩

theorem takeCommand_closes (h : (s.round r).requested = some .close) (hactive : (s.round r).state = .active) :
    s.takeCommand r = ((s.commandTaken r).updRound r (fun d =>
      { d with stops := setStops Stop.isPending .skipped d.stops })).leaveActive r .close := by
  have htaken : s.takeCommand r = (s.commandTaken r).takeClose r := by
    unfold State.takeCommand
    rw [h]
    rfl
  rw [htaken, State.takeClose, if_pos (by rw [round_commandTaken]; exact hactive)]

theorem takeCommand_aborts (h : (s.round r).requested = some .abort)
    (hstate : (s.round r).state = .active ∨ (s.round r).state = .closing) :
    s.takeCommand r = (((s.commandTaken r).updRound r (fun d =>
      { d with stops := setStops Stop.isOpen .skipped d.stops })).freeServices r).closeRound r := by
  have htaken : s.takeCommand r = (s.commandTaken r).takeAbort r := by
    unfold State.takeCommand
    rw [h]
    rfl
  rw [htaken, State.takeAbort, if_pos (by rw [round_commandTaken]; exact hstate)]

theorem takeCommand_passes
    (hrelease : ¬ ((s.round r).requested = some .release ∧ ((s.round r).state = .loaded ∨ (s.round r).state = .closed) ∧
      (s.round r).stops ≠ []))
    (hclose : ¬ ((s.round r).requested = some .close ∧ (s.round r).state = .active))
    (habort : ¬ ((s.round r).requested = some .abort ∧ ((s.round r).state = .active ∨ (s.round r).state = .closing))) :
    s.takeCommand r = s.commandTaken r := by
  unfold State.takeCommand
  dsimp only
  split
  next hreq =>
    refine releaseRound_refused (s := s.commandTaken r) (fun h => hrelease ⟨hreq, ?_⟩)
    rwa [round_commandTaken] at h
  next hreq =>
    refine if_neg (fun h => hclose ⟨hreq, ?_⟩)
    change ((s.commandTaken r).round r).state = .active at h
    rwa [round_commandTaken] at h
  next hreq =>
    refine if_neg (fun h => habort ⟨hreq, ?_⟩)
    change ((s.commandTaken r).round r).state = .active ∨ ((s.commandTaken r).round r).state = .closing at h
    rwa [round_commandTaken] at h
  next => rfl

/-- The service records freed of a round (R143). -/
theorem service_freeServices (hwf : s.containers.wf Container.blank = true) {c : Nat} {v : Service}
    (hservice : (s.container c).inlet.service = some v) (hround : v.round = some r) :
    ((s.freeServices r).container c).inlet.service = some { v with round := none, stop := none } := by
  have hmap : (s.freeServices r).container c = { s.container c with inlet := { (s.container c).inlet with
      service := some { v with round := none, stop := none } } } := by
    refine (Tab.get_map rfl hwf).trans ?_
    change (match (s.container c).inlet.service with | some v => _ | none => _) = _
    rw [hservice]
    exact if_pos hround
  rw [hmap]

/-! ### The check and the closing -/

/-- The stages of one round, from its command to its closing. -/
def State.tickedRound (s : State) (r : Nat) : State := ((s.takeCommand r).checkRound r).checkClosing r

theorem deadlineDue_of_state (h : (s.round r).state ≠ .active) : s.deadlineDue r = false := by
  simp [State.deadlineDue, h]

theorem deadlineDue_of_early (h : ∀ t, (s.round r).deadline = some t → t.reached s.now = false) : s.deadlineDue r = false := by
  unfold State.deadlineDue
  dsimp only
  split
  next t ht => rw [h t ht, Bool.and_false]
  next => exact Bool.and_false _

theorem check_closes (h : (s.round r).state = .active ∧ (s.round r).stops.any Stop.isOpen = false ∨
    (s.round r).state = .closing ∧ (s.round r).stops.any Stop.isServicing = false) :
    (s.checkRound r).checkClosing r = s.closeRound r := by
  obtain ⟨hactive, hdone⟩ | ⟨hclosing, hfree⟩ := h
  · have hcheck : s.checkRound r = s.closeRound r := if_pos ⟨hactive, by rw [Round.complete, hdone]; rfl⟩
    have hclosed : ((s.closeRound r).round r).state = .closed := by rw [round_closeRound, if_pos rfl]
    rw [hcheck, checkClosing_stays (by simp [hclosed])]
  · have hcheck : s.checkRound r = s := by
      unfold State.checkRound
      rw [if_neg (by simp [hclosing]), deadlineDue_of_state (by simp [hclosing])]
      rfl
    rw [hcheck]
    exact if_pos ⟨hclosing, by rw [hfree]; rfl⟩

theorem check_stays (hdue : s.deadlineDue r = false)
    (h : ¬ ((s.round r).state = .active ∧ (s.round r).stops.any Stop.isOpen = false ∨
      (s.round r).state = .closing ∧ (s.round r).stops.any Stop.isServicing = false)) :
    (s.checkRound r).checkClosing r = s := by
  obtain ⟨hactive, hclosing⟩ := not_or.mp h
  have hcheck : s.checkRound r = s := by
    unfold State.checkRound
    rw [hdue, if_neg (fun hc => hactive ⟨hc.1, by simpa [Round.complete] using hc.2⟩)]
    rfl
  rw [hcheck]
  exact if_neg (fun hc => hclosing ⟨hc.1, by simpa using hc.2⟩)

/-! ### The whole tick -/

theorem cfg_takeCommand : ((s.takeCommand r).round r).cfg = (s.round r).cfg := by
  have htaken : ((s.commandTaken r).round r).cfg = (s.round r).cfg := by rw [round_commandTaken]
  unfold State.takeCommand
  dsimp only
  split
  · refine Eq.trans ?_ htaken
    unfold State.releaseRound
    dsimp only
    split
    · rw [State.round_updRound_same]
      rfl
    · rfl
  · refine Eq.trans ?_ htaken
    unfold State.takeClose
    split
    · rw [round_leaveActive, State.round_updRound_same]
      rfl
    · rfl
  · refine Eq.trans ?_ htaken
    unfold State.takeAbort
    split
    · rw [round_closeRound, if_pos rfl]
      have hset := congrArg Round.cfg (State.round_updRound_same (s.commandTaken r) r
        (fun d => { d with stops := setStops Stop.isOpen .skipped d.stops }))
      exact hset
    · rfl
  · exact htaken

theorem check_cases (hdue : s.deadlineDue r = false) :
    (s.checkRound r).checkClosing r = s ∨ (s.checkRound r).checkClosing r = s.closeRound r := by
  by_cases h : (s.round r).state = .active ∧ (s.round r).stops.any Stop.isOpen = false ∨
    (s.round r).state = .closing ∧ (s.round r).stops.any Stop.isServicing = false
  · exact Or.inr (check_closes h)
  · exact Or.inl (check_stays hdue h)

section
variable (hdue : (s.takeCommand r).deadlineDue r = false)
include hdue

theorem cfg_tickedRound : ((s.tickedRound r).round r).cfg = (s.round r).cfg := by
  refine Eq.trans ?_ cfg_takeCommand
  obtain h | h := check_cases hdue
  · rw [State.tickedRound, h]
  · rw [State.tickedRound, h, round_closeRound, if_pos rfl]

theorem tickedRound_keeps {q : Nat} (hq : q ≠ r) : s.tickKeeps (s.tickedRound r) q := by
  refine tickKeeps_trans (tickKeeps_takeCommand hq s) ?_
  obtain h | h := check_cases hdue
  · rw [State.tickedRound, h]
    exact tickKeeps_refl _ q
  · rw [State.tickedRound, h]
    exact tickKeeps_closeRound hq _

theorem tickedRound_canonical (h : s.Canonical) : (s.tickedRound r).Canonical := by
  have hcommand : (s.takeCommand r).Canonical := small_canonical.takeCommand h r
  obtain hc | hc := check_cases hdue
  · rwa [State.tickedRound, hc]
  · rw [State.tickedRound, hc]
    exact small_canonical.toQuiet.closeRound hcommand r

end

end

theorem runTick_skip {s : State} {pre todo : List TickStage} (n : Nat) (h : ∀ g ∈ pre, s.stageIdles g) :
    State.runTick false (pre.length + n) (pre ++ todo) s = State.runTick false n todo s := by
  induction pre with
  | nil => rw [List.length_nil, Nat.zero_add, List.nil_append]
  | cons g rest ih =>
    obtain ⟨hwaits, hrun, hafter⟩ := h g (List.mem_cons_self ..)
    rw [List.length_cons, Nat.add_right_comm, List.cons_append]
    simp only [State.runTick, hwaits, hrun, hafter]
    exact ih (fun g' hg' => h g' (List.mem_cons_of_mem _ hg'))

theorem tickStages_round {r : Nat} (hr : r < 4) : ∃ pre post,
    tickStages = pre ++ .command r :: .check r :: .closing r :: .standing r :: post ∧
    tickStages.length = pre.length + (post.length + 1 + 3) ∧
    (∀ g ∈ pre, g.round ≠ r ∧ g.round < 4) ∧ ∀ g ∈ post, g.round ≠ r ∧ g.round < 4 := by
  have hcut : ∀ r, r < 4 → tickStages =
        tickStages.take (4 * r) ++ .command r :: .check r :: .closing r :: .standing r :: tickStages.drop (4 * r + 4) ∧
      tickStages.length = (tickStages.take (4 * r)).length + ((tickStages.drop (4 * r + 4)).length + 1 + 3) ∧
      (∀ g ∈ tickStages.take (4 * r), g.round ≠ r ∧ g.round < 4) ∧
      ∀ g ∈ tickStages.drop (4 * r + 4), g.round ≠ r ∧ g.round < 4 := by decide
  exact ⟨_, _, hcut r hr⟩

/-- The stages of a round from its command to its closing, whatever is left of the tick then. -/
theorem runTick_round {s : State} {r : Nat} (hdue : (s.takeCommand r).deadlineDue r = false) (n : Nat)
    (rest : List TickStage) (hrest : ∀ g ∈ rest, (s.tickedRound r).stageIdles g) :
    State.runTick false (n + 3) (.command r :: .check r :: .closing r :: rest) s = (s.tickedRound r).endTick := by
  have hfilter : ∃ left, s.stagesAfter (.command r) (.check r :: .closing r :: rest) = .check r :: .closing r :: left ∧
      ∀ g ∈ left, (s.tickedRound r).stageIdles g := by
    unfold State.stagesAfter
    dsimp only
    split
    · exact ⟨rest.filter (fun g => decide (g ≠ .standing r)), rfl, fun g hg => hrest g (List.mem_of_mem_filter hg)⟩
    · exact ⟨rest, rfl, hrest⟩
  obtain ⟨left, hafter, hleft⟩ := hfilter
  have hcheck : (s.takeCommand r).stageWaits (.check r) = false := hdue
  have hcommand : s.stageWaits (.command r) = false := rfl
  rw [← runTick_idle n hleft]
  simp only [State.runTick, hcommand, hafter, State.runStage, hcheck]
  rfl

/-- The tick in which one round alone has something to do (R140). -/
theorem beginTick_one {s : State} {r : Nat} (hr : r < 4) (hcan : s.Canonical)
    (hothers : ∀ q, q < 4 → q ≠ r → s.roundRests q) (hstanding : (s.round r).cfg.standing = false)
    (hdue : (s.takeCommand r).deadlineDue r = false) : s.beginTick = (s.tickedRound r).endTick := by
  obtain ⟨pre, post, hstages, hlength, hpre, hpost⟩ := tickStages_round hr
  have hticked : ∀ q, q < 4 → q ≠ r → (s.tickedRound r).roundRests q := fun q hq hne => by
    obtain ⟨hround, -⟩ := tickedRound_keeps hdue hne
    unfold State.roundRests
    rw [hround]
    exact hothers q hq hne
  have hleft : ∀ g ∈ .standing r :: post, (s.tickedRound r).stageIdles g := by
    intro g hg
    obtain rfl | hg := List.mem_cons.mp hg
    · exact standing_idles (by rw [cfg_tickedRound hdue]; exact hstanding)
    · obtain ⟨hne, hlt⟩ := hpost g hg
      exact stage_idles (tickedRound_canonical hdue hcan).rounds (hticked _ hlt hne)
  unfold State.beginTick
  rw [hlength, hstages]
  refine (runTick_skip _ (fun g hg => ?_)).trans ?_
  · obtain ⟨hne, hlt⟩ := hpre g hg
    exact stage_idles hcan.rounds (hothers _ hlt hne)
  exact runTick_round hdue _ _ hleft

end Sys2Proof.Machine
end

section
/-! PROOFS. The tick as the statement puts it: a deadline, a standing release, and one round's tick at a quiet minute. -/

namespace Sys2Proof.Machine

/-! ### The deadline and the standing release (R145, R147) -/

theorem check_past {r : Nat} {g : TickStage} (h : (r < g.round ∧ g.round < 4) ∨ g = .closing r ∨ g = .standing r) :
    g.past r := h.imp_left (fun hlt => hlt.1.ne')

/-- The deadline the tick waits at is taken (R145). -/
theorem deadline_taken {s : State} {r : Nat} {t : Time} (hr : r < 4) (hphase : s.part.phase = .running)
    (htodo : s.planner.tickTodo = tickStages.drop (4 * r + 1)) (hactive : (s.round r).state = .active)
    (hopen : (s.round r).stops.any Stop.isOpen = true) (hdeadline : (s.round r).deadline = some t)
    (hreached : t.reached s.now = true) : ∃ u, exec (.roundDeadlineReached r) s = .next u ∧
      ((s.tickTaken.stopsMissed r).leaveActive r .deadline).tickKeeps u r ∧
      ((∀ q, r < q → q < 4 → (s.round q).holdsOn) →
        u.classes = ((s.tickTaken.stopsMissed r).leaveActive r .deadline).classes) := by
  obtain ⟨hstages, hrest⟩ := tickStages_check r hr
  have hcheck : s.tickTaken.runStage (.check r) = (s.tickTaken.stopsMissed r).leaveActive r .deadline :=
    checkRound_due (s := s.tickTaken) hactive hopen hdeadline hreached
  have hround : (((s.tickTaken.stopsMissed r).leaveActive r .deadline).round r).state = .closing →
      (((s.tickTaken.stopsMissed r).leaveActive r .deadline).round r).stops.any Stop.isServicing = true := by
    rw [round_leaveActive]
    dsimp only
    intro hclosing
    by_contra hfree
    rw [if_neg hfree] at hclosing
    exact absurd hclosing (by decide)
  refine ⟨_, exec_roundDeadlineReached hphase r, ?_, fun hlater => ?_⟩
  · rw [takeStage_head (htodo.trans hstages), hcheck]
    exact runTick_keeps (fun g hg => check_past (hrest g hg)) hround
  · rw [takeStage_head (htodo.trans hstages), hcheck]
    refine runTick_classes (fun g hg => (hrest g hg).imp_left (fun hlt => ?_)) hround
    obtain ⟨hgt, hlt⟩ := hlt
    have hother : ((s.tickTaken.stopsMissed r).leaveActive r .deadline).round g.round = s.round g.round := by
      obtain ⟨hkept, -⟩ := tickKeeps_leaveActive (q := r) hgt.ne' (s.tickTaken.stopsMissed r) .deadline
      rw [hkept, round_stopsMissed, if_neg hgt.ne']
      rfl
    rw [hother]
    exact hlater g.round hgt hlt

/-- The standing release the tick waits at is taken (R147). -/
theorem standing_taken {s : State} {r : Nat} {t : Time} (hr : r < 4) (hphase : s.part.phase = .running)
    (htodo : s.planner.tickTodo = tickStages.drop (4 * r + 3)) (hstanding : (s.round r).cfg.standing = true)
    (hstate : (s.round r).state = .loaded ∨ (s.round r).state = .closed) (hstops : (s.round r).stops ≠ [])
    (hmoment : releaseMoment s.clock.time (s.round r).cfg.releaseTime = some t) (hlater : s.planner.prevTick.before t = true) :
    ∃ u, exec (.standingRelease r) s = .next u ∧ u.round r = { s.round r with
      stops := s.releasedStops r, state := .active
      deadline := some (s.clock.time.plusMinutes (s.round r).cfg.deadlineLen), closing := none } := by
  obtain ⟨hstages, hrest⟩ := tickStages_standing r hr
  have hreleased : s.tickTaken.runStage (.standing r) = s.tickTaken.releaseRound r :=
    if_pos (standingDue_of (s := s.tickTaken) hstanding hstate hmoment hlater)
  have hround : (s.tickTaken.releaseRound r).round r = { s.round r with
      stops := s.releasedStops r, state := .active
      deadline := some (s.clock.time.plusMinutes (s.round r).cfg.deadlineLen), closing := none } := by
    rw [releaseRound_released (s := s.tickTaken) hstate hstops, State.round_updRound_same]
    rfl
  refine ⟨_, exec_standingRelease hphase r, ?_⟩
  rw [takeStage_head (htodo.trans hstages), hreleased, ← hround]
  have hkeeps : (s.tickTaken.releaseRound r).tickKeeps (State.runTick false (tickStages.drop (4 * r + 4)).length
      (tickStages.drop (4 * r + 4)) (s.tickTaken.releaseRound r)) r :=
    runTick_keeps (fun g hg => Or.inl (hrest g hg).ne') (by rw [hround]; exact fun h => absurd h (by simp))
  exact hkeeps.1

/-! ### The minute at which one round is at work -/

/-- The state at which the tick of a minute begins. -/
def State.minuteReached (s : State) : State := s.addSecond.secondEvent.countMinute

section
variable (s : State)

theorem minuteReached_touches : ∃ w cs q, s.minuteReached =
    { s with clock := { s.clock with time := s.clock.time.next }, watch := w, classes := cs
             containers := s.minuteReached.containers, link := { s.link with notices := q } } := by
  obtain ⟨_, _, hadd⟩ := addSecond_touches s
  unfold State.minuteReached
  rw [hadd]
  exact ⟨_, _, _, rfl⟩

theorem noticeClass_minuteReached {n : Nat} (hn : n ≠ 6) : s.minuteReached.noticeClass n = s.noticeClass n :=
  noticeClass_addSecond s hn

variable {s}

theorem canonical_minuteReached (h : s.Canonical) : s.minuteReached.Canonical := by
  have hadd : s.addSecond.Canonical := by
    unfold State.addSecond
    dsimp only
    split
    · exact { h with }
    · exact small_canonical.toQuiet.rollover (s := { s with clock := { s.clock with time := s.clock.time.next } }) { h with } _
  have hsecond : s.addSecond.secondEvent.Canonical := small_canonical.secondEvent hadd
  exact { hsecond with containers := Tab.wf_map hsecond.containers }

theorem container_minuteReached (h : s.Canonical) (c : Nat) :
    s.minuteReached.container c = ((s.container c).second (s.isHeld (stationOf c))).minute := by
  obtain ⟨_, _, hadd⟩ := addSecond_touches s
  unfold State.minuteReached
  rw [hadd]
  exact (Tab.get_map rfl (Tab.wf_map h.containers)).trans
    (congrArg Container.minute (Tab.get_map (Container.second_blank _) h.containers))

theorem Container.cfg_minute (k : Container) : k.minute.cfg = k.cfg := by
  unfold Container.minute
  split <;> rfl

theorem Container.inlet_minute (k : Container) : k.minute.inlet = k.inlet := by
  unfold Container.minute
  split <;> rfl

/-- A service at the minute has counted its timers down and is else the one before. -/
theorem service_minuteReached (h : s.Canonical) {c : Nat} {v : Service} (hservice : (s.container c).inlet.service = some v) :
    ∃ v', (s.minuteReached.container c).inlet.service = some v' ∧ v'.round = v.round ∧ v'.crew = v.crew ∧
      v'.reserved = v.reserved := by
  rw [container_minuteReached h, Container.inlet_minute]
  refine ⟨_, congrArg (Option.map _) hservice, rfl, rfl, rfl⟩

end

/-- A time that a positive number of minutes leads to is not yet reached at a full minute (R26). -/
theorem plusMinutes_not_reached {now : Time} {minutes : Nat} (hminute : now.sec % 60 = 0) (hday : now.day ≤ 65535)
    (hpos : 1 ≤ minutes) (hsec : now.sec < 86400) : (now.plusMinutes minutes).reached now = false := by
  have hbefore : now.before (now.plusMinutes minutes) = true := by
    simp only [Time.before, Bool.or_eq_true, Bool.and_eq_true, decide_eq_true_eq]
    by_cases hcap : 65535 * 86400 + 86399 < now.day * 86400 + now.sec + minutes * 60
    · rw [plusMinutes_capped hcap]
      dsimp only
      omega
    · obtain ⟨hsum, hle⟩ := plusMinutes_within (t := now) (minutes := minutes) (by omega)
      omega
  rw [Time.reached, hbefore]
  rfl

theorem next_sec_lt (t : Time) : t.next.sec < 86400 := by
  unfold Time.next
  split
  · dsimp only
    omega
  · split <;> exact Nat.succ_pos _

end Sys2Proof.Machine
end

section
/-! PROOFS. What one round's tick leaves, command by command, and the statement (R139 to R147). -/

namespace Sys2Proof.Machine

section
variable {s : State} {r : Nat}

theorem now_takeCommand : (s.takeCommand r).now = s.now := by
  obtain ⟨-, -, -, -, hclock⟩ := tickKeeps_takeCommand (q := r) (r := r + 1) (by omega) s
  exact congrArg Clock.time hclock

theorem deadlineDue_takeCommand
    (hearly : ∀ t, (s.round r).state = .active → (s.round r).deadline = some t → t.reached s.now = false)
    (hnew : (s.now.plusMinutes (s.round r).cfg.deadlineLen).reached s.now = false) :
    (s.takeCommand r).deadlineDue r = false := by
  by_cases hrelease : (s.round r).requested = some .release ∧ ((s.round r).state = .loaded ∨ (s.round r).state = .closed) ∧
      (s.round r).stops ≠ []
  · obtain ⟨hreq, hstate, hstops⟩ := hrelease
    obtain ⟨hround, -⟩ := takeCommand_releases hreq hstate hstops
    refine deadlineDue_of_early (fun t ht => ?_)
    rw [hround] at ht
    rw [now_takeCommand, ← Option.some.inj ht]
    exact hnew
  by_cases hclose : (s.round r).requested = some .close ∧ (s.round r).state = .active
  · refine deadlineDue_of_state ?_
    rw [takeCommand_closes hclose.1 hclose.2, round_leaveActive]
    dsimp only
    split <;> simp
  by_cases habort : (s.round r).requested = some .abort ∧ ((s.round r).state = .active ∨ (s.round r).state = .closing)
  · refine deadlineDue_of_state ?_
    rw [takeCommand_aborts habort.1 habort.2, round_closeRound, if_pos rfl]
    simp
  · by_cases hactive : (s.round r).state = .active
    · refine deadlineDue_of_early (fun t ht => ?_)
      rw [now_takeCommand]
      rw [takeCommand_passes hrelease hclose habort, round_commandTaken] at ht
      exact hearly t hactive ht
    · refine deadlineDue_of_state ?_
      rw [takeCommand_passes hrelease hclose habort, round_commandTaken]
      exact hactive

/-- A released stop is open when it is PENDING. -/
theorem open_releasedStops : (s.releasedStops r).any Stop.isOpen = (s.releasedStops r).any Stop.isPending := by
  unfold State.releasedStops
  rw [List.any_map, List.any_map]
  congr 1
  funext p
  simp only [Function.comp, State.releaseStop, Stop.isOpen, Stop.isPending, Stop.isServicing]
  split <;> rfl

section
variable (hdue : (s.takeCommand r).deadlineDue r = false)
include hdue

theorem ticked_release (hreq : (s.round r).requested = some .release)
    (hstate : (s.round r).state = .loaded ∨ (s.round r).state = .closed) (hstops : (s.round r).stops ≠ []) :
    ((s.releasedStops r).any Stop.isPending = true →
      (s.tickedRound r).round r = { s.round r with
        requested := none, stops := s.releasedStops r, state := .active
        deadline := some (s.now.plusMinutes (s.round r).cfg.deadlineLen), closing := none } ∧
      (s.tickedRound r).classes = s.classes) ∧
    ((s.releasedStops r).any Stop.isPending = false →
      (s.tickedRound r).round r = { s.round r with
        requested := none, stops := s.releasedStops r, state := .closed
        deadline := some (s.now.plusMinutes (s.round r).cfg.deadlineLen), closing := none } ∧
      (s.tickedRound r).told 17 (some r) ((s.releasedStops r).filter (fun p => p.state == some .done)).length) := by
  obtain ⟨hround, hclasses⟩ := takeCommand_releases hreq hstate hstops
  refine ⟨fun hpending => ?_, fun hnone => ?_⟩
  · have hstay : s.tickedRound r = s.takeCommand r := by
      refine check_stays hdue ?_
      rw [hround, open_releasedStops, hpending]
      simp
    rw [hstay]
    exact ⟨hround, hclasses⟩
  · have hclose : s.tickedRound r = (s.takeCommand r).closeRound r := by
      refine check_closes (Or.inl ?_)
      rw [hround]
      exact ⟨rfl, open_releasedStops.trans hnone⟩
    have htold := told_closeRound (s.takeCommand r) r
    rw [Round.doneCount, hround] at htold
    rw [hclose, round_closeRound, if_pos rfl, hround]
    exact ⟨rfl, htold⟩

theorem ticked_close (hreq : (s.round r).requested = some .close) (hactive : (s.round r).state = .active) :
    ((s.round r).stops.any Stop.isServicing = true →
      (s.tickedRound r).round r = { s.round r with
        requested := none, stops := setStops Stop.isPending .skipped (s.round r).stops, state := .closing
        closing := some .close } ∧
      (s.tickedRound r).classes = s.classes) ∧
    ((s.round r).stops.any Stop.isServicing = false →
      (s.tickedRound r).round r = { s.round r with
        requested := none, stops := setStops Stop.isPending .skipped (s.round r).stops, state := .closed
        closing := none } ∧
      (s.tickedRound r).told 17 (some r)
        ((setStops Stop.isPending .skipped (s.round r).stops).filter (fun p => p.state == some .done)).length) := by
  have hcommand := takeCommand_closes hreq hactive
  have hskipped : ((s.commandTaken r).updRound r (fun d =>
      { d with stops := setStops Stop.isPending .skipped d.stops })).round r = { s.round r with
        requested := none, stops := setStops Stop.isPending .skipped (s.round r).stops } := by
    rw [State.round_updRound_same, round_commandTaken]
  have hservicing := servicing_of_pendingSet (st := .skipped) (by decide) (s.round r).stops
  refine ⟨fun hbusy => ?_, fun hfree => ?_⟩
  · rw [leaveActive_busy (by rw [hskipped]; exact hservicing.trans hbusy)] at hcommand
    have hround : (s.takeCommand r).round r = { s.round r with
        requested := none, stops := setStops Stop.isPending .skipped (s.round r).stops, state := .closing
        closing := some .close } := by
      rw [hcommand, State.round_updRound_same, hskipped]
    have hstay : s.tickedRound r = s.takeCommand r := by
      refine check_stays hdue ?_
      rw [hround, hservicing, hbusy]
      simp
    refine ⟨by rw [hstay, hround], ?_⟩
    rw [hstay, hcommand]
    rfl
  · rw [leaveActive_free (by rw [hskipped]; exact hservicing.trans hfree)] at hcommand
    have hround : (s.takeCommand r).round r = { s.round r with
        requested := none, stops := setStops Stop.isPending .skipped (s.round r).stops, state := .closed
        closing := none } := by
      rw [hcommand, round_closeRound, if_pos rfl, hskipped]
    have hstay : s.tickedRound r = s.takeCommand r := by
      refine check_stays hdue ?_
      rw [hround]
      simp
    have htold := told_closeRound ((s.commandTaken r).updRound r (fun d =>
      { d with stops := setStops Stop.isPending .skipped d.stops })) r
    rw [Round.doneCount, hskipped] at htold
    refine ⟨by rw [hstay, hround], ?_⟩
    rw [hstay, hcommand]
    exact htold

theorem ticked_abort (hreq : (s.round r).requested = some .abort)
    (hstate : (s.round r).state = .active ∨ (s.round r).state = .closing) :
    (s.tickedRound r).round r = { s.round r with
      requested := none, stops := setStops Stop.isOpen .skipped (s.round r).stops, state := .closed, closing := none } ∧
    (s.tickedRound r).told 17 (some r)
      ((setStops Stop.isOpen .skipped (s.round r).stops).filter (fun p => p.state == some .done)).length ∧
    (s.tickedRound r).containers = (s.freeServices r).containers := by
  have hcommand := takeCommand_aborts hreq hstate
  have hskipped : (((s.commandTaken r).updRound r (fun d =>
      { d with stops := setStops Stop.isOpen .skipped d.stops })).freeServices r).round r = { s.round r with
        requested := none, stops := setStops Stop.isOpen .skipped (s.round r).stops } := by
    have hset := State.round_updRound_same (s.commandTaken r) r
      (fun d => { d with stops := setStops Stop.isOpen .skipped d.stops })
    rw [round_commandTaken] at hset
    exact hset
  have hstay : s.tickedRound r = s.takeCommand r := by
    refine check_stays hdue ?_
    rw [hcommand, round_closeRound, if_pos rfl]
    simp
  have htold := told_closeRound (((s.commandTaken r).updRound r (fun d =>
      { d with stops := setStops Stop.isOpen .skipped d.stops })).freeServices r) r
  rw [Round.doneCount, hskipped] at htold
  obtain ⟨_, _, _, htouches⟩ := closeRound_touches (((s.commandTaken r).updRound r (fun d =>
      { d with stops := setStops Stop.isOpen .skipped d.stops })).freeServices r) r
  rw [hstay, hcommand]
  refine ⟨by rw [round_closeRound, if_pos rfl, hskipped], htold, ?_⟩
  rw [htouches]
  rfl

theorem ticked_pass
    (hrelease : ¬ ((s.round r).requested = some .release ∧ ((s.round r).state = .loaded ∨ (s.round r).state = .closed) ∧
      (s.round r).stops ≠ []))
    (hclose : ¬ ((s.round r).requested = some .close ∧ (s.round r).state = .active))
    (habort : ¬ ((s.round r).requested = some .abort ∧ ((s.round r).state = .active ∨ (s.round r).state = .closing))) :
    ((s.round r).state = .active ∧ (s.round r).stops.any Stop.isOpen = false ∨
        (s.round r).state = .closing ∧ (s.round r).stops.any Stop.isServicing = false →
      (s.tickedRound r).round r = { s.round r with state := .closed, requested := none, closing := none } ∧
      (s.tickedRound r).told 17 (some r) ((s.round r).stops.filter (fun p => p.state == some .done)).length) ∧
    (¬ ((s.round r).state = .active ∧ (s.round r).stops.any Stop.isOpen = false ∨
        (s.round r).state = .closing ∧ (s.round r).stops.any Stop.isServicing = false) →
      (s.tickedRound r).round r = { s.round r with requested := none } ∧ (s.tickedRound r).classes = s.classes) := by
  have hcommand := takeCommand_passes hrelease hclose habort
  refine ⟨fun h => ?_, fun h => ?_⟩
  · have hcloses : s.tickedRound r = (s.takeCommand r).closeRound r := by
      refine check_closes ?_
      rw [hcommand, round_commandTaken]
      exact h
    have htold := told_closeRound (s.commandTaken r) r
    rw [Round.doneCount, round_commandTaken] at htold
    rw [hcloses, hcommand, round_closeRound, if_pos rfl, round_commandTaken]
    exact ⟨rfl, htold⟩
  · have hstay : s.tickedRound r = s.takeCommand r := by
      refine check_stays hdue ?_
      rw [hcommand, round_commandTaken]
      exact h
    rw [hstay, hcommand]
    exact ⟨round_commandTaken s r, rfl⟩

end

end

end Sys2Proof.Machine
end

section
/-! PROOFS. The planner's tick: the statement (R26, R139 to R147). -/

namespace Sys2Proof.Machine

/-- The deadline's clause: the stops MISSED, then the round leaves ACTIVE, and the rest of the tick keeps it. -/
theorem deadline_leaves {s : State} {r : Nat} {t : Time} (hr : r < 4) (hphase : s.part.phase = .running)
    (htodo : s.planner.tickTodo = tickStages.drop (4 * r + 1)) (hactive : (s.round r).state = .active)
    (hopen : (s.round r).stops.any Stop.isOpen = true) (hdeadline : (s.round r).deadline = some t)
    (hreached : t.reached s.now = true) : ∃ u, exec (.roundDeadlineReached r) s = .next u ∧
      u.round r = { s.round r with
        stops := setStops Stop.isPending .missed (s.round r).stops
        state := if (s.round r).stops.any Stop.isServicing then .closing else .closed
        closing := if (s.round r).stops.any Stop.isServicing then some .deadline else none } ∧
      (∀ c, ((s.tickTaken.stopsMissed r).container c).missed = true → (u.container c).missed = true) ∧
      u.noticeClass 18 = (s.tickTaken.stopsMissed r).noticeClass 18 ∧
      ((s.round r).stops.any Stop.isServicing = false → (u.noticeClass 17).flag = true) ∧
      ((∀ q, r < q → q < 4 → (s.round q).holdsOn) →
        ((s.round r).stops.any Stop.isServicing = false → u.told 17 (some r)
          ((setStops Stop.isPending .missed (s.round r).stops).filter (fun p => p.state == some .done)).length) ∧
        ((s.round r).stops.any Stop.isServicing = true → u.noticeClass 17 = s.noticeClass 17)) ∧
      u.clock = s.clock := by
  obtain ⟨u, hexec, ⟨hround, hmissed, hstops, hflag, hclock⟩, hclasses⟩ :=
    deadline_taken hr hphase htodo hactive hopen hdeadline hreached
  have hbusy : ((s.tickTaken.stopsMissed r).round r).stops.any Stop.isServicing = (s.round r).stops.any Stop.isServicing :=
    busy_stopsMissed s.tickTaken r
  have hset : (s.tickTaken.stopsMissed r).round r =
      { s.round r with stops := setStops Stop.isPending .missed (s.round r).stops } :=
    (round_stopsMissed s.tickTaken r r).trans (if_pos rfl)
  obtain ⟨_, _, _, hleave⟩ := leaveActive_touches (s := s.tickTaken.stopsMissed r) (r := r) .deadline
  have htold : (s.round r).stops.any Stop.isServicing = false →
      ((s.tickTaken.stopsMissed r).leaveActive r .deadline).told 17 (some r)
        ((setStops Stop.isPending .missed (s.round r).stops).filter (fun p => p.state == some .done)).length := fun hfree => by
    have hclosed := told_closeRound (s.tickTaken.stopsMissed r) r
    rw [Round.doneCount, hset] at hclosed
    rw [leaveActive_free (hbusy.trans hfree)]
    exact hclosed
  refine ⟨u, hexec, ?_, fun c hc => hmissed c ?_, hstops.trans (noticeClass_leaveActive .deadline (by decide)),
    fun hfree => hflag (htold hfree).1, fun hlater => ⟨fun hfree => told_congr (htold hfree) (hclasses hlater), fun hserving => ?_⟩,
    hclock.trans ?_⟩
  · rw [hround, round_leaveActive, hbusy, hset]
  · rw [hleave]
    exact hc
  · rw [State.noticeClass_congr (hclasses hlater), leaveActive_busy (hbusy.trans hserving)]
    exact noticeClass_stopsMissed s.tickTaken r (by decide)
  · rw [hleave]
    exact clock_stopsMissed s.tickTaken r

/-- A stop that a passed deadline makes MISSED was not DONE. -/
theorem done_setMissed (stops : List Stop) :
    ((setStops Stop.isPending .missed stops).filter (fun p => p.state == some .done)).length =
      (stops.filter (fun p => p.state == some .done)).length := by
  unfold setStops
  rw [List.filter_map, List.length_map]
  congr 2
  funext p
  simp only [Function.comp, Stop.isPending]
  by_cases hp : p.state = some .pending
  · simp [hp]
  · simp [hp]

/-- What the tick of one round alone leaves at a quiet minute (R140). -/
theorem minute_leaves {s : State} {r : Nat} (hr : r < 4) (hphase : s.part.phase = .running) (hcan : s.canonical = true)
    (hquiet : s.nothingDue) (hnone : s.clock.pending = none) (hminute : s.clock.time.next.sec % 60 = 0)
    (hstanding : (s.round r).cfg.standing = false) (hothers : ∀ q, q < 4 → q ≠ r → s.roundRests q)
    (hdue : (s.minuteReached.takeCommand r).deadlineDue r = false) :
    exec .clockAdvance s = .next (s.minuteReached.tickedRound r).endTick ∧
      (s.minuteReached.tickedRound r).now = s.clock.time.next ∧
      ∀ q, q ≠ r → (s.minuteReached.tickedRound r).round q = s.round q := by
  obtain ⟨_, _, _, htouches⟩ := minuteReached_touches s
  have hround : ∀ q, s.minuteReached.round q = s.round q := fun q => State.round_congr (by rw [htouches]) q
  have hv := canonical_minuteReached ((State.canonical_iff s).mp hcan)
  refine ⟨?_, ?_, fun q hq => ?_⟩
  · have htick := beginTick_one hr hv (fun q hq hne => by
      unfold State.roundRests
      rw [hround]
      exact hothers q hq hne) (by rw [hround]; exact hstanding) hdue
    rw [exec_clockAdvance hphase, advanceRunning_quiet hquiet hnone, if_pos hminute, minuteEvent_eq]
    exact congrArg Host.Outcome.next htick
  · obtain ⟨-, -, -, -, hclock⟩ := tickedRound_keeps hdue (q := r + 1) (by omega)
    refine (congrArg Clock.time hclock).trans ?_
    rw [htouches]
  · obtain ⟨hkept, -⟩ := tickedRound_keeps hdue hq
    exact hkept.trans (hround q)

/-- What the tick reads of the state at the minute, as the state before the minute has it. -/
theorem minute_reads {s : State} (h : s.Canonical) (r : Nat) : (∀ q, s.minuteReached.round q = s.round q) ∧
    s.minuteReached.now = s.clock.time.next ∧ s.minuteReached.noticeClass 17 = s.noticeClass 17 ∧
    s.minuteReached.releasedStops r = s.releasedStops r := by
  obtain ⟨_, _, _, htouches⟩ := minuteReached_touches s
  have hround : ∀ q, s.minuteReached.round q = s.round q := fun q => State.round_congr (by rw [htouches]) q
  have hcfg : ∀ c, (s.minuteReached.container c).cfg = (s.container c).cfg := fun c => by
    rw [container_minuteReached h, Container.cfg_minute]
    rfl
  refine ⟨hround, ?_, noticeClass_minuteReached s (by decide),
    releasedStops_congr hcfg (by rw [hround]) (by rw [hround]) (fun q _ => hround q)⟩
  rw [htouches]
  rfl

section
variable {s : State} {r : Nat} (hcan : s.Canonical) (hdue : (s.minuteReached.takeCommand r).deadlineDue r = false)
include hcan hdue

theorem minute_release (hreq : (s.round r).requested = some .release)
    (hstate : (s.round r).state = .loaded ∨ (s.round r).state = .closed) (hstops : (s.round r).stops ≠ []) :
    ((s.releasedStops r).any Stop.isPending = true →
      (s.minuteReached.tickedRound r).round r = { s.round r with
        requested := none, stops := s.releasedStops r, state := .active
        deadline := some (s.clock.time.next.plusMinutes (s.round r).cfg.deadlineLen), closing := none } ∧
      (s.minuteReached.tickedRound r).noticeClass 17 = s.noticeClass 17) ∧
    ((s.releasedStops r).any Stop.isPending = false →
      (s.minuteReached.tickedRound r).round r = { s.round r with
        requested := none, stops := s.releasedStops r, state := .closed
        deadline := some (s.clock.time.next.plusMinutes (s.round r).cfg.deadlineLen), closing := none } ∧
      (s.minuteReached.tickedRound r).told 17 (some r)
        ((s.releasedStops r).filter (fun p => p.state == some .done)).length) := by
  obtain ⟨hround, hnow, hclosed, hreleased⟩ := minute_reads hcan r
  have htick := ticked_release hdue (by rw [hround]; exact hreq) (by rw [hround]; exact hstate)
    (by rw [hround]; exact hstops)
  rw [hround, hnow, hreleased] at htick
  obtain ⟨hstays, hcloses⟩ := htick
  refine ⟨fun hpending => ?_, hcloses⟩
  obtain ⟨hleft, hclasses⟩ := hstays hpending
  exact ⟨hleft, (State.noticeClass_congr hclasses 17).trans hclosed⟩

theorem minute_close (hreq : (s.round r).requested = some .close) (hactive : (s.round r).state = .active) :
    ((s.round r).stops.any Stop.isServicing = true →
      (s.minuteReached.tickedRound r).round r = { s.round r with
        requested := none, stops := setStops Stop.isPending .skipped (s.round r).stops, state := .closing
        closing := some .close } ∧
      (s.minuteReached.tickedRound r).noticeClass 17 = s.noticeClass 17) ∧
    ((s.round r).stops.any Stop.isServicing = false →
      (s.minuteReached.tickedRound r).round r = { s.round r with
        requested := none, stops := setStops Stop.isPending .skipped (s.round r).stops, state := .closed
        closing := none } ∧
      (s.minuteReached.tickedRound r).told 17 (some r)
        ((setStops Stop.isPending .skipped (s.round r).stops).filter (fun p => p.state == some .done)).length) := by
  obtain ⟨hround, -, hclosed, -⟩ := minute_reads hcan r
  have htick := ticked_close hdue (by rw [hround]; exact hreq) (by rw [hround]; exact hactive)
  rw [hround] at htick
  obtain ⟨hstays, hcloses⟩ := htick
  refine ⟨fun hbusy => ?_, hcloses⟩
  obtain ⟨hleft, hclasses⟩ := hstays hbusy
  exact ⟨hleft, (State.noticeClass_congr hclasses 17).trans hclosed⟩

theorem minute_abort (hreq : (s.round r).requested = some .abort)
    (hstate : (s.round r).state = .active ∨ (s.round r).state = .closing) :
    ((s.minuteReached.tickedRound r).round r = { s.round r with
        requested := none, stops := setStops Stop.isOpen .skipped (s.round r).stops, state := .closed, closing := none } ∧
      (s.minuteReached.tickedRound r).told 17 (some r)
        ((setStops Stop.isOpen .skipped (s.round r).stops).filter (fun p => p.state == some .done)).length) ∧
    ∀ c v, (s.container c).inlet.service = some v → v.round = some r →
      ∃ v', ((s.minuteReached.tickedRound r).container c).inlet.service = some v' ∧ v'.round = none ∧ v'.stop = none ∧
        v'.crew = v.crew ∧ v'.reserved = v.reserved := by
  obtain ⟨hround, -⟩ := minute_reads hcan r
  have htick := ticked_abort hdue (by rw [hround]; exact hreq) (by rw [hround]; exact hstate)
  rw [hround] at htick
  obtain ⟨hleft, htold, hfreed⟩ := htick
  refine ⟨⟨hleft, htold⟩, fun c v hservice hplace => ?_⟩
  obtain ⟨v', hservice', hplace', hcrew, hreserved⟩ := service_minuteReached hcan hservice
  refine ⟨{ v' with round := none, stop := none }, ?_, rfl, rfl, hcrew, hreserved⟩
  have hfree := service_freeServices (canonical_minuteReached hcan).containers hservice' (hplace'.trans hplace)
  rwa [← State.container_congr hfreed c] at hfree

theorem minute_pass
    (hrelease : ¬ ((s.round r).requested = some .release ∧ ((s.round r).state = .loaded ∨ (s.round r).state = .closed) ∧
      (s.round r).stops ≠ []))
    (hclose : ¬ ((s.round r).requested = some .close ∧ (s.round r).state = .active))
    (habort : ¬ ((s.round r).requested = some .abort ∧ ((s.round r).state = .active ∨ (s.round r).state = .closing))) :
    ((s.round r).state = .active ∧ (s.round r).stops.any Stop.isOpen = false ∨
        (s.round r).state = .closing ∧ (s.round r).stops.any Stop.isServicing = false →
      (s.minuteReached.tickedRound r).round r = { s.round r with state := .closed, requested := none, closing := none } ∧
      (s.minuteReached.tickedRound r).told 17 (some r)
        ((s.round r).stops.filter (fun p => p.state == some .done)).length) ∧
    (¬ ((s.round r).state = .active ∧ (s.round r).stops.any Stop.isOpen = false ∨
        (s.round r).state = .closing ∧ (s.round r).stops.any Stop.isServicing = false) →
      (s.minuteReached.tickedRound r).round r = { s.round r with requested := none } ∧
      (s.minuteReached.tickedRound r).noticeClass 17 = s.noticeClass 17) := by
  obtain ⟨hround, -, hclosed, -⟩ := minute_reads hcan r
  have htick := ticked_pass hdue (by rw [hround]; exact hrelease) (by rw [hround]; exact hclose)
    (by rw [hround]; exact habort)
  rw [hround] at htick
  obtain ⟨hcloses, hstays⟩ := htick
  refine ⟨hcloses, fun h => ?_⟩
  obtain ⟨hleft, hclasses⟩ := hstays h
  exact ⟨hleft, (State.noticeClass_congr hclasses 17).trans hclosed⟩

end

/-- Settles O50: by the stage at which the tick waits, and by the tick of one round. -/
theorem theTickTakesDeadlinesAndStandingReleases : Obligations.TheTickTakesDeadlinesAndStandingReleases := by
  refine ⟨fun s r t hr hphase htodo => ?_, fun s r t hr hphase htodo => ?_, fun now release => releaseMoment_cases now release,
    fun t minutes => ⟨plusMinutes_within, plusMinutes_capped⟩, fun s r hr hphase hcan hquiet hnone => ?_⟩
  · intro d hactive hdeadline hsum ht hnow hopen busy
    obtain ⟨u, hexec, hround, hmissed, hstops, hflag, hclosed, hclock⟩ :=
      deadline_leaves hr hphase htodo hactive hopen hdeadline (reached_of_seconds hsum ht hnow)
    rw [setStops_eq] at hround
    rw [done_setMissed] at hclosed
    refine ⟨u, hexec, hround, fun p hp hpending => hmissed _ (missed_stopsMissed s.tickTaken r hp hpending), fun hpending => ?_,
      fun before p after hcut hpending hlast =>
        told_of_noticeClass (told_stopsMissed s.tickTaken r hcut hpending hlast) hstops,
      fun hpending => hstops.trans (noticeClass_stopsMissed_none s.tickTaken r hpending), hflag, hclosed, hclock⟩
    obtain ⟨before, p, after, hcut, hp, hlast⟩ := last_pending hpending
    exact (told_of_noticeClass (told_stopsMissed s.tickTaken r hcut hp hlast) hstops).1
  · intro d hstanding hstate hstops hmoment hlater
    obtain ⟨u, hexec, hround⟩ := standing_taken hr hphase htodo hstanding hstate hstops hmoment hlater
    refine ⟨u, hexec, hround.trans ?_⟩
    rw [State.releasedStops, funext (fun p => releaseStop_eq (s := s) (r := r) p)]
  · intro now d hminute hday hlen hstanding hearly hothers
    have hv := (State.canonical_iff s).mp hcan
    obtain ⟨hround, hnow, -⟩ := minute_reads hv r
    have hdue : (s.minuteReached.takeCommand r).deadlineDue r = false := by
      refine deadlineDue_takeCommand ?_ ?_
      · rw [hround, hnow]
        exact fun t hactive ht => hearly t hactive ht
      · rw [hround, hnow]
        exact plusMinutes_not_reached hminute hday hlen (next_sec_lt _)
    obtain ⟨hexec, hthen, hkept⟩ := minute_leaves hr hphase hcan hquiet hnone hminute hstanding hothers hdue
    have hrelease := minute_release hv hdue
    have hclose := minute_close hv hdue
    have habort := minute_abort hv hdue
    have hpass := minute_pass hv hdue
    generalize s.minuteReached.tickedRound r = w at hexec hthen hkept hrelease hclose habort hpass
    refine ⟨w.endTick, hexec, hthen, rfl, hkept, ?_⟩
    intro released skipped releases closes aborts closed stays dated
    have hstops : s.releasedStops r = released := by
      rw [State.releasedStops, funext (fun p => releaseStop_eq (s := s) (r := r) p)]
    rw [hstops] at hrelease
    exact ⟨fun ⟨hreq, hstate, hlist⟩ => hrelease hreq hstate hlist, fun ⟨hreq, hactive⟩ => hclose hreq hactive,
      fun ⟨hreq, hstate⟩ => habort hreq hstate, fun hnr hnc hna => hpass hnr hnc hna⟩

end Sys2Proof.Machine
end

section
/-! PROOFS. The record writes of a table: parameters, card, household, fraction, round and shape, and the rules across records
(R27, R36, R51, R83, R136, R182). -/

namespace Sys2Proof.Machine

/-! ### The rules across records -/

theorem crossOk_container (s : State) (i : Nat) (p : ContainerCfg) : s.crossOk i (.container p) = true ↔
    p.present = true → i % 4 + 1 ≤ (s.station (i / 4)).cfg.slotCount := by
  show (!p.present || decide (i % 4 + 1 ≤ (s.station (i / 4)).cfg.slotCount)) = true ↔ _
  cases p.present <;> simp

theorem crossOk_station (s : State) (i : Nat) (p : StationCfg) : s.crossOk i (.station p) = true ↔
    ∀ c ∈ containersOf i, (s.container c).cfg.present = true → c % 4 + 1 ≤ p.slotCount := by
  unfold State.crossOk
  rw [List.all_eq_true]
  refine forall_congr' fun c => forall_congr' fun _ => ?_
  show (!(s.container c).cfg.present || decide (c % 4 + 1 ≤ p.slotCount)) = true ↔ _
  cases (s.container c).cfg.present <;> simp

/-! ### Records whose write is their replacement -/

/-- Changed N or A derive the period number again (R27). -/
theorem writeParams_eq (s : State) (p : Params) : s.writeParams p =
    if p.periodLength = s.params.periodLength ∧ p.anchorDay = s.params.anchorDay ∨
        State.period { s with params := p } = s.period then { s with params := p }
    else State.raise { s with params := p } .periodRollover (some (State.period { s with params := p })) s.period := by
  unfold State.writeParams State.rollover
  dsimp only
  by_cases hsame : p.periodLength = s.params.periodLength ∧ p.anchorDay = s.params.anchorDay
  · rw [if_pos hsame, if_pos (Or.inl hsame)]
  · rw [if_neg hsame]
    by_cases hperiod : State.period { s with params := p } = s.period
    · rw [if_pos hperiod, if_pos (Or.inr hperiod)]
    · rw [if_neg hperiod, if_neg (not_or.mpr ⟨hsame, hperiod⟩)]

theorem updCard_leaves (s : State) (i : Nat) (f : Card → Card) : { s.updCard i f with cards := s.cards } = s ∧
    (s.updCard i f).card i = f (s.card i) ∧ ∀ j, j ≠ i → (s.updCard i f).card j = s.card j :=
  ⟨rfl, by rw [State.card_updCard, if_pos rfl], fun j hj => by rw [State.card_updCard, if_neg hj]⟩

theorem updHousehold_leaves (s : State) (h : Nat) (f : Household → Household) :
    { s.updHousehold h f with households := s.households } = s ∧ (s.updHousehold h f).household h = f (s.household h) ∧
      ∀ j, j ≠ h → (s.updHousehold h f).household j = s.household j :=
  ⟨rfl, by rw [State.household_updHousehold, if_pos rfl], fun j hj => by rw [State.household_updHousehold, if_neg hj]⟩

theorem Fraction.code_injective {f g : Fraction} (h : f.code = g.code) : f = g := by
  cases f <;> cases g <;> simp [Fraction.code] at h ⊢

theorem writeFraction_leaves (s : State) (f : Fraction) (p : FractionRec) :
    { s.writeRecordOf f.code (.fraction p) with fractions := s.fractions } = s ∧
      (s.writeRecordOf f.code (.fraction p)).fraction f = p ∧
      ∀ g, g ≠ f → (s.writeRecordOf f.code (.fraction p)).fraction g = s.fraction g :=
  ⟨rfl, Tab.get_set_same, fun _ hg => Tab.get_set_other (fun h => hg (Fraction.code_injective h))⟩

theorem writeRound_leaves (s : State) (r : Nat) (p : RoundCfg) (cs : List Nat) :
    { s.writeRound r p cs with rounds := s.rounds } = s ∧ (∀ q, q ≠ r → (s.writeRound r p cs).round q = s.round q) ∧
      (s.writeRound r p cs).round r = {
        cfg := p
        stops := cs.map (fun c => { container := c, state := none, origin := .planned, doneTime := none })
        state := if cs = [] then .free else .loaded
        requested := (s.round r).requested, deadline := none, closing := none } :=
  ⟨rfl, fun q hq => by rw [State.writeRound, State.round_updRound, if_neg hq],
    by rw [State.writeRound, State.round_updRound_same]; rfl⟩

/-! ### A shape (R83) -/

/-- A container whose estimate is made unknown (R82). -/
def Container.madeUnknown (k : Container) : Container :=
  { k with fill := { k.fill with
      estimate := none, risePending := false, status := .unknown, fullCount := 0
      request := if k.live = true ∧ k.fill.request = .idle then (if k.inlet.waits then .deferred else .pending)
        else k.fill.request } }

theorem container_madeUnknown (s : State) (c d : Nat) : (s.makeUnknown c).container d =
    if d = c then (s.container c).madeUnknown else s.container d := by
  have hrequest : (if (s.container c).live then (s.container c).fill.request.due (s.container c).inlet.state
      else (s.container c).fill.request) =
      if (s.container c).live = true ∧ (s.container c).fill.request = .idle then
        (if (s.container c).inlet.waits then .deferred else .pending)
      else (s.container c).fill.request := by
    rw [due_eq]
    cases (s.container c).live with
    | true => simp
    | false => simp
  rw [container_makeUnknown, hrequest]
  rfl

/-- A container when a shape has changed: E is unknown where a present container names it. -/
def Container.reshaped (i : Nat) (k : Container) : Container :=
  if k.cfg.present = true ∧ k.cfg.shape = i then k.madeUnknown else k

/-- One container of the shape's write. -/
def State.reshape (i : Nat) (s : State) (c : Nat) : State :=
  if s.present c && decide ((s.container c).cfg.shape = i) then s.makeUnknown c else s

theorem container_reshape (i : Nat) (s : State) (c d : Nat) : (s.reshape i c).container d =
    if d = c then (s.container c).reshaped i else s.container d := by
  have hcond : (s.present c && decide ((s.container c).cfg.shape = i)) = true ↔
      (s.container c).cfg.present = true ∧ (s.container c).cfg.shape = i := by
    rw [Bool.and_eq_true, decide_eq_true_iff]
    rfl
  unfold State.reshape Container.reshaped
  by_cases h : (s.container c).cfg.present = true ∧ (s.container c).cfg.shape = i
  · rw [if_pos (hcond.mpr h), if_pos h, container_madeUnknown]
  · rw [if_neg (mt hcond.mp h), if_neg h]
    split
    next hd => rw [hd]
    next => rfl

theorem reshape_touches (i : Nat) (s : State) (l : List Nat) : ∃ ks p, l.foldl (fun t c => t.reshape i c) s =
    { s with containers := ks, planner := p } := by
  induction l generalizing s with
  | nil => exact ⟨_, _, rfl⟩
  | cons c l ih =>
    have hstep : ∃ ks p, s.reshape i c = { s with containers := ks, planner := p } := by
      unfold State.reshape
      split
      · exact makeUnknown_touches s c
      · exact ⟨_, _, rfl⟩
    obtain ⟨_, _, hstep⟩ := hstep
    obtain ⟨_, _, hrest⟩ := ih (s.reshape i c)
    rw [List.foldl_cons, hrest, hstep]
    exact ⟨_, _, rfl⟩

/-- The shape's table written. -/
def State.withShape (s : State) (i : Nat) (p : Shape) : State := { s with shapes := Tab.set Shape.blank s.shapes i p }

theorem writeShape_same {s : State} {i : Nat} {p : Shape} (h : s.shape i = p) : s.writeShape i p = s.withShape i p := if_pos h

theorem writeShape_changed {s : State} {i : Nat} {p : Shape} (h : s.shape i ≠ p) : s.writeShape i p =
    (List.range 128).foldl (fun t c => t.reshape i c) (s.withShape i p) := if_neg h

theorem writeShape_touches (s : State) (i : Nat) (p : Shape) :
    { s.writeShape i p with containers := s.containers, planner := s.planner } = s.withShape i p := by
  by_cases h : s.shape i = p
  · rw [writeShape_same h]
    rfl
  · obtain ⟨_, _, htouches⟩ := reshape_touches i (s.withShape i p) (List.range 128)
    rw [writeShape_changed h, htouches]
    rfl

theorem container_writeShape (s : State) (i : Nat) (p : Shape) (c : Nat) : (s.writeShape i p).container c =
    if s.shape i ≠ p ∧ c < 128 then (s.container c).reshaped i else s.container c := by
  by_cases h : s.shape i = p
  · rw [writeShape_same h, if_neg (fun hc => hc.1 h)]
    rfl
  · have hfold := foldl_at_containers (p := fun k => k) (g := Container.reshaped i) (f := fun t c => t.reshape i c)
      (l := List.range 128)
      (fun s c d => container_reshape i s c d) List.nodup_range (s.withShape i p) c
    rw [writeShape_changed h, hfold]
    simp only [List.mem_range, h, ne_eq, not_false_eq_true, true_and]
    rfl

end Sys2Proof.Machine
end

section
/-! PROOFS. A station disabled and enabled by a write of its record (R15, R16, R108, R109). -/

namespace Sys2Proof.Machine

/-! ### A reason at an inlet of a DISABLED station -/

/-- The two lines stand. -/
def State.linesKept (s t : State) : Prop := t.lineA = s.lineA ∧ t.lineB = s.lineB

theorem line_of_linesKept {s t : State} (h : s.linesKept t) (l : Line) : t.line l = s.line l := by
  obtain ⟨ha, hb⟩ := h
  cases l
  · exact ha
  · exact hb

/-- A DISABLED station asks for no turn (R17). -/
theorem requestTurn_disabled {s : State} {i : Nat} (h : (s.station i).state = .disabled) : s.requestTurn i = s := if_pos h

theorem lockClosed_disabled {s : State} {c : Nat} (h : (s.station (stationOf c)).state = .disabled) :
    s.linesKept (s.lockClosed c) := by
  unfold State.lockClosed State.setCommand
  rw [requestTurn_disabled (by exact h)]
  exact ⟨rfl, rfl⟩

section
variable {r : BarReason} (hends : r.endsWork = true)
include hends

/-- The branches of a reason that bars from any state. -/
theorem addBar_branches (s : State) (c : Nat) : s.addBar c r = s ∨ (∃ k, s.addBar c r = { s with containers := k }) ∨
    s.addBar c r = (((s.putBar c r true).dropGrant c).setInlet c .barred).lockClosed c ∨
    s.addBar c r = (s.putBar c r true).crewLost c r.workEnd := by
  cases hhas : (s.container c).inlet.bars.has r with
  | true => exact Or.inl (addBar_of_has hhas)
  | false =>
    cases hs : (s.container c).inlet.state with
    | locked => exact Or.inr (Or.inl ⟨_, addBar_of_locked hhas hs⟩)
    | barred => exact Or.inr (Or.inl ⟨_, addBar_of_barred hhas hs⟩)
    | settling => exact Or.inr (Or.inl ⟨_, addBar_of_settling hends hhas hs⟩)
    | opened => exact Or.inr (Or.inr (Or.inl (addBar_of_opened hhas hs)))
    | service => exact Or.inr (Or.inr (Or.inr (addBar_of_working hends hhas (by simp [Inlet.working, hs]))))
    | lifting => exact Or.inr (Or.inr (Or.inr (addBar_of_working hends hhas (by simp [Inlet.working, hs]))))

theorem addBar_disabled {s : State} {c : Nat} (h : (s.station (stationOf c)).state = .disabled) :
    s.linesKept (s.addBar c r) := by
  obtain hsame | ⟨k, hrest⟩ | hopened | hworking := addBar_branches hends s c
  · rw [hsame]
    exact ⟨rfl, rfl⟩
  · rw [hrest]
    exact ⟨rfl, rfl⟩
  · obtain ⟨_, _, _, hdrop⟩ := dropGrant_touches (s.putBar c r true) c
    obtain ⟨ha, hb⟩ := lockClosed_disabled (s := ((s.putBar c r true).dropGrant c).setInlet c .barred) (c := c)
      (by rw [hdrop]; exact h)
    rw [hopened]
    refine ⟨ha.trans ?_, hb.trans ?_⟩
    · rw [hdrop]
      rfl
    · rw [hdrop]
      rfl
  · obtain ⟨_, _, _, _, _, hwork⟩ := endWork_touches_any (s.putBar c r true) c r.workEnd
    obtain ⟨ha, hb⟩ := lockClosed_disabled (s := ((s.putBar c r true).endWork c r.workEnd).setInlet c .barred) (c := c)
      (by rw [hwork]; exact h)
    obtain ⟨_, _, hunknown⟩ := makeUnknown_touches ((((s.putBar c r true).endWork c r.workEnd).setInlet c .barred).lockClosed c) c
    rw [hworking, State.crewLost, hunknown]
    refine ⟨ha.trans ?_, hb.trans ?_⟩
    · rw [hwork]
      rfl
    · rw [hwork]
      rfl

theorem noticeClass_addBar (s : State) (c : Nat) {n : Nat} (hn : n ≠ 18) : (s.addBar c r).noticeClass n = s.noticeClass n := by
  obtain hsame | ⟨k, hrest⟩ | hopened | hworking := addBar_branches hends s c
  · rw [hsame]
  · rw [hrest]
    rfl
  · obtain ⟨_, _, _, hclosed⟩ := lockClosed_touches (((s.putBar c r true).dropGrant c).setInlet c .barred) c
    obtain ⟨_, _, _, hdrop⟩ := dropGrant_touches (s.putBar c r true) c
    rw [hopened, hclosed, hdrop]
    rfl
  · obtain ⟨_, _, _, _, hlost⟩ := crewLost_touches (s.putBar c r true) c r.workEnd
    have hback : ((s.putBar c r true).endWork c r.workEnd).noticeClass n = (s.putBar c r true).noticeClass n := by
      cases hv : ((s.putBar c r true).container c).inlet.service with
      | none => rw [State.endWork, hv]
      | some v =>
        rw [endWork_form _ c v r.workEnd hv]
        exact noticeClass_returnStop (s.putBar c r true) c v.place r.workEnd n hn
    rw [hworking, hlost]
    exact hback

theorem noticeClass_addBarTo (s : State) (l : List Nat) {n : Nat} (hn : n ≠ 18) :
    (s.addBarTo l r).noticeClass n = s.noticeClass n := by
  induction l generalizing s with
  | nil => rfl
  | cons c l ih => exact (ih (s.addBar c r)).trans (noticeClass_addBar hends s c hn)

theorem addBarTo_disabled {s : State} {l : List Nat} (h : ∀ c ∈ l, (s.station (stationOf c)).state = .disabled) :
    s.linesKept (s.addBarTo l r) := by
  induction l generalizing s with
  | nil => exact ⟨rfl, rfl⟩
  | cons c l ih =>
    obtain ⟨ha, hb⟩ := addBar_disabled hends (h c List.mem_cons_self)
    obtain ⟨ha', hb'⟩ := ih (s := s.addBar c r) (fun d hd => by
      rw [(State.barsOnly.addBar s c r).station]
      exact h d (List.mem_cons_of_mem c hd))
    exact ⟨ha'.trans ha, hb'.trans hb⟩

end

theorem stationOf_mem {i c : Nat} (h : c ∈ containersOf i) : stationOf c = i := by
  simp only [containersOf, List.mem_cons, List.not_mem_nil, or_false] at h
  unfold stationOf
  omega

/-! ### The station disabled (R15) -/

/-- The record of a station disabled, before its containers hear of it. -/
def State.disabledRecord (s : State) (i : Nat) : State := s.updStation i (fun k => { k with state := .disabled })

/-- The reasons of a station disabled: STATION_DISABLED in, and STATION_LOST out where it was LOST. -/
def State.barsDisabled (s : State) (i : Nat) : State :=
  if (s.station i).state = .lost then ((s.disabledRecord i).addBarTo (containersOf i) .stationDisabled).removeBars i .stationLost
  else (s.disabledRecord i).addBarTo (containersOf i) .stationDisabled

/-- The line without the station: off the priority list, without its relay entries, out of its turn. -/
def State.offTheLine (s : State) (i : Nat) : State :=
  ((s.updLine (lineOf i) (fun d => { d with priority := d.priority.filter (fun j => !(j == i)) })).dropRelay i).dropTurn i

theorem disableStation_eq (s : State) (i : Nat) : s.disableStation i = ((s.barsDisabled i).offTheLine i).endOutstanding i := rfl

section
variable (s : State) (i : Nat)

theorem offTheLine_touches : ∃ a b, s.offTheLine i = { s with lineA := a, lineB := b } := by
  unfold State.offTheLine State.dropRelay State.dropTurn State.updLine
  cases lineOf i <;> exact ⟨_, _, rfl⟩

theorem line_offTheLine (l : Line) : (s.offTheLine i).line l = if l = lineOf i then { s.line (lineOf i) with
      priority := (s.line (lineOf i)).priority.filter (fun j => j ≠ i)
      relay := (s.line (lineOf i)).relay.filter (fun e => e.station ≠ i)
      turn := (s.line (lineOf i)).turn.filter (fun t => decide (t.station ≠ i)) }
    else s.line l := by
  have hbeq : ∀ j : Nat, (!(j == i)) = decide (j ≠ i) := fun j => by
    by_cases hj : j = i <;> simp [hj]
  unfold State.offTheLine State.dropRelay State.dropTurn
  simp only [hbeq]
  rw [State.line_updLine]
  by_cases hl : l = lineOf i
  · rw [if_pos hl, if_pos hl, State.line_updLine_same, State.line_updLine_same]
    cases hturn : (s.line (lineOf i)).turn with
    | none => rfl
    | some t => by_cases ht : t.station = i <;> simp [ht, Option.filter]
  · rw [if_neg hl, if_neg hl, State.line_updLine, if_neg hl, State.line_updLine, if_neg hl]

theorem station_barsDisabled (j : Nat) : (s.barsDisabled i).station j =
    if j = i then { s.station i with state := .disabled } else s.station j := by
  have hbars : ((s.disabledRecord i).addBarTo (containersOf i) .stationDisabled).station j = (s.disabledRecord i).station j :=
    (State.barsOnly.addBars (s.disabledRecord i) i .stationDisabled).station j
  have hrecord : (s.disabledRecord i).station j = if j = i then { s.station i with state := .disabled } else s.station j :=
    State.station_updStation _ _ _ _
  unfold State.barsDisabled
  split
  · rw [station_removeBars, hbars, hrecord]
  · rw [hbars, hrecord]

theorem lines_barsDisabled : s.linesKept (s.barsDisabled i) := by
  have hkept : (s.disabledRecord i).linesKept ((s.disabledRecord i).addBarTo (containersOf i) .stationDisabled) := by
    refine addBarTo_disabled rfl (fun c hc => ?_)
    rw [stationOf_mem hc, State.disabledRecord, State.station_updStation, if_pos rfl]
  unfold State.barsDisabled
  split
  · obtain ⟨_, htouches⟩ := removeBars_touches ((s.disabledRecord i).addBarTo (containersOf i) .stationDisabled) i .stationLost
    rw [htouches]
    exact hkept
  · exact hkept

theorem noticeClass_barsDisabled {n : Nat} (hn : n ≠ 18) : (s.barsDisabled i).noticeClass n = s.noticeClass n := by
  have hkept : ((s.disabledRecord i).addBarTo (containersOf i) .stationDisabled).noticeClass n = s.noticeClass n :=
    noticeClass_addBarTo rfl (s.disabledRecord i) (containersOf i) hn
  unfold State.barsDisabled
  split
  · rw [noticeClass_removeBars, hkept]
  · exact hkept

theorem unmarked_withoutBar (r : BarReason) (k : Container) : (k.withoutBar r).unmarked = k.unmarked.withoutBar r := rfl

/-- A container of the station disabled, but for its missed mark. -/
theorem unmarked_barsDisabled {c : Nat} (hc : c ∈ containersOf i) : ((s.barsDisabled i).container c).unmarked =
    if (s.station i).state = .lost then ((s.container c).unmarked.joined .stationDisabled).withoutBar .stationLost
    else (s.container c).unmarked.joined .stationDisabled := by
  have hjoined := unmarked_addBarTo (r := .stationDisabled) rfl (s.disabledRecord i) (containersOf_nodup i) c
  have hrecord : (s.disabledRecord i).container c = s.container c := rfl
  rw [if_pos hc, hrecord] at hjoined
  unfold State.barsDisabled
  split
  · rw [container_removeBars, if_pos hc, unmarked_withoutBar, hjoined]
  · exact hjoined

theorem container_barsDisabled {c : Nat} (hc : c ∉ containersOf i) : (s.barsDisabled i).container c = s.container c := by
  have hkept : ((s.disabledRecord i).addBarTo (containersOf i) .stationDisabled).container c = s.container c :=
    container_addBarTo_other (r := .stationDisabled) rfl (s.disabledRecord i) hc
  unfold State.barsDisabled
  split
  · rw [container_removeBars, if_neg hc, hkept]
  · exact hkept

theorem container_disableStation (c : Nat) : (s.disableStation i).container c =
    if c ∈ containersOf i then ((s.barsDisabled i).container c).requestGone else s.container c := by
  obtain ⟨_, _, hline⟩ := offTheLine_touches (s.barsDisabled i) i
  have hsame : ((s.barsDisabled i).offTheLine i).container c = (s.barsDisabled i).container c := by
    rw [hline]
    rfl
  rw [disableStation_eq, container_endOutstanding, hsame]
  split
  next => rfl
  next hc => exact container_barsDisabled s i hc

theorem disableStation_touches : ∃ ks a b, s.disableStation i = { s.barsDisabled i with containers := ks, lineA := a, lineB := b } := by
  obtain ⟨_, _, hline⟩ := offTheLine_touches (s.barsDisabled i) i
  obtain ⟨_, hrequests⟩ := endOutstanding_touches ((s.barsDisabled i).offTheLine i) i
  rw [disableStation_eq, hrequests, hline]
  exact ⟨_, _, _, rfl⟩

theorem line_disableStation (l : Line) : (s.disableStation i).line l = ((s.barsDisabled i).offTheLine i).line l := by
  obtain ⟨_, hrequests⟩ := endOutstanding_touches ((s.barsDisabled i).offTheLine i) i
  rw [disableStation_eq, hrequests]
  cases l <;> rfl

end

end Sys2Proof.Machine
end

section
/-! PROOFS. The write of a station's record: the clause of the statement (R15, R108, R109). -/

namespace Sys2Proof.Machine

/-! ### A container of a station disabled -/

theorem cfg_joined (r : BarReason) (k : Container) : (k.joined r).cfg = k.cfg ∧ (k.joined r).forced = k.forced := by
  unfold Container.joined
  split
  · exact ⟨rfl, rfl⟩
  · exact ⟨rfl, rfl⟩

theorem requestGone_withoutBar (r : BarReason) (k : Container) : (k.withoutBar r).requestGone = k.requestGone.withoutBar r := rfl

/-- A reason taken out of a set that holds another leaves the state. -/
theorem withoutBar_of_kept {r : BarReason} {k : Container} (h : k.inlet.bars.put r false ≠ BarSet.empty) :
    k.withoutBar r = { k with inlet := { k.inlet with bars := k.inlet.bars.put r false } } := by
  unfold Container.withoutBar
  rw [if_neg (fun hc => h hc.2.1)]

/-- The set of reasons at a container of a station disabled. -/
def BarSet.disabledAt (b : BarSet) (lost : Bool) : BarSet :=
  { b with stationDisabled := true, stationLost := b.stationLost && !lost }

/-- A container of a station disabled: STATION_DISABLED bars it from any state, and STATION_LOST goes with the LOST state. -/
def Container.disabledBy (lost : Bool) (k : Container) : Container :=
  { k with
    inlet := k.inlet.endedBy (k.inlet.bars.disabledAt lost)
    fill := { k.fillEnded with request := k.outstandingGone k.fillEnded.request } }

section
variable (s : State) (i : Nat) {c : Nat} (hc : c ∈ containersOf i)
include hc

theorem shows_disableStation : ((s.disableStation i).container c).cfg = (s.container c).cfg ∧
    ((s.disableStation i).container c).forced = (s.container c).forced := by
  have hunmarked := unmarked_barsDisabled s i hc
  have hjoined := cfg_joined .stationDisabled (s.container c).unmarked
  have hshown : ((s.barsDisabled i).container c).cfg = (s.container c).cfg ∧
      ((s.barsDisabled i).container c).forced = (s.container c).forced := by
    have hcfg := congrArg Container.cfg hunmarked
    have hforced := congrArg Container.forced hunmarked
    change ((s.barsDisabled i).container c).cfg = _ at hcfg
    change ((s.barsDisabled i).container c).forced = _ at hforced
    rw [hcfg, hforced]
    split
    · exact hjoined
    · exact hjoined
  rw [container_disableStation, if_pos hc]
  exact hshown

/-- Where the station was not DISABLED already. -/
theorem inlet_disableStation (hnew : (s.container c).inlet.bars.stationDisabled = false) :
    ((s.disableStation i).container c).inlet =
      (s.container c).inlet.endedBy ((s.container c).inlet.bars.disabledAt (decide ((s.station i).state = .lost))) ∧
    ((s.disableStation i).container c).fill = { (s.container c).fillEnded with
      request := (s.container c).outstandingGone (s.container c).fillEnded.request } := by
  have hjoined := joined_of_new (r := .stationDisabled) (k := s.container c) hnew
  have hunmarked : ((s.disableStation i).container c).unmarked =
      ((s.container c).unmarked.disabledBy (decide ((s.station i).state = .lost))) := by
    rw [container_disableStation, if_pos hc, unmarked_requestGone, unmarked_barsDisabled s i hc]
    by_cases hlost : (s.station i).state = .lost
    · rw [if_pos hlost, requestGone_withoutBar, hjoined, withoutBar_of_kept (by simp [BarSet.put, Inlet.endedBy, BarSet.empty])]
      simp only [hlost]
      unfold Container.disabledBy BarSet.disabledAt Inlet.endedBy
      simp only [decide_true, Bool.not_true, Bool.and_false]
      rfl
    · rw [if_neg hlost, hjoined]
      simp only [hlost]
      unfold Container.disabledBy BarSet.disabledAt Inlet.endedBy
      simp only [decide_false, Bool.not_false, Bool.and_true]
      rfl
  obtain ⟨-, -, hinlet, hfill⟩ := shows_of_unmarked (b := (s.container c).disabledBy (decide ((s.station i).state = .lost)))
    (hunmarked.trans rfl)
  exact ⟨hinlet, hfill⟩

end

/-! ### The station enabled -/

theorem endsWork_notSeen : BarReason.notSeen.endsWork = false := rfl

section
variable {r : BarReason} (hends : r.endsWork = false)
include hends

/-- A reason that ends no work: the other containers, the set, and a BARRED inlet. -/
theorem addBar_rests (s : State) (c : Nat) : (∀ d, d ≠ c → (s.addBar c r).container d = s.container d) ∧
    ((s.addBar c r).container c).inlet.bars = (s.container c).inlet.bars.put r true ∧
    ((s.container c).inlet.state = .barred → (s.addBar c r).container c =
      { s.container c with inlet := { (s.container c).inlet with bars := (s.container c).inlet.bars.put r true } }) := by
  by_cases hrest : (s.container c).inlet.bars.has r = true ∨ (s.container c).inlet.state ≠ .opened
  · have hcontainer := container_addBar_of_rest s c r hends hrest
    refine ⟨fun d hd => by rw [hcontainer, if_neg hd], by rw [hcontainer, if_pos rfl], fun hbarred => ?_⟩
    rw [hcontainer, if_pos rfl, if_neg (fun h => absurd (hbarred.symm.trans h.2) (by decide))]
  · obtain ⟨hhas, hopened⟩ := not_or.mp hrest
    have hopened' : (s.container c).inlet.state = .opened := not_not.mp hopened
    have hput : ∀ d, (s.putBar c r true).container d = _ := fun d => container_putBar s c d r true
    rw [addBar_of_opened (Bool.not_eq_true _ ▸ hhas) hopened']
    refine ⟨fun d hd => ?_, ?_, fun hbarred => absurd (hopened'.symm.trans hbarred) (by decide)⟩
    · rw [container_endGrant _ _ _ rfl, if_neg hd, hput, if_neg hd]
    · rw [container_endGrant _ _ _ rfl, if_pos rfl, hput, if_pos rfl]

theorem addBarTo_rests (s : State) {l : List Nat} (hl : l.Nodup) :
    (∀ d, d ∉ l → (s.addBarTo l r).container d = s.container d) ∧
    ∀ c ∈ l, ((s.addBarTo l r).container c).inlet.bars = (s.container c).inlet.bars.put r true ∧
      ((s.container c).inlet.state = .barred → (s.addBarTo l r).container c =
        { s.container c with inlet := { (s.container c).inlet with bars := (s.container c).inlet.bars.put r true } }) := by
  induction l generalizing s with
  | nil => exact ⟨fun _ _ => rfl, fun _ h => absurd h List.not_mem_nil⟩
  | cons e l ih =>
    obtain ⟨he, hrest⟩ := List.nodup_cons.mp hl
    obtain ⟨hothers, hbars, hbarred⟩ := addBar_rests hends s e
    obtain ⟨hout, hin⟩ := ih (s.addBar e r) hrest
    refine ⟨fun d hd => ?_, fun c hc => ?_⟩
    · obtain ⟨hde, hdl⟩ := not_or.mp (List.mem_cons.not.mp hd)
      exact (hout d hdl).trans (hothers d hde)
    · obtain rfl | hc := List.mem_cons.mp hc
      · have hlater : (s.addBarTo (c :: l) r).container c = (s.addBar c r).container c := hout c he
        rw [hlater]
        exact ⟨hbars, hbarred⟩
      · have hsame := hothers c (fun h => he (h ▸ hc))
        have hthen := hin c hc
        rw [hsame] at hthen
        exact hthen

end

/-- The record of a station enabled, before its containers hear of it. -/
def State.enabledRecord (s : State) (i : Nat) : State :=
  s.updStation i (fun k => { k with state := .unknown, missCount := 0, seen := false })

theorem enableStation_eq (s : State) (i : Nat) : s.enableStation i =
    ((s.enabledRecord i).addBarTo (containersOf i) .notSeen).removeBars i .stationDisabled := rfl

section
variable (s : State) (i : Nat)

theorem station_enableStation (j : Nat) : (s.enableStation i).station j =
    if j = i then { s.station i with state := .unknown, missCount := 0, seen := false } else s.station j := by
  rw [enableStation_eq, station_removeBars]
  refine ((State.barsOnly.addBars (s.enabledRecord i) i .notSeen).station j).trans ?_
  exact State.station_updStation _ _ _ _

theorem container_enableStation_other {c : Nat} (hc : c ∉ containersOf i) : (s.enableStation i).container c = s.container c := by
  obtain ⟨hout, -⟩ := addBarTo_rests endsWork_notSeen (s.enabledRecord i) (containersOf_nodup i)
  rw [enableStation_eq, container_removeBars, if_neg hc, hout c hc]
  rfl

theorem container_enableStation {c : Nat} (hc : c ∈ containersOf i) :
    ((s.enableStation i).container c).inlet.bars =
      { (s.container c).inlet.bars with notSeen := true, stationDisabled := false } ∧
    ((s.container c).inlet.state = .barred → (s.enableStation i).container c =
      { s.container c with inlet := { (s.container c).inlet with
        bars := { (s.container c).inlet.bars with notSeen := true, stationDisabled := false } } }) := by
  obtain ⟨-, hin⟩ := addBarTo_rests endsWork_notSeen (s.enabledRecord i) (containersOf_nodup i)
  have hrecord : (s.enabledRecord i).container c = s.container c := rfl
  have hadded := hin c hc
  rw [hrecord] at hadded
  obtain ⟨hbars, hbarred⟩ := hadded
  have hcontainer : (s.enableStation i).container c =
      (((s.enabledRecord i).addBarTo (containersOf i) .notSeen).container c).withoutBar .stationDisabled := by
    rw [enableStation_eq, container_removeBars, if_pos hc]
  rw [hcontainer, withoutBar_of_kept (by rw [hbars]; simp [BarSet.put, BarSet.empty])]
  refine ⟨by rw [hbars]; rfl, fun hstate => ?_⟩
  rw [hbarred hstate]
  rfl

end

/-! ### The record written -/

/-- The station's configuration written. -/
def State.withStation (s : State) (i : Nat) (p : StationCfg) : State := s.updStation i (fun k => { k with cfg := p })

section
variable {s : State} {i : Nat} {p : StationCfg}

theorem writeStation_same (h : (s.station i).cfg.enabled = p.enabled) : s.writeStation i p = s.withStation i p := by
  unfold State.writeStation
  dsimp only
  rw [h]
  cases p.enabled <;> rfl

theorem writeStation_disables (h : (s.station i).cfg.enabled = true) (hp : p.enabled = false) :
    s.writeStation i p = (s.withStation i p).disableStation i := by
  unfold State.writeStation
  dsimp only
  rw [h, hp]
  rfl

theorem writeStation_enables (h : (s.station i).cfg.enabled = false) (hp : p.enabled = true) :
    s.writeStation i p = (s.withStation i p).enableStation i := by
  unfold State.writeStation
  dsimp only
  rw [h, hp]
  rfl

theorem station_withStation (j : Nat) : (s.withStation i p).station j =
    if j = i then { s.station i with cfg := p } else s.station j := State.station_updStation _ _ _ _

theorem station_disableStation (j : Nat) : (s.disableStation i).station j =
    if j = i then { s.station i with state := .disabled } else s.station j := by
  obtain ⟨_, _, _, htouches⟩ := disableStation_touches s i
  refine Eq.trans ?_ (station_barsDisabled s i j)
  rw [htouches]
  rfl

theorem noticeClass_disableStation {n : Nat} (hn : n ≠ 18) : (s.disableStation i).noticeClass n = s.noticeClass n := by
  obtain ⟨_, _, _, htouches⟩ := disableStation_touches s i
  refine Eq.trans ?_ (noticeClass_barsDisabled s i hn)
  rw [htouches]
  rfl

theorem line_writeDisabled (l : Line) : (s.disableStation i).line l = if l = lineOf i then { s.line (lineOf i) with
      priority := (s.line (lineOf i)).priority.filter (fun j => j ≠ i)
      relay := (s.line (lineOf i)).relay.filter (fun e => e.station ≠ i)
      turn := (s.line (lineOf i)).turn.filter (fun t => decide (t.station ≠ i)) }
    else s.line l := by
  have hkept := line_of_linesKept (lines_barsDisabled s i)
  rw [line_disableStation, line_offTheLine, hkept, hkept]

/-- Every write of a station's record leaves the other stations and the other stations' containers. -/
theorem writeStation_others : (∀ j, j ≠ i → (s.writeStation i p).station j = s.station j) ∧
    ∀ c, c ∉ containersOf i → (s.writeStation i p).container c = s.container c := by
  have hothers : ∀ j, j ≠ i → (s.withStation i p).station j = s.station j := fun j hj => by
    rw [station_withStation, if_neg hj]
  cases hold : (s.station i).cfg.enabled <;> cases hnew : p.enabled
  · rw [writeStation_same (hold.trans hnew.symm)]
    exact ⟨hothers, fun _ _ => rfl⟩
  · rw [writeStation_enables hold hnew]
    refine ⟨fun j hj => ?_, fun c hc => container_enableStation_other (s.withStation i p) i hc⟩
    rw [station_enableStation, if_neg hj, hothers j hj]
  · rw [writeStation_disables hold hnew]
    refine ⟨fun j hj => ?_, fun c hc => ?_⟩
    · rw [station_disableStation, if_neg hj, hothers j hj]
    · rw [container_disableStation, if_neg hc]
      rfl
  · rw [writeStation_same (hold.trans hnew.symm)]
    exact ⟨hothers, fun _ _ => rfl⟩

end

end Sys2Proof.Machine
end

section
/-! PROOFS. The write of a container's record: its stops, its marks and its fill (R69, R84, R91, R100, R125, R134, R137). -/

namespace Sys2Proof.Machine

/-! ### Stops that only become SKIPPED -/

/-- Every stop stands in its place, in its state or SKIPPED. -/
def State.onlySkips (s t : State) : Prop := ∀ (r j : Nat) (q : Stop), (s.round r).stops[j]? = some q →
  ∃ st, (t.round r).stops[j]? = some { q with state := st } ∧ (st = q.state ∨ st = some .skipped)

theorem onlySkips_of_rounds {s t : State} (h : ∀ r, t.round r = s.round r) : s.onlySkips t :=
  fun r _ q hq => ⟨q.state, by rw [h r]; exact hq, Or.inl rfl⟩

theorem onlySkips_trans {s t u : State} (h : s.onlySkips t) (g : t.onlySkips u) : s.onlySkips u := fun r j q hq => by
  obtain ⟨st, ht, hst⟩ := h r j q hq
  obtain ⟨st', hu, hst'⟩ := g r j _ ht
  refine ⟨st', hu, ?_⟩
  obtain rfl | rfl := hst'
  · exact hst
  · exact Or.inr rfl

/-- A SKIPPED stop stays SKIPPED. -/
theorem skipped_of_onlySkips {s t : State} (h : s.onlySkips t) {r j : Nat} {q : Stop}
    (hq : (s.round r).stops[j]? = some { q with state := some .skipped }) :
    (t.round r).stops[j]? = some { q with state := some .skipped } := by
  obtain ⟨st, ht, hst⟩ := h r j _ hq
  rw [ht]
  obtain rfl | rfl := hst <;> rfl

theorem onlySkips_setStop (s : State) (r i : Nat) : s.onlySkips (s.setStop r i .skipped) := fun q j p hp => by
  obtain ⟨hothers, hround⟩ := round_setStop s r i .skipped
  by_cases hq : q = r
  · subst hq
    by_cases hj : i = j
    · refine ⟨some .skipped, ?_, Or.inr rfl⟩
      rw [hround]
      simp [hj, hp]
    · refine ⟨p.state, ?_, Or.inl rfl⟩
      rw [hround]
      simp [hj, hp]
  · exact ⟨p.state, by rw [hothers q hq]; exact hp, Or.inl rfl⟩

theorem setStop_skipped {s : State} {r i : Nat} {q : Stop} (hq : (s.round r).stops[i]? = some q) :
    ((s.setStop r i .skipped).round r).stops[i]? = some { q with state := some .skipped } := by
  obtain ⟨-, hround⟩ := round_setStop s r i .skipped
  rw [hround]
  simp [hq]

section
variable {s : State} (hwf : s.rounds.wf Round.blank = true) (c : Nat)
include hwf

theorem round_skipPendingOf (r : Nat) : (s.skipPendingOf c).round r = (s.round r).skipPendingOf c := Tab.get_map rfl hwf

theorem onlySkips_skipPendingOf : s.onlySkips (s.skipPendingOf c) := fun r j q hq => by
  rw [round_skipPendingOf hwf]
  unfold Round.skipPendingOf
  dsimp only
  rw [List.getElem?_map, hq]
  by_cases hskip : q.container = c ∧ q.isPending = true
  · exact ⟨some .skipped, congrArg some (if_pos hskip), Or.inr rfl⟩
  · exact ⟨q.state, congrArg some (if_neg hskip), Or.inl rfl⟩

/-- The PENDING stops of the container are SKIPPED, and so are those that were before. -/
theorem skipPendingOf_skips {r j : Nat} {q : Stop} {st : Option StopState} (hq : (s.round r).stops[j]? = some { q with state := st })
    (hc : q.container = c) (hst : st = some .pending ∨ st = some .skipped) :
    ((s.skipPendingOf c).round r).stops[j]? = some { q with state := some .skipped } := by
  rw [round_skipPendingOf hwf]
  unfold Round.skipPendingOf
  dsimp only
  rw [List.getElem?_map, hq]
  obtain rfl | rfl := hst
  · exact congrArg some (if_pos ⟨hc, rfl⟩)
  · exact congrArg some (if_neg (fun h => absurd h.2 (by simp [Stop.isPending])))

end

/-! ### NOT_PRESENT (R108, R134, R158) -/

/-- Work that ends with the container no longer present: the stop it served is SKIPPED (R158). -/
theorem returnStop_absent (s : State) (c : Nat) (place : Option (Nat × Nat)) :
    (∀ r i, place = some (r, i) → (s.round r).state = .active ∨ (s.round r).state = .closing →
      s.returnStop c place .absent = s.setStop r i .skipped) ∧
    (s.returnStop c place .absent = s ∨ ∃ r i, s.returnStop c place .absent = s.setStop r i .skipped) := by
  cases place with
  | none => exact ⟨fun _ _ h => absurd h (by simp), Or.inl rfl⟩
  | some at_ =>
    obtain ⟨r, i⟩ := at_
    have hskips : (s.round r).state = .active ∨ (s.round r).state = .closing →
        s.returnStop c (some (r, i)) .absent = s.setStop r i .skipped := fun h => by
      unfold State.returnStop
      dsimp only
      obtain h | h := h <;> rw [h] <;> simp
    refine ⟨fun r' i' h hstate => ?_, ?_⟩
    · cases h
      exact hskips hstate
    · by_cases hstate : (s.round r).state = .active ∨ (s.round r).state = .closing
      · exact Or.inr ⟨r, i, hskips hstate⟩
      · refine Or.inl ?_
        unfold State.returnStop
        dsimp only
        split
        next h => exact absurd (Or.inl h) hstate
        next h => exact absurd (Or.inr h) hstate
        next => rfl

section
variable (s : State) (c : Nat)

theorem rounds_endWork (v : Service) (hv : (s.container c).inlet.service = some v) (why : WorkEnd) :
    (s.endWork c why).rounds = (s.returnStop c v.place why).rounds := by
  rw [endWork_form s c v why hv]
  rfl

theorem rounds_crewLost (why : WorkEnd) : (s.crewLost c why).rounds = (s.endWork c why).rounds := by
  obtain ⟨_, _, _, _, hlost⟩ := crewLost_touches s c why
  rw [hlost]

/-- The rounds after NOT_PRESENT joins the set. -/
theorem rounds_addBar_notPresent : (s.addBar c .notPresent).rounds = s.rounds ∨
    ∃ r i, (s.addBar c .notPresent).rounds = (s.setStop r i .skipped).rounds := by
  obtain hsame | ⟨k, hrest⟩ | hopened | hworking := addBar_branches (r := .notPresent) rfl s c
  · exact Or.inl (by rw [hsame])
  · exact Or.inl (by rw [hrest])
  · obtain ⟨_, _, _, _, _, hend⟩ := endGrant_touches (s.putBar c .notPresent true) c .barred
    refine Or.inl ?_
    rw [hopened, ← State.endGrant, hend]
    rfl
  · have hrounds : (s.addBar c .notPresent).rounds = ((s.putBar c .notPresent true).endWork c .absent).rounds := by
      rw [hworking]
      exact rounds_crewLost _ c .absent
    rw [hrounds]
    cases hv : ((s.putBar c .notPresent true).container c).inlet.service with
    | none => exact Or.inl (by rw [State.endWork, hv]; rfl)
    | some v =>
      rw [rounds_endWork _ c v hv]
      obtain ⟨-, hkept | ⟨r, i, hset⟩⟩ := returnStop_absent (s.putBar c .notPresent true) c v.place
      · exact Or.inl (by rw [hkept]; rfl)
      · exact Or.inr ⟨r, i, by rw [hset]; rfl⟩

theorem onlySkips_addBar_notPresent : s.onlySkips (s.addBar c .notPresent) := by
  obtain hrounds | ⟨r, i, hrounds⟩ := rounds_addBar_notPresent s c
  · exact onlySkips_of_rounds (State.round_congr hrounds)
  · exact onlySkips_trans (onlySkips_setStop s r i) (onlySkips_of_rounds (State.round_congr hrounds))

theorem wf_addBar_notPresent (hwf : s.rounds.wf Round.blank = true) :
    (s.addBar c .notPresent).rounds.wf Round.blank = true := by
  obtain hrounds | ⟨r, i, hrounds⟩ := rounds_addBar_notPresent s c
  · rw [hrounds]
    exact hwf
  · rw [hrounds]
    exact Tab.wf_set hwf

/-- The stop that a crew's work served is SKIPPED when the container is no longer present (R158). -/
theorem served_addBar_notPresent (hbars : (s.container c).inlet.bars.notPresent = false)
    (hworking : (s.container c).inlet.working = true) {v : Service} (hv : (s.container c).inlet.service = some v) {r i : Nat}
    (hplace : v.place = some (r, i)) (hstate : (s.round r).state = .active ∨ (s.round r).state = .closing) {q : Stop}
    (hq : (s.round r).stops[i]? = some q) :
    ((s.addBar c .notPresent).round r).stops[i]? = some { q with state := some .skipped } := by
  have hput : (s.putBar c .notPresent true).container c = _ := (container_putBar s c c .notPresent true).trans (if_pos rfl)
  have hrounds : (s.addBar c .notPresent).rounds = ((s.putBar c .notPresent true).setStop r i .skipped).rounds := by
    rw [addBar_of_working (r := .notPresent) rfl hbars hworking]
    refine (rounds_crewLost _ c .absent).trans ?_
    refine (rounds_endWork (s.putBar c .notPresent true) c v (by rw [hput]; exact hv) .absent).trans ?_
    obtain ⟨hskips, -⟩ := returnStop_absent (s.putBar c .notPresent true) c v.place
    rw [hskips r i hplace hstate]
  rw [State.round_congr hrounds r]
  exact setStop_skipped (s := s.putBar c .notPresent true) hq

end

end Sys2Proof.Machine
end

section
/-! PROOFS. The write of a container's record: kept present, cleared, and set present (R69, R84, R91, R100, R125). -/

namespace Sys2Proof.Machine

/-! ### A container no longer present -/

/-- The fill fields of a container that is not present (R69). -/
def Fill.absent (f : Fill) : Fill :=
  { f with estimate := none, risePending := false, postLift := false, countdown := none, request := .idle
           status := .unknown, fullCount := 0 }

theorem absent_fillEnded (k : Container) : k.fillEnded.absent = k.fill.absent := by
  unfold Container.fillEnded
  dsimp only
  split <;> rfl

section
variable (s : State) (c : Nat)

theorem container_fillAbsent (d : Nat) : (s.fillAbsent c).container d =
    if d = c then { s.container c with fill := (s.container c).fill.absent } else s.container d := by
  have hfill : ∀ t : State, (t.container c).fill.estimate = none → t.evaluate c = t.setStatus c .unknown 0 := fun t h => by
    unfold State.evaluate
    dsimp only
    rw [h]
  unfold State.fillAbsent
  rw [hfill _ (by rw [State.container_updFill, if_pos rfl]), container_setStatus]
  by_cases hd : d = c
  · rw [if_pos hd, if_pos hd, State.container_updFill, if_pos rfl]
    rfl
  · rw [if_neg hd, if_neg hd, State.container_updFill, if_neg hd]

theorem container_clearMarks (d : Nat) : (s.clearMarks c).container d =
    if d = c then { s.container c with forced := false, missed := false } else s.container d := by
  unfold State.clearMarks
  rw [container_rederive, State.container_updContainer]

theorem container_clearPresent (d : Nat) : (s.clearPresent c).container d =
    if d = c then { (s.addBar c .notPresent).container c with
      fill := (s.container c).fill.absent, forced := false, missed := false }
    else s.container d := by
  have habsent : ((s.addBar c .notPresent).container c).fill.absent = (s.container c).fill.absent := by
    cases hhas : (s.container c).inlet.bars.has .notPresent with
    | true => rw [addBar_of_has hhas]
    | false =>
      rw [container_addBar_ends rfl hhas, if_pos rfl]
      exact absent_fillEnded (s.container c)
  have hskip : (s.clearPresent c).container d = (((s.addBar c .notPresent).fillAbsent c).clearMarks c).container d := rfl
  rw [hskip, container_clearMarks]
  by_cases hd : d = c
  · rw [if_pos hd, if_pos hd, container_fillAbsent, if_pos rfl, habsent]
  · rw [if_neg hd, if_neg hd, container_fillAbsent, if_neg hd, container_addBar_other rfl s hd]

theorem rounds_fillAbsent : (s.fillAbsent c).rounds = s.rounds := by
  obtain ⟨_, _, _, _, hevaluate⟩ := evaluate_touches (s.updFill c (fun f =>
    { f with estimate := none, risePending := false, postLift := false, countdown := none, request := .idle })) c
  unfold State.fillAbsent
  rw [hevaluate]
  rfl

/-- The container cleared, before its PENDING stops are SKIPPED. -/
def State.presentCleared (s : State) (c : Nat) : State := ((s.addBar c .notPresent).fillAbsent c).clearMarks c

theorem clearPresent_eq : s.clearPresent c = (s.presentCleared c).skipPendingOf c := rfl

theorem rounds_clearMarks : (s.clearMarks c).rounds = s.rounds := rfl

theorem rounds_presentCleared : (s.presentCleared c).rounds = (s.addBar c .notPresent).rounds := by
  rw [State.presentCleared, rounds_clearMarks, rounds_fillAbsent]

end

/-! ### A container that becomes present -/

theorem container_setPresent (s : State) (c d : Nat) : (s.setPresent c).container d =
    if d = c then { s.container c with
      fill := Fill.start (some (c % 8 + 1))
      inlet := { (s.container c).inlet with
        lastDrum := none, unattributed := 0, bars := (s.container c).inlet.bars.put .notPresent false
        state := if (s.container c).inlet.bars.has .notPresent = true ∧
            (s.container c).inlet.bars.put .notPresent false = BarSet.empty ∧ (s.container c).inlet.state = .barred
          then .locked else (s.container c).inlet.state } }
    else s.container d := by
  unfold State.setPresent
  rw [container_rederive, State.container_updFill, container_removeBar, container_removeBar]
  by_cases hd : d = c
  · rw [if_pos hd, if_pos hd, if_pos rfl, State.container_updInlet, if_pos rfl]
  · rw [if_neg hd, if_neg hd, if_neg hd, State.container_updInlet, if_neg hd]

theorem rounds_setPresent (s : State) (c : Nat) : (s.setPresent c).rounds = s.rounds := by
  obtain ⟨_, hbar⟩ := removeBar_touches (s.updInlet c (fun n => { n with lastDrum := none, unattributed := 0 })) c .notPresent
  unfold State.setPresent
  rw [hbar]
  rfl

/-! ### A container that stays present -/

theorem sameGeometry_iff (a b : ContainerCfg) : a.sameGeometry b = true ↔
    a.capacity = b.capacity ∧ a.height = b.height ∧ a.deadZone = b.deadZone ∧ a.shape = b.shape := by
  simp only [ContainerCfg.sameGeometry, Bool.and_eq_true, decide_eq_true_eq, and_assoc]

/-- The fill fields with the countdown under a new interval (R84). -/
def Fill.countdownUnder (f : Fill) (old new : Nat) : Fill :=
  { f with countdown := if old = new then f.countdown else f.countdown.map (fun n => min new n) }

section
variable (s : State) (c : Nat) (old new : ContainerCfg)

/-- The countdown follows a sample interval that changed. -/
def State.countdownFollows (s : State) (c : Nat) (old new : ContainerCfg) : State :=
  if old.sampleInterval = new.sampleInterval then s else s.updFill c (fun f => f.limitCountdown new.sampleInterval)

theorem container_countdownFollows (d : Nat) : (s.countdownFollows c old new).container d =
    if d = c then { s.container c with fill := (s.container c).fill.countdownUnder old.sampleInterval new.sampleInterval }
    else s.container d := by
  unfold State.countdownFollows Fill.countdownUnder
  by_cases hsame : old.sampleInterval = new.sampleInterval
  · simp only [hsame, if_true]
    split
    next hd => rw [hd]
    next => rfl
  · simp only [hsame, if_false]
    rw [State.container_updFill]
    rfl

theorem rounds_countdownFollows : (s.countdownFollows c old new).rounds = s.rounds := by
  unfold State.countdownFollows
  split <;> rfl

theorem keepPresent_eq : s.keepPresent c old new = if old.sameGeometry new then s.countdownFollows c old new
    else (s.countdownFollows c old new).makeUnknown c := rfl

theorem container_keepPresent (d : Nat) : (s.keepPresent c old new).container d =
    if d = c then (if old.sameGeometry new = true
        then { s.container c with fill := (s.container c).fill.countdownUnder old.sampleInterval new.sampleInterval }
        else Container.madeUnknown
          { s.container c with fill := (s.container c).fill.countdownUnder old.sampleInterval new.sampleInterval })
    else s.container d := by
  rw [keepPresent_eq]
  by_cases hsame : old.sameGeometry new = true
  · rw [if_pos hsame, if_pos hsame, container_countdownFollows]
  · rw [if_neg hsame, if_neg hsame, container_madeUnknown]
    by_cases hd : d = c
    · rw [if_pos hd, if_pos hd, container_countdownFollows, if_pos rfl]
    · rw [if_neg hd, if_neg hd, container_countdownFollows, if_neg hd]

theorem rounds_keepPresent : (s.keepPresent c old new).rounds = s.rounds := by
  rw [keepPresent_eq]
  split
  · exact rounds_countdownFollows s c old new
  · obtain ⟨_, _, hunknown⟩ := makeUnknown_touches (s.countdownFollows c old new) c
    rw [hunknown]
    exact rounds_countdownFollows s c old new

end

/-! ### The record written -/

/-- The container's configuration written, its PENDING stops SKIPPED where the fraction changed (R137). -/
def State.withContainer (s : State) (c : Nat) (p : ContainerCfg) : State :=
  if (s.container c).cfg.fraction = p.fraction then s.updContainer c (fun k => { k with cfg := p })
  else (s.updContainer c (fun k => { k with cfg := p })).skipPendingOf c

section
variable {s : State} {c : Nat} {p : ContainerCfg}

theorem container_withContainer (d : Nat) : (s.withContainer c p).container d =
    if d = c then { s.container c with cfg := p } else s.container d := by
  have hwritten := State.container_updContainer s c d (fun k => { k with cfg := p })
  unfold State.withContainer
  split
  · exact hwritten
  · exact hwritten

theorem rounds_withContainer_same (h : (s.container c).cfg.fraction = p.fraction) :
    (s.withContainer c p).rounds = s.rounds := by
  rw [State.withContainer, if_pos h]
  rfl

theorem round_state_withContainer (hwf : s.rounds.wf Round.blank = true) (r : Nat) :
    ((s.withContainer c p).round r).state = (s.round r).state := by
  unfold State.withContainer
  split
  · rfl
  · rw [round_skipPendingOf (s := s.updContainer c (fun k => { k with cfg := p })) hwf]
    rfl

theorem wf_withContainer (hwf : s.rounds.wf Round.blank = true) : (s.withContainer c p).rounds.wf Round.blank = true := by
  unfold State.withContainer
  split
  · exact hwf
  · exact Tab.wf_map hwf

theorem onlySkips_withContainer (hwf : s.rounds.wf Round.blank = true) : s.onlySkips (s.withContainer c p) := by
  unfold State.withContainer
  split
  · exact onlySkips_of_rounds (fun _ => rfl)
  · exact onlySkips_skipPendingOf (s := s.updContainer c (fun k => { k with cfg := p })) hwf c

theorem writeContainer_clears (h : (s.container c).cfg.present = true) (hp : p.present = false) :
    s.writeContainer c p = (s.withContainer c p).clearPresent c := by
  unfold State.writeContainer
  dsimp only
  rw [h, hp]
  rfl

theorem writeContainer_sets (h : (s.container c).cfg.present = false) (hp : p.present = true) :
    s.writeContainer c p = (s.withContainer c p).setPresent c := by
  unfold State.writeContainer
  dsimp only
  rw [h, hp]
  rfl

theorem writeContainer_keeps (h : (s.container c).cfg.present = true) (hp : p.present = true) :
    s.writeContainer c p = (s.withContainer c p).keepPresent c (s.container c).cfg p := by
  unfold State.writeContainer
  dsimp only
  rw [h, hp]
  rfl

theorem writeContainer_absent (h : (s.container c).cfg.present = false) (hp : p.present = false) :
    s.writeContainer c p = s.withContainer c p := by
  unfold State.writeContainer
  dsimp only
  rw [h, hp]
  rfl

end

end Sys2Proof.Machine
end

section
/-! PROOFS. The write of a container's record: the clause of the statement (R69, R84, R91, R100, R125, R134, R137). -/

namespace Sys2Proof.Machine

section
variable {s : State} {c : Nat} {p : ContainerCfg}

/-- The write leaves the other containers. -/
theorem container_writeContainer_other {d : Nat} (hd : d ≠ c) : (s.writeContainer c p).container d = s.container d := by
  have hsame : (s.withContainer c p).container d = s.container d := by rw [container_withContainer, if_neg hd]
  cases hold : (s.container c).cfg.present <;> cases hnew : p.present
  · rw [writeContainer_absent hold hnew, hsame]
  · rw [writeContainer_sets hold hnew, container_setPresent, if_neg hd, hsame]
  · rw [writeContainer_clears hold hnew, container_clearPresent, if_neg hd, hsame]
  · rw [writeContainer_keeps hold hnew, container_keepPresent, if_neg hd, hsame]

theorem withContainer_self : (s.withContainer c p).container c = { s.container c with cfg := p } := by
  rw [container_withContainer, if_pos rfl]

/-! ### The container's fields -/

theorem container_writeContainer_absent (hold : (s.container c).cfg.present = false) (hnew : p.present = false) :
    (s.writeContainer c p).container c = { s.container c with cfg := p } := by
  rw [writeContainer_absent hold hnew, withContainer_self]

/-- The fill fields of a container that stays present. -/
theorem container_writeContainer_keeps (hold : (s.container c).cfg.present = true) (hnew : p.present = true) :
    (s.writeContainer c p).container c = { s.container c with
      cfg := p
      fill := if (s.container c).cfg.sameGeometry p = true
        then (s.container c).fill.countdownUnder (s.container c).cfg.sampleInterval p.sampleInterval
        else { (s.container c).fill.countdownUnder (s.container c).cfg.sampleInterval p.sampleInterval with
          estimate := none, risePending := false, status := .unknown, fullCount := 0
          request := if (s.container c).live = true ∧ (s.container c).fill.request = .idle then
              (if (s.container c).inlet.waits then .deferred else .pending)
            else (s.container c).fill.request } } := by
  have hlive : ({ s.container c with
      cfg := p
      fill := (s.container c).fill.countdownUnder (s.container c).cfg.sampleInterval p.sampleInterval } : Container).live =
        (s.container c).live := by
    unfold Container.live
    rw [hold]
    exact congrArg (· && _) hnew
  rw [writeContainer_keeps hold hnew, container_keepPresent, if_pos rfl, withContainer_self]
  by_cases hsame : (s.container c).cfg.sameGeometry p = true
  · rw [if_pos hsame, if_pos hsame]
  · rw [if_neg hsame, if_neg hsame]
    unfold Container.madeUnknown
    rw [hlive]
    rfl

theorem container_writeContainer_sets (hold : (s.container c).cfg.present = false) (hnew : p.present = true) :
    (s.writeContainer c p).container c = { s.container c with
      cfg := p
      fill := Fill.start (some (c % 8 + 1))
      inlet := { (s.container c).inlet with
        lastDrum := none, unattributed := 0, bars := (s.container c).inlet.bars.put .notPresent false
        state := if (s.container c).inlet.bars.has .notPresent = true ∧
            (s.container c).inlet.bars.put .notPresent false = BarSet.empty ∧ (s.container c).inlet.state = .barred
          then .locked else (s.container c).inlet.state } } := by
  rw [writeContainer_sets hold hnew, container_setPresent, if_pos rfl, withContainer_self]

section
variable (hold : (s.container c).cfg.present = true) (hnew : p.present = false)
include hold hnew

theorem container_writeContainer_clears : (s.writeContainer c p).container c =
    { ((s.withContainer c p).addBar c .notPresent).container c with
      fill := (s.container c).fill.absent, forced := false, missed := false } := by
  rw [writeContainer_clears hold hnew, container_clearPresent, if_pos rfl, withContainer_self]

theorem cfg_writeContainer_clears : ((s.writeContainer c p).container c).cfg = p := by
  rw [container_writeContainer_clears hold hnew]
  dsimp only
  cases hhas : ((s.withContainer c p).container c).inlet.bars.has .notPresent with
  | true => rw [addBar_of_has hhas, withContainer_self]
  | false =>
    rw [container_addBar_ends rfl hhas, if_pos rfl]
    exact congrArg Container.cfg withContainer_self

theorem inlet_writeContainer_clears (hbars : (s.container c).inlet.bars.notPresent = false) :
    ((s.writeContainer c p).container c).inlet =
      (s.container c).inlet.endedBy { (s.container c).inlet.bars with notPresent := true } := by
  have hhas : ((s.withContainer c p).container c).inlet.bars.has .notPresent = false := by
    rw [withContainer_self]
    exact hbars
  rw [container_writeContainer_clears hold hnew, container_addBar_ends rfl hhas, if_pos rfl, withContainer_self]
  rfl

/-! ### The stops -/

variable (hwf : s.rounds.wf Round.blank = true)
include hwf

omit hold hnew in
/-- The stops before the cleared container's own PENDING ones are SKIPPED. -/
theorem cleared_stops : s.onlySkips ((s.withContainer c p).presentCleared c) ∧
    ((s.withContainer c p).presentCleared c).rounds.wf Round.blank = true := by
  have hrounds := rounds_presentCleared (s.withContainer c p) c
  refine ⟨onlySkips_trans (onlySkips_trans (onlySkips_withContainer hwf)
    (onlySkips_addBar_notPresent (s.withContainer c p) c)) (onlySkips_of_rounds (State.round_congr hrounds)), ?_⟩
  rw [hrounds]
  exact wf_addBar_notPresent _ c (wf_withContainer hwf)

theorem served_writeContainer {v : Service} {r i : Nat} {q : Stop} (hbars : (s.container c).inlet.bars.notPresent = false)
    (hworking : (s.container c).inlet.working = true) (hv : (s.container c).inlet.service = some v) (hr : v.round = some r)
    (hi : v.stop = some i) (hstate : (s.round r).state = .active ∨ (s.round r).state = .closing)
    (hq : (s.round r).stops[i]? = some q) :
    ((s.writeContainer c p).round r).stops[i]? = some { q with state := some .skipped } := by
  obtain ⟨-, hwfCleared⟩ := cleared_stops hwf
  obtain ⟨st, hqw, -⟩ := onlySkips_withContainer hwf (c := c) (p := p) r i q hq
  have hplace : v.place = some (r, i) := by rw [Service.place, hr, hi]
  have hserved := served_addBar_notPresent (s.withContainer c p) c (v := v) (r := r) (i := i)
    (by rw [withContainer_self]; exact hbars) (by rw [withContainer_self]; exact hworking)
    (by rw [withContainer_self]; exact hv) hplace (by rw [round_state_withContainer hwf]; exact hstate) hqw
  have hcleared : (((s.withContainer c p).presentCleared c).round r).stops[i]? = some { q with state := some .skipped } := by
    rw [State.round_congr (rounds_presentCleared (s.withContainer c p) c) r]
    exact hserved
  rw [writeContainer_clears hold hnew, clearPresent_eq]
  exact skipped_of_onlySkips (onlySkips_skipPendingOf hwfCleared c) hcleared

end

/-- PENDING stops at a container whose fraction changes, or that is no longer present, are SKIPPED (R134, R137). -/
theorem pending_writeContainer (hwf : s.rounds.wf Round.blank = true)
    (h : (s.container c).cfg.fraction ≠ p.fraction ∨ (s.container c).cfg.present = true ∧ p.present = false) {r j : Nat} {q : Stop}
    (hq : (s.round r).stops[j]? = some q) (hc : q.container = c) (hpending : q.state = some .pending) :
    ((s.writeContainer c p).round r).stops[j]? = some { q with state := some .skipped } := by
  by_cases hclear : (s.container c).cfg.present = true ∧ p.present = false
  · obtain ⟨hold, hnew⟩ := hclear
    obtain ⟨hskips, hwfCleared⟩ := cleared_stops hwf
    obtain ⟨st, hthen, hst⟩ := hskips r j q hq
    rw [writeContainer_clears hold hnew, clearPresent_eq]
    exact skipPendingOf_skips hwfCleared c hthen hc (hst.imp_left (fun h => h.trans hpending))
  · have hfraction := h.resolve_right hclear
    have hwritten : s.withContainer c p = (s.updContainer c (fun k => { k with cfg := p })).skipPendingOf c := if_neg hfraction
    have hrounds : (s.writeContainer c p).rounds = (s.withContainer c p).rounds := by
      cases hold : (s.container c).cfg.present <;> cases hnew : p.present
      · rw [writeContainer_absent hold hnew]
      · rw [writeContainer_sets hold hnew, rounds_setPresent]
      · exact absurd ⟨hold, hnew⟩ hclear
      · rw [writeContainer_keeps hold hnew, rounds_keepPresent]
    rw [State.round_congr hrounds r, hwritten]
    refine skipPendingOf_skips (s := s.updContainer c (fun k => { k with cfg := p })) hwf c (st := q.state) hq hc
      (Or.inl hpending)

/-- A write that keeps the fraction and the presence leaves every round. -/
theorem rounds_writeContainer (hfraction : (s.container c).cfg.fraction = p.fraction)
    (hpresent : (s.container c).cfg.present = true → p.present = true) : (s.writeContainer c p).rounds = s.rounds := by
  cases hold : (s.container c).cfg.present <;> cases hnew : p.present
  · rw [writeContainer_absent hold hnew, rounds_withContainer_same hfraction]
  · rw [writeContainer_sets hold hnew, rounds_setPresent, rounds_withContainer_same hfraction]
  · exact absurd ((hpresent hold).symm.trans hnew) (by decide)
  · rw [writeContainer_keeps hold hnew, rounds_keepPresent, rounds_withContainer_same hfraction]

end

end Sys2Proof.Machine
end

section
/-! PROOFS. TABLE_WRITE: what a write leaves of the receive buffer and the priorities, and its checks in their order (R182). -/

namespace Sys2Proof.Machine

/-! ### What a write of any record leaves of the receive buffer, and a choice of a class's priority -/

theorem rx_abandonSave (s : State) : s.abandonSave.link.rx = s.link.rx := by
  unfold State.abandonSave
  split <;> rfl

theorem writes_rx (k : List Frame) : Writes (fun t => t.link.rx = k) where
  toSmall := small_rx k
  relay := fun s i f _ h => by rw [State.appendRelay, s.updLine_link]; exact h
  params := fun _ _ _ _ h => h
  stationCfg := fun _ _ _ _ h => h
  cardCfg := fun _ _ _ _ h => h
  householdCfg := fun _ _ _ _ h => h
  writeRound := fun _ _ _ _ _ h => h
  draft := fun _ _ _ _ _ _ _ h => h
  banks := fun _ _ _ _ h => h
  fractions := fun _ _ _ _ h => h
  shapes := fun _ _ _ _ h => h
  priority := fun _ _ _ _ h => h
  clearFlags := fun _ _ h => h
  clock := fun _ _ h => h
  part := fun _ _ h => h
  abandonSave := fun s h => (rx_abandonSave s).trans h
  writeContainer := fun _ c p _ h => (small_rx k).writeContainer h (fun _ _ _ h => h) (fun _ _ h => h) c p

theorem small_priority (k p : Nat) : Small (fun t => (t.noticeClass k).priority = p) where
  fillOnly := fun _ _ _ _ _ _ h => h
  setStatus := fun s c st n h => by rw [noticeClass_setStatus]; exact h
  setForced := fun _ _ _ h => h
  setMissed := fun _ _ h => h
  clearMarks := fun _ _ h => h
  station := fun _ _ _ _ h => h
  card := fun _ _ _ _ h => h
  household := fun _ _ _ _ h => h
  round := fun _ _ _ _ h => h
  appendStop := fun _ _ _ _ _ _ h => h
  rounds := fun _ _ _ _ h => h
  planner := fun _ _ _ h => h
  watch := fun _ _ _ h => h
  line := fun s l f _ h => by rw [State.noticeClass_updLine]; exact h
  journal := fun _ _ h => h
  raise := fun s n a v h => (priority_raise n a v k).trans h
  toCenter := fun _ _ _ _ h => h
  takeParked := fun _ _ _ _ h => h
  containers := fun _ _ _ _ _ h => h
  container := fun _ _ _ _ _ h => h

theorem priority_kickBoth (s : State) (k : Nat) : (s.kickBoth.noticeClass k).priority = (s.noticeClass k).priority :=
  (small_priority k _).kickBoth rfl

/-! ### The checks -/

theorem tableForms_write {q : TableForm} (hq : q ∈ tableForms) : ∃ t : Table,
    Table.ofCode q.code.toNat = some t ∧ t.imageLength = q.length ∧ t.writeRange = (q.first, q.last) := by
  simp only [tableForms, List.mem_cons, List.not_mem_nil, or_false] at hq
  obtain rfl | rfl | rfl | rfl | rfl | rfl | rfl | rfl | rfl | rfl := hq
  all_goals exact ⟨_, rfl, rfl, rfl⟩

theorem be_index {hi lo : Byte} : be 2 (hi.toNat * 256 + lo.toNat) = [hi, lo] := by
  have hspelled := be_ofBe [hi, lo]
  rwa [ofBe_two] at hspelled

section
variable {s : State} {f : Frame} {rest : List Frame} {o : List Byte}

/-- A taken TABLE_WRITE: the body's state with its reply. -/
theorem exec_tableWrite (ht : s.takes f rest) (hf : f.asks 0x01#8 o) {t : State} {a : Answer}
    (hb : tableWriteBody f (s.dropFrame rest) = (t, a)) :
    exec .tableWrite s = .next (t.withReply (f.reply 0x22#8 (BitVec.ofNat 8 a.result.code) 0x01#8 a.data)) :=
  congrArg Host.Outcome.next (State.handle_done ht hf rfl (by decide) hb)

/-- A refused TABLE_WRITE: nothing but the reply. -/
theorem exec_tableWrite_refused (ht : s.takes f rest) (hf : f.asks 0x01#8 o) (r : Result)
    (hb : tableWriteBody f (s.dropFrame rest) = (s.dropFrame rest, replyOnly r)) :
    exec .tableWrite s = .next (s.answered f rest (BitVec.ofNat 8 r.code) 0x01#8 []) :=
  congrArg Host.Outcome.next (State.handle_refused ht hf rfl (by decide) r hb)

variable {t : State} {code hi lo : Byte} {more : List Byte} {table : Table}

/-- A TABLE_WRITE whose table is known, by its index and its length. -/
theorem tableWriteBody_known (hf : f.asks 0x01#8 (code :: hi :: lo :: more)) (hsaving : t.part.saving = false)
    (hcode : Table.ofCode code.toNat = some table) : tableWriteBody f t =
      if !inRange table.writeRange (hi.toNat * 256 + lo.toNat) then (t, replyOnly .badIndex)
      else if more.length ≠ table.maskLength + table.imageLength then (t, replyOnly .badLength)
      else t.writeTable table (hi.toNat * 256 + lo.toNat) (more.take table.maskLength) (more.drop table.maskLength) := by
  have htable : field (code :: hi :: lo :: more) 0 1 = code.toNat := ofBe_one code
  have hindex : field (code :: hi :: lo :: more) 1 2 = hi.toNat * 256 + lo.toNat := ofBe_two hi lo
  have hlength : (code :: hi :: lo :: more).length = more.length + 3 := rfl
  have hsize : (more.length + 3 ≠ 3 + table.maskLength + table.imageLength) =
      (more.length ≠ table.maskLength + table.imageLength) := by
    refine propext (not_congr ?_)
    omega
  have hrecord : (code :: hi :: lo :: more).drop (3 + table.maskLength) = more.drop table.maskLength := by
    rw [Nat.add_comm]
    rfl
  have hmask : (code :: hi :: lo :: more).drop 3 = more := rfl
  simp only [tableWriteBody, operandsOf_asks hf, hsaving, htable, hcode, hindex, hlength, hsize, hrecord, hmask]
  rw [if_neg Bool.false_ne_true, if_neg (by omega), if_neg (by omega)]

/-- The checks on the request itself: a save, the lengths, the table and the index. -/
theorem tableWrite_requestChecks (ht : s.takes f rest) (hf : f.asks 0x01#8 o) :
    let no := fun (result : Byte) => exec .tableWrite s = .next (s.answered f rest result 0x01#8 [])
    (s.part.saving = true → no 0x02#8) ∧
    (s.part.saving = false →
      (o = [] → no 0x06#8) ∧
      (∀ t more, o = t :: more → 9 < t.toNat → no 0x04#8) ∧
      (∀ t more, o = t :: more → t.toNat ≤ 9 → more.length < 2 → no 0x06#8) ∧
      (∀ q ∈ tableForms, ∀ hi lo more, o = q.code :: hi :: lo :: more →
        let i := hi.toNat * 256 + lo.toNat
        (i < q.first ∨ q.last < i → no 0x05#8) ∧
        (q.first ≤ i → i ≤ q.last → more.length ≠ (q.length + 7) / 8 + q.length → no 0x06#8))) := by
  refine ⟨fun hsaving => ?_, fun hsaving => ⟨fun ho => ?_, fun t more ho hout => ?_, fun t more ho hin hshort => ?_,
    fun q hq hi lo more ho => ?_⟩⟩
  · refine exec_tableWrite_refused ht hf .busy ?_
    unfold tableWriteBody
    dsimp only
    exact if_pos hsaving
  · subst ho
    refine exec_tableWrite_refused ht hf .badLength ?_
    simp only [tableWriteBody, operandsOf_asks hf]
    exact (if_neg (by simp [State.dropFrame, hsaving])).trans (if_pos Nat.one_pos)
  · subst ho
    have htable : field (t :: more) 0 1 = t.toNat := ofBe_one t
    refine exec_tableWrite_refused ht hf .badTable ?_
    simp only [tableWriteBody, operandsOf_asks hf, htable, Table.ofCode_outside hout]
    exact (if_neg (by simp [State.dropFrame, hsaving])).trans (if_neg (by simp))
  · subst ho
    have htable : field (t :: more) 0 1 = t.toNat := ofBe_one t
    obtain ⟨table, hcode⟩ := Table.ofCode_inside hin
    refine exec_tableWrite_refused ht hf .badLength ?_
    simp only [tableWriteBody, operandsOf_asks hf, htable, hcode]
    rw [if_neg (by simp [State.dropFrame, hsaving]), if_neg (by simp), if_pos (by simp only [List.length_cons]; omega)]
  · intro i
    subst ho
    obtain ⟨table, hcode, hlength, hrange⟩ := tableForms_write hq
    have hbody := tableWriteBody_known (t := s.dropFrame rest) hf hsaving hcode
    have hin : inRange table.writeRange i = (decide (q.first ≤ i) && decide (i ≤ q.last)) := by rw [hrange]; rfl
    refine ⟨fun hout => exec_tableWrite_refused ht hf .badIndex (hbody.trans (if_pos ?_)), fun hlo hhi hlen =>
      exec_tableWrite_refused ht hf .badLength (hbody.trans ?_)⟩
    · rw [hin]
      simp only [Bool.not_eq_true', Bool.and_eq_false_iff, decide_eq_false_iff_not]
      omega
    · rw [if_neg (by rw [hin]; simp [hlo, hhi]), if_pos (by rw [Table.maskLength, hlength]; exact hlen)]

/-- A TABLE_WRITE whose table, index and length are right comes to its record. -/
theorem tableWriteBody_right (hf : f.asks 0x01#8 (code :: hi :: lo :: more)) (hsaving : t.part.saving = false)
    (hcode : Table.ofCode code.toNat = some table) {i : Nat} (hi' : hi.toNat * 256 + lo.toNat = i)
    (hlo : table.writeRange.1 ≤ i) (hhi : i ≤ table.writeRange.2) (hmore : more.length = table.maskLength + table.imageLength) :
    tableWriteBody f t = t.writeTable table i (more.take table.maskLength) (more.drop table.maskLength) := by
  rw [tableWriteBody_known hf hsaving hcode, hi', if_neg (by simp [inRange, hlo, hhi]), if_neg (not_not.mpr hmore)]

end

/-! ### The record -/

theorem configBytes_dropFrame (s : State) (rest : List Frame) (t : Table) (i : Nat) :
    (s.dropFrame rest).configBytes t i = s.configBytes t i := by
  cases t <;> rfl

theorem crossOk_dropFrame (s : State) (rest : List Frame) (i : Nat) (r : Record) :
    (s.dropFrame rest).crossOk i r = s.crossOk i r := by
  cases r <;> rfl

section
variable {s : State} {t : Table} {i : Nat} {mask record : List Byte}

theorem writeTable_badState (h : t = .round ∧ ((s.round i).state = .active ∨ (s.round i).state = .closing)) :
    s.writeTable t i mask record = (s, replyOnly .badState) := if_pos h

variable (hidle : ¬ (t = .round ∧ ((s.round i).state = .active ∨ (s.round i).state = .closing)))
include hidle

theorem writeTable_unread (h : t.parse (t.clampBytes (mergeMasked (s.configBytes t i) record mask)) = none) :
    s.writeTable t i mask record = (s, replyOnly .badValue) := by
  unfold State.writeTable
  rw [if_neg hidle]
  dsimp only
  rw [h]

theorem writeTable_crossed {r : Record}
    (h : t.parse (t.clampBytes (mergeMasked (s.configBytes t i) record mask)) = some r) (hcross : s.crossOk i r = false) :
    s.writeTable t i mask record = (s, replyOnly .badValue) := by
  unfold State.writeTable
  rw [if_neg hidle]
  dsimp only
  rw [h]
  dsimp only
  rw [hcross]
  rfl

theorem writeTable_taken {r : Record}
    (h : t.parse (t.clampBytes (mergeMasked (s.configBytes t i) record mask)) = some r) (hcross : s.crossOk i r = true) :
    s.writeTable t i mask record = ((s.writeRecordOf i r).kickBoth,
      replyWith (if t.clampBytes (mergeMasked (s.configBytes t i) record mask) = mergeMasked (s.configBytes t i) record mask
        then .ok else .okClamped) ((s.writeRecordOf i r).kickBoth.writeReply t i)) := by
  unfold State.writeTable
  rw [if_neg hidle]
  dsimp only
  rw [h]
  dsimp only
  rw [hcross]
  rfl

end

end Sys2Proof.Machine
end

section
/-! PROOFS. TABLE_WRITE: the writes of any record, of a BANK, of a ROUND at work and of a NOTICE_CLASS (R182). -/

namespace Sys2Proof.Machine

/-! ### A choice and a reply -/

theorem onlyChose_withReply {s t : State} (h : s.onlyChose t) (r : Frame) : (s.withReply r).onlyChose (t.withReply r) := by
  obtain ⟨hframe, hrelayA, hrelayB, hclasses, hcontainers⟩ := h
  exact ⟨congrArg (fun x : State => x.withReply r) hframe, hrelayA, hrelayB, hclasses, hcontainers⟩

theorem bank_of_onlyChose {s t : State} (h : s.onlyChose t) (i : Nat) : t.bank i = s.bank i := by
  have hbanks : t.banks = s.banks := by
    have hframe := congrArg State.banks h.1
    exact hframe
  unfold State.bank
  rw [hbanks]

/-- A masked byte of two. -/
theorem mergeMasked_two (a b x y m : Byte) : mergeMasked [a, b] [x, y] [m] =
    [if m.getLsbD 7 then x else a, if m.getLsbD 6 then y else b] := by
  simp [mergeMasked, maskBit, byteAt, List.range_succ]

theorem mergeMasked_first (a x m : Byte) (more : List Byte) : mergeMasked [a] (x :: more) [m] =
    [if m.getLsbD 7 then x else a] := by
  simp [mergeMasked, maskBit, byteAt]

/-! ### Any record -/

section
variable {s : State} {f : Frame} {rest : List Frame} {o : List Byte}

theorem dropFrame_of_rx {t : State} (h : t.link.rx = rest) : t.dropFrame rest = t := by
  subst h
  rfl

/-- The state after a taken write has the receive buffer of the request taken. -/
theorem rx_written {t : Table} {i : Nat} {r : Record} {bytes : List Byte} (hparse : t.parse (t.clampBytes bytes) = some r)
    (hlo : t.writeRange.1 ≤ i) (hhi : i ≤ t.writeRange.2) (hcross : s.crossOk i r = true) :
    ((s.dropFrame rest).writeRecordOf i r).kickBoth.link.rx = rest := by
  have htaken : Record.taken (s.dropFrame rest) i r := ⟨t, bytes, hparse, hlo, hhi, by rw [crossOk_dropFrame]; exact hcross⟩
  exact (rx_kickBoth _).trans ((writes_rx rest).writeRecordOf rfl i r htaken)

theorem index_bytes {t : Table} {i : Nat} (hhi : i ≤ t.writeRange.2) :
    ∃ hi lo : Byte, be 2 i = [hi, lo] ∧ hi.toNat * 256 + lo.toNat = i := by
  have hbound : i < 256 ^ 2 := by
    have hlast : t.writeRange.2 ≤ 4095 := by cases t <;> decide
    omega
  have hspelled := ofBe_be hbound
  rw [be_two] at hspelled ⊢
  rw [ofBe_two] at hspelled
  exact ⟨_, _, rfl, hspelled⟩

theorem code_byte (t : Table) : ∃ code : Byte, be 1 t.code = [code] ∧ Table.ofCode code.toNat = some t := by
  cases t <;> exact ⟨_, rfl, rfl⟩

variable (ht : s.takes f rest) (hf : f.asks 0x01#8 o) (hsaving : s.part.saving = false)
include ht hf hsaving

omit ht in
/-- A write whose request is right, by its table, index, mask and record. -/
theorem tableWriteBody_any {t : Table} {i : Nat} {mask record : List Byte} (ho : o = be 1 t.code ++ be 2 i ++ mask ++ record)
    (hlo : t.writeRange.1 ≤ i) (hhi : i ≤ t.writeRange.2) (hmask : mask.length = t.maskLength)
    (hrecord : record.length = t.imageLength) :
    tableWriteBody f (s.dropFrame rest) = (s.dropFrame rest).writeTable t i mask record := by
  obtain ⟨hi, lo, hindex, hvalue⟩ := index_bytes hhi
  obtain ⟨code, hbyte, hcode⟩ := code_byte t
  have hbytes : o = code :: hi :: lo :: (mask ++ record) := by
    rw [ho, hbyte, hindex]
    rfl
  subst hbytes
  rw [tableWriteBody_right (t := s.dropFrame rest) hf hsaving hcode hvalue hlo hhi
    (by rw [List.length_append, hmask, hrecord]), ← hmask, List.take_left, List.drop_left]

theorem tableWrite_any {t : Table} {i : Nat} {mask record : List Byte} (ho : o = be 1 t.code ++ be 2 i ++ mask ++ record)
    (hlo : t.writeRange.1 ≤ i) (hhi : i ≤ t.writeRange.2) (hmask : mask.length = t.maskLength)
    (hrecord : record.length = t.imageLength) (hidle : ¬ (t = .round ∧ ((s.round i).state = .active ∨ (s.round i).state = .closing))) :
    let no := fun (result : Byte) => exec .tableWrite s = .next (s.answered f rest result 0x01#8 [])
    let merged := mergeMasked (s.configBytes t i) record mask
    let bytes := t.clampBytes merged
    (t.parse bytes = none → no 0x07#8) ∧
    (∀ r, t.parse bytes = some r → s.crossOk i r = false → no 0x07#8) ∧
    (∀ r, t.parse bytes = some r → s.crossOk i r = true →
      let v := ((s.dropFrame rest).writeRecordOf i r).kickBoth
      exec .tableWrite s = .next (v.withReply (f.reply 0x22#8 (if bytes = merged then 0x00#8 else 0x01#8) 0x01#8
        (be 1 t.code ++ be 2 i ++ v.image t i))) ∧ v.link.rx = rest) := by
  intro no merged bytes
  have hbody := tableWriteBody_any (rest := rest) hf hsaving ho hlo hhi hmask hrecord
  have hconfig := configBytes_dropFrame s rest t i
  refine ⟨fun hparse => ?_, fun r hparse hcross => ?_, fun r hparse hcross => ?_⟩
  · refine exec_tableWrite_refused ht hf .badValue (hbody.trans (writeTable_unread (s := s.dropFrame rest) hidle ?_))
    rw [hconfig]
    exact hparse
  · refine exec_tableWrite_refused ht hf .badValue (hbody.trans (writeTable_crossed (s := s.dropFrame rest) hidle (r := r) ?_ ?_))
    · rw [hconfig]
      exact hparse
    · rw [crossOk_dropFrame]
      exact hcross
  · intro v
    have htaken := writeTable_taken (s := s.dropFrame rest) (mask := mask) (record := record) hidle (r := r)
      (by rw [hconfig]; exact hparse) (by rw [crossOk_dropFrame]; exact hcross)
    rw [hconfig] at htaken
    refine ⟨(exec_tableWrite ht hf (hbody.trans htaken)).trans ?_, rx_written hparse hlo hhi hcross⟩
    by_cases hsame : bytes = merged
    · rw [if_pos hsame, if_pos hsame]
      rfl
    · rw [if_neg hsame, if_neg hsame]
      rfl

/-! ### A ROUND at work -/

theorem tableWrite_roundAtWork {r : Byte} {more : List Byte} (ho : o = 0x08#8 :: 0x00#8 :: r :: more) (hr : r.toNat ≤ 3)
    (hmore : more.length = 75) (hstate : (s.round r.toNat).state = .active ∨ (s.round r.toNat).state = .closing) :
    exec .tableWrite s = .next (s.answered f rest 0x08#8 0x01#8 []) := by
  subst ho
  refine exec_tableWrite_refused ht hf .badState ?_
  rw [tableWriteBody_right (t := s.dropFrame rest) (table := .round) (i := r.toNat) hf hsaving rfl (by simp) (Nat.zero_le _)
    hr hmore]
  exact writeTable_badState ⟨rfl, hstate⟩

end

end Sys2Proof.Machine
end

section
/-! PROOFS. TABLE_WRITE: a BANK and a NOTICE_CLASS byte by byte, and the statement (R182). -/

namespace Sys2Proof.Machine

theorem be_two_byte (b : Byte) : be 2 b.toNat = [0x00#8, b] := by
  have hspelled := be_index (hi := 0x00#8) (lo := b)
  simpa using hspelled

theorem be_one (n : Nat) : be 1 n = [BitVec.ofNat 8 n] := by
  simp [be]

theorem ofYesNo_of_le {r : Byte} (h : r.toNat ≤ 1) : ofYesNo (decide (r.toNat = 1)) = r ∧
    yesNo r = some (decide (r.toNat = 1)) := by
  obtain hr | hr : r = 0#8 ∨ r = 1#8 := by bv_omega
  · subst hr
    exact ⟨rfl, rfl⟩
  · subst hr
    exact ⟨rfl, rfl⟩

theorem yesNo_of_lt {r : Byte} (h : 1 < r.toNat) : yesNo r = none := by
  have hzero : r ≠ 0#8 := by bv_omega
  have hone : r ≠ 1#8 := by bv_omega
  unfold yesNo
  rw [if_neg hzero, if_neg hone]

section
variable {s : State} {f : Frame} {rest : List Frame} {o : List Byte} (ht : s.takes f rest) (hf : f.asks 0x01#8 o)
  (hsaving : s.part.saving = false)
include ht hf hsaving

/-- A write of a BANK record. -/
theorem tableWrite_bank {b m residential display : Byte} (ho : o = [0x02#8, 0x00#8, b, m, residential, display])
    (hb : b.toNat ≤ 15) :
    let no := fun (result : Byte) => exec .tableWrite s = .next (s.answered f rest result 0x01#8 [])
    let old := s.bank b.toNat
    let r := if m.getLsbD 7 then residential else if old.residentialOnly then 1#8 else 0#8
    let n := if m.getLsbD 6 then display else BitVec.ofNat 8 old.displayNumber
    (1 < r.toNat → no 0x07#8) ∧
    (r.toNat ≤ 1 → ∃ u, exec .tableWrite s = .next u ∧
      ({ s with banks := u.banks }.answered f rest 0x00#8 0x01#8 [0x02#8, 0x00#8, b, r, n]).onlyChose u ∧
      u.bank b.toNat = { residentialOnly := decide (r.toNat = 1), displayNumber := n.toNat } ∧
      ∀ j, j ≠ b.toNat → u.bank j = s.bank j) := by
  intro no old r n
  have hmerged : mergeMasked (s.configBytes .bank b.toNat) [residential, display] [m] = [r, n] := by
    have hconfig : s.configBytes .bank b.toNat = [ofYesNo old.residentialOnly, BitVec.ofNat 8 old.displayNumber] := by
      show [ofYesNo old.residentialOnly] ++ be 1 old.displayNumber = _
      rw [be_one]
      rfl
    rw [hconfig]
    exact mergeMasked_two _ _ _ _ m
  have hnumber : field [r, n] 1 1 = n.toNat := ofBe_one n
  have hbytes : o = be 1 Table.bank.code ++ be 2 b.toNat ++ [m] ++ [residential, display] := by
    rw [ho, be_two_byte]
    rfl
  obtain ⟨hunread, -, htaken⟩ := tableWrite_any ht hf hsaving (t := .bank) (i := b.toNat) (mask := [m])
    (record := [residential, display]) hbytes (Nat.zero_le _) hb rfl rfl (by simp)
  rw [hmerged] at hunread htaken
  refine ⟨fun hover => hunread ?_, fun hlegal => ?_⟩
  · show (parseBank [r, n]).map Record.bank = none
    have hno : yesNo (byteAt [r, n] 0) = none := yesNo_of_lt hover
    rw [parseBank, hno]
    rfl
  · obtain ⟨hback, hyes⟩ := ofYesNo_of_le hlegal
    have hparse : Table.bank.parse (Table.bank.clampBytes [r, n]) =
        some (.bank { residentialOnly := decide (r.toNat = 1), displayNumber := n.toNat }) := by
      show (parseBank [r, n]).map Record.bank = _
      have hread : yesNo (byteAt [r, n] 0) = some (decide (r.toNat = 1)) := hyes
      rw [parseBank, hread, hnumber]
      rfl
    obtain ⟨hexec, -⟩ := htaken _ hparse rfl
    generalize hw : (s.dropFrame rest).writeRecordOf b.toNat
      (.bank { residentialOnly := decide (r.toNat = 1), displayNumber := n.toNat }) = w at hexec
    have hchose := onlyChose_kickBoth w
    have hbank : w.bank b.toNat = { residentialOnly := decide (r.toNat = 1), displayNumber := n.toNat } := by
      rw [← hw]
      exact Tab.get_set_same
    have himage : w.kickBoth.image .bank b.toNat = [r, n] := by
      show (w.kickBoth.bank b.toNat).bytes = [r, n]
      rw [bank_of_onlyChose hchose, hbank]
      unfold Bank.bytes
      rw [hback, be_one_toNat]
      rfl
    have hbanks : w.kickBoth.banks = w.banks := by
      have hframe := congrArg State.banks hchose.1
      exact hframe
    rw [himage, if_pos (show Table.bank.clampBytes [r, n] = [r, n] from rfl), be_two_byte] at hexec
    refine ⟨_, hexec, ?_, (bank_of_onlyChose hchose _).trans hbank, fun j hj => ?_⟩
    · have hsame : ({ s with banks := w.kickBoth.banks } : State).answered f rest 0x00#8 0x01#8 [0x02#8, 0x00#8, b, r, n] =
          w.withReply (f.reply 0x22#8 0x00#8 0x01#8 [0x02#8, 0x00#8, b, r, n]) := by
        rw [hbanks, ← hw]
        rfl
      exact hsame ▸ onlyChose_withReply hchose _
    · refine (bank_of_onlyChose hchose j).trans ?_
      rw [← hw]
      exact Tab.get_set_other hj

/-- A write of a NOTICE_CLASS record. -/
theorem tableWrite_noticeClass {k m p : Byte} {more : List Byte} (ho : o = 0x09#8 :: 0x00#8 :: k :: m :: p :: more)
    (hmore : more.length = 5) (hlo : 1 ≤ k.toNat) (hhi : k.toNat ≤ 24) :
    let old := s.noticeClass k.toNat
    let v := if m.getLsbD 7 then p.toNat else old.priority % 256
    ∃ (w u : State) (data : List Byte), exec .tableWrite s = .next u ∧ w.onlyChose u ∧
      { w with classes := s.classes } =
        s.answered f rest (if v ≤ 3 then 0x00#8 else 0x01#8) 0x01#8 ([0x09#8, 0x00#8, k] ++ be 1 (min 3 v) ++ data) ∧
      w.noticeClass k.toNat = { old with priority := min 3 v } ∧
      ∀ j, j ≠ k.toNat → w.noticeClass j = s.noticeClass j := by
  intro old v
  have hmerged : ∃ x : Byte, mergeMasked (s.configBytes .noticeClass k.toNat) (p :: more) [m] = [x] ∧ x.toNat = v := by
    have hconfig : s.configBytes .noticeClass k.toNat = [BitVec.ofNat 8 old.priority] := be_one old.priority
    rw [hconfig]
    refine ⟨_, mergeMasked_first _ p m more, ?_⟩
    rw [apply_ite BitVec.toNat, BitVec.toNat_ofNat]
  obtain ⟨x, hmerged, hx⟩ := hmerged
  have hclamped : Table.noticeClass.clampBytes [x] = be 1 (min 3 v) := by
    have hfield : field [x] 0 1 = v := (ofBe_one x).trans hx
    show clampField [x] ⟨0, 1, 0, 3⟩ = _
    unfold clampField clamp
    rw [hfield]
    simp
  have hsame : (be 1 (min 3 v) = [x]) ↔ v ≤ 3 := by
    have hread : be 1 x.toNat = [x] := be_one_toNat x
    refine ⟨fun h => ?_, fun h => by rw [Nat.min_eq_right h, ← hx, hread]⟩
    have hvalue := congrArg ofBe h
    rw [ofBe_be (by omega), ofBe_one, hx] at hvalue
    omega
  have hbytes : o = be 1 Table.noticeClass.code ++ be 2 k.toNat ++ [m] ++ (p :: more) := by
    rw [ho, be_two_byte]
    rfl
  obtain ⟨-, -, htaken⟩ := tableWrite_any ht hf hsaving (t := .noticeClass) (i := k.toNat) (mask := [m])
    (record := p :: more) hbytes hlo hhi rfl (by rw [List.length_cons, hmore]; rfl) (by simp)
  rw [hmerged, hclamped] at htaken
  have hparse : Table.noticeClass.parse (be 1 (min 3 v)) = some (.noticeClass (min 3 v)) := by
    have hfield : field (be 1 (min 3 v)) 0 1 = min 3 v := by
      unfold field
      rw [List.drop_zero, List.take_of_length_le (by simp)]
      exact ofBe_be (lt_of_le_of_lt (Nat.min_le_left 3 v) (by decide))
    show some (Record.noticeClass (field (be 1 (min 3 v)) 0 1)) = _
    rw [hfield]
  obtain ⟨hexec, -⟩ := htaken _ hparse rfl
  generalize hw : (s.dropFrame rest).writeRecordOf k.toNat (.noticeClass (min 3 v)) = w at hexec
  have hclass : ∀ j, w.noticeClass j = if j = k.toNat then { old with priority := min 3 v } else s.noticeClass j := by
    intro j
    rw [← hw]
    exact State.noticeClass_updClass _ _ _ _
  have himage : w.kickBoth.image .noticeClass k.toNat = be 1 (min 3 v) ++ (w.kickBoth.noticeClass k.toNat).runtime := by
    show be 1 (w.kickBoth.noticeClass k.toNat).priority ++ (w.kickBoth.noticeClass k.toNat).runtime = _
    rw [priority_kickBoth, hclass, if_pos rfl]
  rw [himage, be_two_byte] at hexec
  refine ⟨_, _, (w.kickBoth.noticeClass k.toNat).runtime, hexec, onlyChose_withReply (onlyChose_kickBoth w) _, ?_, ?_, fun j hj => ?_⟩
  · rw [← List.append_assoc, if_congr hsame rfl rfl, ← hw]
    rfl
  · exact (hclass _).trans (if_pos rfl)
  · exact (hclass j).trans (if_neg hj)

end

end Sys2Proof.Machine
end

section
/-! PROOFS. TABLE_WRITE: the statement, its requests and the writes of the records (R182). -/

namespace Sys2Proof.Machine

/-- The answer of a taken write, as the statement puts it. -/
theorem exec_tableWrite_taken (s : State) (f : Frame) (rest : List Frame) (o : List Byte) (ht : s.takes f rest)
    (hf : f.asks 0x01#8 o) (hsaving : s.part.saving = false) {t : Table} {i : Nat} {mask record : List Byte}
    (ho : o = be 1 t.code ++ be 2 i ++ mask ++ record) (hlo : t.writeRange.1 ≤ i) (hhi : i ≤ t.writeRange.2)
    (hmask : mask.length = t.maskLength) (hrecord : record.length = t.imageLength)
    (hidle : ¬ (t = .round ∧ ((s.round i).state = .active ∨ (s.round i).state = .closing))) {r : Record}
    (hparse : t.parse (t.clampBytes (mergeMasked (s.configBytes t i) record mask)) = some r) (hcross : s.crossOk i r = true) :
    let v := ((s.dropFrame rest).writeRecordOf i r).kickBoth
    exec .tableWrite s = .next (v.answered f rest
      (if t.clampBytes (mergeMasked (s.configBytes t i) record mask) = mergeMasked (s.configBytes t i) record mask
        then 0x00#8 else 0x01#8) 0x01#8 (be 1 t.code ++ be 2 i ++ v.image t i)) := by
  intro v
  obtain ⟨-, -, htaken⟩ := tableWrite_any ht hf hsaving ho hlo hhi hmask hrecord hidle
  obtain ⟨hexec, hrx⟩ := htaken r hparse hcross
  rw [State.answered_eq, dropFrame_of_rx hrx]
  exact hexec

/-- The clause of a station's record. -/
theorem writeStation_leaves (s : State) (i : Nat) (p : StationCfg) :
    let k := s.station i
    let u := s.writeRecordOf i (.station p)
    (∀ j, j ≠ i → u.station j = s.station j) ∧ (∀ c, c ∉ containersOf i → u.container c = s.container c) ∧
    (k.cfg.enabled = p.enabled → u = s.updStation i (fun k => { k with cfg := p })) ∧
    (k.cfg.enabled = true → p.enabled = false →
      u.station i = { k with cfg := p, state := .disabled } ∧ u.noticeClass 8 = s.noticeClass 8 ∧
      (∀ l, l ≠ lineOf i → u.line l = s.line l) ∧
      u.line (lineOf i) = { s.line (lineOf i) with
        priority := (s.line (lineOf i)).priority.filter (fun j => j ≠ i)
        relay := (s.line (lineOf i)).relay.filter (fun e => e.station ≠ i)
        turn := (s.line (lineOf i)).turn.filter (fun t => decide (t.station ≠ i)) } ∧
      ∀ c ∈ containersOf i,
        let k' := s.container c
        let bars : BarSet := { k'.inlet.bars with
          stationDisabled := true, stationLost := k'.inlet.bars.stationLost && decide (k.state ≠ .lost) }
        (u.container c).cfg = k'.cfg ∧ (u.container c).forced = k'.forced ∧
        (k'.inlet.bars.stationDisabled = false → (u.container c).inlet = k'.inlet.endedBy bars ∧
          (u.container c).fill = { k'.fillEnded with request := k'.outstandingGone k'.fillEnded.request })) ∧
    (k.cfg.enabled = false → p.enabled = true →
      u.station i = { k with cfg := p, state := .unknown, missCount := 0, seen := false } ∧
      ∀ c ∈ containersOf i,
        let n := (s.container c).inlet
        let bars : BarSet := { n.bars with notSeen := true, stationDisabled := false }
        (u.container c).inlet.bars = bars ∧
        (n.state = .barred → u.container c = { s.container c with inlet := { n with bars := bars } })) := by
  intro k u
  obtain ⟨hstations, hcontainers⟩ := writeStation_others (s := s) (i := i) (p := p)
  have hline : ∀ l, (s.withStation i p).line l = s.line l := fun l => by cases l <;> rfl
  refine ⟨hstations, hcontainers, fun h => writeStation_same h, fun hold hnew => ?_, fun hold hnew => ?_⟩
  · have hu : u = (s.withStation i p).disableStation i := writeStation_disables hold hnew
    rw [hu]
    refine ⟨?_, noticeClass_disableStation (s := s.withStation i p) (by decide), fun l hl => ?_, ?_, fun c hc => ?_⟩
    · rw [station_disableStation, if_pos rfl, station_withStation, if_pos rfl]
    · rw [line_writeDisabled, if_neg hl, hline]
    · rw [line_writeDisabled, if_pos rfl, hline]
    · intro k' bars
      obtain ⟨hcfg, hforced⟩ := shows_disableStation (s.withStation i p) i hc
      refine ⟨hcfg, hforced, fun hclear => ?_⟩
      obtain ⟨hinlet, hfill⟩ := inlet_disableStation (s.withStation i p) i hc hclear
      refine ⟨hinlet.trans ?_, hfill⟩
      have hlost : (!decide (((s.withStation i p).station i).state = .lost)) = decide (k.state ≠ .lost) := by
        rw [station_withStation, if_pos rfl]
        exact decide_not.symm
      unfold BarSet.disabledAt
      rw [hlost]
      rfl
  · have hu : u = (s.withStation i p).enableStation i := writeStation_enables hold hnew
    rw [hu]
    refine ⟨?_, fun c hc => container_enableStation (s.withStation i p) i hc⟩
    rw [station_enableStation, if_pos rfl, station_withStation, if_pos rfl]

/-- The clause of a shape's record. -/
theorem writeShape_leaves (s : State) (i : Nat) (p : Shape) :
    let u := s.writeRecordOf i (.shape p)
    { u with containers := s.containers, planner := s.planner } =
      { s with shapes := Tab.set Shape.blank s.shapes i p } ∧
    ∀ c,
      let k := s.container c
      (s.shape i = p ∨ 128 ≤ c ∨ k.cfg.present = false ∨ k.cfg.shape ≠ i → u.container c = k) ∧
      (s.shape i ≠ p → c < 128 → k.cfg.present = true → k.cfg.shape = i → u.container c = { k with fill := { k.fill with
        estimate := none, risePending := false, status := .unknown, fullCount := 0
        request := if k.live = true ∧ k.fill.request = .idle then (if k.inlet.waits then .deferred else .pending)
          else k.fill.request } }) := by
  intro u
  refine ⟨writeShape_touches s i p, fun c => ?_⟩
  intro k
  have hcontainer : u.container c = if s.shape i ≠ p ∧ c < 128 then k.reshaped i else k := container_writeShape s i p c
  refine ⟨fun h => ?_, fun hshape hc hpresent hi => ?_⟩
  · rw [hcontainer]
    split
    next hchanged =>
      obtain ⟨hshape, hc⟩ := hchanged
      refine if_neg (fun hnamed => ?_)
      obtain ⟨hpresent, hi⟩ := hnamed
      obtain h | h | h | h := h
      · exact hshape h
      · omega
      · exact absurd (hpresent.symm.trans h) (by decide)
      · exact h hi
    next => rfl
  · rw [hcontainer, if_pos ⟨hshape, hc⟩]
    exact if_pos ⟨hpresent, hi⟩

/-- Settles O56: the checks by the body's branches, and the records' writes table by table. -/
theorem tableWriteChecksInOrder : Obligations.TableWriteChecksInOrder := by
  refine ⟨fun s f rest o ht hf => ?_, fun s i => ⟨crossOk_container s i, crossOk_station s i⟩, fun s p => writeParams_eq s p,
    writeStation_leaves, writeShape_leaves, fun s c p hwf => ?_, fun s i p => updCard_leaves s i _,
    fun s h p => updHousehold_leaves s h _, writeFraction_leaves, writeRound_leaves⟩
  · obtain ⟨hbusy, hchecks⟩ := tableWrite_requestChecks ht hf
    refine ⟨hbusy, fun hsaving => ?_⟩
    obtain ⟨hempty, hunknown, hshort, hforms⟩ := hchecks hsaving
    refine ⟨hempty, hunknown, hshort, hforms, fun r more ho hr hmore => tableWrite_roundAtWork ht hf hsaving ho hr hmore,
      fun b m residential display ho hb => tableWrite_bank ht hf hsaving ho hb,
      fun k m p more ho hmore hlo hhi => tableWrite_noticeClass ht hf hsaving ho hmore hlo hhi,
      fun t i mask record ho hlo hhi hmask hrecord hidle => ?_⟩
    obtain ⟨hunread, hcrossed, -⟩ := tableWrite_any ht hf hsaving ho hlo hhi hmask hrecord hidle
    exact ⟨hunread, hcrossed, fun r hparse hcross =>
      exec_tableWrite_taken s f rest o ht hf hsaving ho hlo hhi hmask hrecord hidle hparse hcross⟩
  · intro k g u geometry kept
    have hgeometry : g.sameGeometry p = true ↔ geometry := sameGeometry_iff g p
    refine ⟨fun d hd => container_writeContainer_other hd, container_writeContainer_absent, fun hold hnew => ?_,
      fun hold hnew => ⟨cfg_writeContainer_clears hold hnew, inlet_writeContainer_clears hold hnew, ?_, ?_, ?_,
        fun v r i q hbars hworking hv hr hi hstate hq =>
          served_writeContainer hold hnew hwf hbars hworking hv hr hi hstate hq⟩,
      container_writeContainer_sets, fun h r j q hq hc hpending => pending_writeContainer hwf h hq hc hpending,
      rounds_writeContainer⟩
    · refine (container_writeContainer_keeps hold hnew).trans ?_
      rw [if_congr hgeometry rfl rfl]
      rfl
    · rw [show u.container c = _ from container_writeContainer_clears hold hnew]
      rfl
    · rw [show u.container c = _ from container_writeContainer_clears hold hnew]
    · rw [show u.container c = _ from container_writeContainer_clears hold hnew]

end Sys2Proof.Machine
end
